-- ==== Sys2Proof/Word.lean ====
section
/-! DEFINITION. The word types of the machine and their plainest arithmetic. -/

namespace Sys2Proof

abbrev Byte := BitVec 8
abbrev W16 := BitVec 16
abbrev W32 := BitVec 32
abbrev W64 := BitVec 64

/-- A lane value in each of the 32 lanes of a group (08, R146). -/
abbrev Lanes := Vector W64 32

/-- A set of lanes, bit `l` for lane `l`. -/
abbrev Mask := BitVec 32

/-- The all-ones doubleword. -/
def ones64 : W64 := 0xFFFF_FFFF_FFFF_FFFF#64

end Sys2Proof
end

