-- ==== Sys2Proof/Syntax.lean ====
section
/-! DEFINITION. The instructions: one constructor per row of spec/opcode_table.json, words and agents' steps alike. -/

namespace Sys2Proof

/-- What a Cupola's correction code finds when it reads a burst (04, R73, R74). -/
inductive EccOutcome where
  | good       -- read good
  | corrected  -- correctable: corrected data returned and written back
  | transient  -- first read bad, second read good
  | transientCorrected  -- first read bad, second read correctable
  | lasting    -- both reads bad: the burst is poisoned
  deriving DecidableEq, Repr

/-- A packet that reaches a Cupola (04, R66): sending die, tag, physical address, size in bytes, byte mask and data; and what
the correction code finds where a write of part of a burst or an atomic reads the burst (04, R74). -/
structure Packet where
  die  : Nat
  tag  : Nat
  pa   : Nat
  size : Nat
  mask : List Bool
  data : List Byte
  ecc  : EccOutcome
  deriving DecidableEq, Repr

/-- What the host does over Rolyr-H (15, R270): an access to an aligned dword, or to one byte range of it. -/
inductive HostOp where
  | load  (pa : Nat)
  | store (pa : Nat) (mask : BitVec 8) (data : W64)
  | add   (pa : Nat) (data : W64)
  | swap  (pa : Nat) (data : W64)
  | cas   (pa : Nat) (expect data : W64)
  deriving DecidableEq, Repr

/-- What a fabric channel delivers (15, R269). -/
inductive FabMsg where
  | write (die : Nat) (pa : Nat) (mask : BitVec 8) (data : W64)  -- another package writes here
  | read  (die : Nat) (pa : Nat)                                 -- another package reads here
  | atomic (die : Nat) (x size op : Nat) (run : List (Nat × W64 × W64))  -- a word's run at a dword, by the opcode of the AT member: byte, operand, new value of each lane, ascending
  | reply (die pkg : Nat) (data : W64) (bad : Bool)              -- the head request of a channel of ours is answered
  deriving DecidableEq, Repr

/-- One launch queue of a context (22, R373): packet ring, capacity, completion ring. -/
structure QueueRec where
  base : Nat
  cap  : Nat
  comp : Nat
  deriving DecidableEq, Repr

/-- A pool given to a context by the driver: first byte and size (22, R374). -/
structure Pool where
  base : Nat
  size : Nat
  deriving DecidableEq, Repr

/-- What the loader knows of a loaded object beside its kernel record (03, R57-R61): the record's VA, the bases and sizes of
.code and .aslice, the size of .strtab, the records of .frames (SLOTS, DEPTH). -/
structure ImageRec where
  kva    : W64
  code   : W64
  codeSize : Nat
  aslice : W64
  asliceSize : Nat
  strtab : Nat
  frames : List (Nat × Nat)
  deriving DecidableEq, Repr

/-- The operands of CTXSET (22, R374), with the objects loaded in the context. -/
structure CtxRec where
  table   : Nat
  trapTab : W64
  scopeTab : W64
  boundTab : W64
  bagPool : Pool
  frmPool : Pool
  tskPool : Pool
  snpPool : Pool
  queues  : List QueueRec
  unsignedOk : Bool
  logCorrected : Bool
  images : List ImageRec
  bags : List (W64 × W64)   -- the bags its loaded objects declare (03, R60): parameter word of R92, capacity
  deriving DecidableEq, Repr

/-- One constructor per row of spec/opcode_table.json.  A row with an instruction word carries the
fields of its format (02, R25, R31); a row that is a step of an agent (95) carries what names the object
that steps and what the outside supplies. -/
inductive Instr where
  | clauseHeader (c : BitVec 4) (n : BitVec 4) (w : BitVec 12) (a : BitVec 4) (b : BitVec 4) (y : BitVec 1) -- CLAUSE_HEADER, R12
  | rpt (c : BitVec 6) (d : BitVec 4) (a : BitVec 4) (b : BitVec 4) -- RPT, R32
  | bra (o : BitVec 25) -- BRA, R280
  | bz (s : BitVec 9) (o : BitVec 16) -- BZ, R280
  | bnz (s : BitVec 9) (o : BitVec 16) -- BNZ, R280
  | bneg (s : BitVec 9) (o : BitVec 16) -- BNEG, R280
  | bnneg (s : BitVec 9) (o : BitVec 16) -- BNNEG, R280
  | bvz (a : BitVec 7) (x : BitVec 1) (o : BitVec 17) -- BVZ, R280
  | bvnz (a : BitVec 7) (x : BitVec 1) (o : BitVec 17) -- BVNZ, R280
  | call (o : BitVec 25) -- CALL, R281
  | callr (s : BitVec 9) -- CALLR, R281
  | jmpr (s : BitVec 9) (o : BitVec 16) -- JMPR, R280
  | ret -- RET, R281
  | exit -- EXIT, R282
  | vpark -- VPARK, R282
  | yield -- YIELD, R282
  | trap (s : BitVec 9) (i : BitVec 7) -- TRAP, R285
  | rfe -- RFE, R287
  | brk -- BRK, R285
  | sysrd (d : BitVec 9) (i : BitVec 7) -- SYSRD, R283
  | syswr (s : BitVec 9) (i : BitVec 7) -- SYSWR, R283
  | fent (p : BitVec 2) (z : BitVec 10) (s : BitVec 9) -- FENT, R298
  | fexit (p : BitVec 2) (s : BitVec 9) -- FEXIT, R298
  | fdisp (p : BitVec 2) (s : BitVec 9) -- FDISP, R298
  | fpub (p : BitVec 2) -- FPUB, R298
  | pcvrd (d : BitVec 7) -- PCVRD, R284
  | pcvwr (a : BitVec 7) (x : BitVec 1) -- PCVWR, R284
  | trpv (d : BitVec 7) (a : BitVec 7) (x : BitVec 1) -- TRPV, R352
  | add (d : BitVec 9) (a : BitVec 9) (b : BitVec 9) -- ADD, R190
  | sub (d : BitVec 9) (a : BitVec 9) (b : BitVec 9) -- SUB, R190
  | mul (d : BitVec 9) (a : BitVec 9) (b : BitVec 9) -- MUL, R190
  | mulh (d : BitVec 9) (a : BitVec 9) (b : BitVec 9) -- MULH, R190
  | mulhu (d : BitVec 9) (a : BitVec 9) (b : BitVec 9) -- MULHU, R190
  | div (d : BitVec 9) (a : BitVec 9) (b : BitVec 9) -- DIV, R191
  | divu (d : BitVec 9) (a : BitVec 9) (b : BitVec 9) -- DIVU, R191
  | rem (d : BitVec 9) (a : BitVec 9) (b : BitVec 9) -- REM, R191
  | remu (d : BitVec 9) (a : BitVec 9) (b : BitVec 9) -- REMU, R191
  | and (d : BitVec 9) (a : BitVec 9) (b : BitVec 9) -- AND, R190
  | or (d : BitVec 9) (a : BitVec 9) (b : BitVec 9) -- OR, R190
  | xor (d : BitVec 9) (a : BitVec 9) (b : BitVec 9) -- XOR, R190
  | andn (d : BitVec 9) (a : BitVec 9) (b : BitVec 9) -- ANDN, R190
  | shl (d : BitVec 9) (a : BitVec 9) (b : BitVec 9) -- SHL, R190
  | shr (d : BitVec 9) (a : BitVec 9) (b : BitVec 9) -- SHR, R190
  | sar (d : BitVec 9) (a : BitVec 9) (b : BitVec 9) -- SAR, R190
  | rot (d : BitVec 9) (a : BitVec 9) (b : BitVec 9) -- ROT, R190
  | min (d : BitVec 9) (a : BitVec 9) (b : BitVec 9) -- MIN, R190
  | max (d : BitVec 9) (a : BitVec 9) (b : BitVec 9) -- MAX, R190
  | minu (d : BitVec 9) (a : BitVec 9) (b : BitVec 9) -- MINU, R190
  | maxu (d : BitVec 9) (a : BitVec 9) (b : BitVec 9) -- MAXU, R190
  | slt (d : BitVec 9) (a : BitVec 9) (b : BitVec 9) -- SLT, R190
  | sltu (d : BitVec 9) (a : BitVec 9) (b : BitVec 9) -- SLTU, R190
  | seq (d : BitVec 9) (a : BitVec 9) (b : BitVec 9) -- SEQ, R190
  | sel (d : BitVec 9) (a : BitVec 9) (b : BitVec 9) -- SEL, R190
  | clz (d : BitVec 9) (a : BitVec 9) -- CLZ, R190
  | ctz (d : BitVec 9) (a : BitVec 9) -- CTZ, R190
  | popc (d : BitVec 9) (a : BitVec 9) -- POPC, R190
  | addi (d : BitVec 9) (a : BitVec 9) (i : BitVec 9) -- ADDI, R192
  | andi (d : BitVec 9) (a : BitVec 9) (i : BitVec 9) -- ANDI, R192
  | ori (d : BitVec 9) (a : BitVec 9) (i : BitVec 9) -- ORI, R192
  | xori (d : BitVec 9) (a : BitVec 9) (i : BitVec 9) -- XORI, R192
  | shli (d : BitVec 9) (a : BitVec 9) (i : BitVec 9) -- SHLI, R192
  | shri (d : BitVec 9) (a : BitVec 9) (i : BitVec 9) -- SHRI, R192
  | sari (d : BitVec 9) (a : BitVec 9) (i : BitVec 9) -- SARI, R192
  | slti (d : BitVec 9) (a : BitVec 9) (i : BitVec 9) -- SLTI, R192
  | sltui (d : BitVec 9) (a : BitVec 9) (i : BitVec 9) -- SLTUI, R192
  | seqi (d : BitVec 9) (a : BitVec 9) (i : BitVec 9) -- SEQI, R192
  | muli (d : BitVec 9) (a : BitVec 9) (i : BitVec 9) -- MULI, R192
  | movi (d : BitVec 9) (i : BitVec 18) -- MOVI, R193
  | movhi (d : BitVec 9) (i : BitVec 18) -- MOVHI, R193
  | ldpc (d : BitVec 9) (i : BitVec 18) -- LDPC, R193
  | vadd (d : BitVec 7) (a : BitVec 7) (b : BitVec 7) (x : BitVec 1) (y : BitVec 1) (w : BitVec 2) -- VADD, R197
  | vsub (d : BitVec 7) (a : BitVec 7) (b : BitVec 7) (x : BitVec 1) (y : BitVec 1) (w : BitVec 2) -- VSUB, R197
  | vaddss (d : BitVec 7) (a : BitVec 7) (b : BitVec 7) (x : BitVec 1) (y : BitVec 1) (w : BitVec 2) -- VADDSS, R197
  | vaddsu (d : BitVec 7) (a : BitVec 7) (b : BitVec 7) (x : BitVec 1) (y : BitVec 1) (w : BitVec 2) -- VADDSU, R197
  | vsubss (d : BitVec 7) (a : BitVec 7) (b : BitVec 7) (x : BitVec 1) (y : BitVec 1) (w : BitVec 2) -- VSUBSS, R197
  | vsubsu (d : BitVec 7) (a : BitVec 7) (b : BitVec 7) (x : BitVec 1) (y : BitVec 1) (w : BitVec 2) -- VSUBSU, R197
  | vmul (d : BitVec 7) (a : BitVec 7) (b : BitVec 7) (x : BitVec 1) (y : BitVec 1) (w : BitVec 2) -- VMUL, R197
  | vmulh (d : BitVec 7) (a : BitVec 7) (b : BitVec 7) (x : BitVec 1) (y : BitVec 1) (w : BitVec 2) -- VMULH, R197
  | vmulhu (d : BitVec 7) (a : BitVec 7) (b : BitVec 7) (x : BitVec 1) (y : BitVec 1) (w : BitVec 2) -- VMULHU, R197
  | vmad (d : BitVec 7) (a : BitVec 7) (b : BitVec 7) (x : BitVec 1) (y : BitVec 1) (w : BitVec 2) -- VMAD, R197
  | vmin (d : BitVec 7) (a : BitVec 7) (b : BitVec 7) (x : BitVec 1) (y : BitVec 1) (w : BitVec 2) -- VMIN, R197
  | vmax (d : BitVec 7) (a : BitVec 7) (b : BitVec 7) (x : BitVec 1) (y : BitVec 1) (w : BitVec 2) -- VMAX, R197
  | vminu (d : BitVec 7) (a : BitVec 7) (b : BitVec 7) (x : BitVec 1) (y : BitVec 1) (w : BitVec 2) -- VMINU, R197
  | vmaxu (d : BitVec 7) (a : BitVec 7) (b : BitVec 7) (x : BitVec 1) (y : BitVec 1) (w : BitVec 2) -- VMAXU, R197
  | vand (d : BitVec 7) (a : BitVec 7) (b : BitVec 7) (x : BitVec 1) (y : BitVec 1) (w : BitVec 2) -- VAND, R197
  | vor (d : BitVec 7) (a : BitVec 7) (b : BitVec 7) (x : BitVec 1) (y : BitVec 1) (w : BitVec 2) -- VOR, R197
  | vxor (d : BitVec 7) (a : BitVec 7) (b : BitVec 7) (x : BitVec 1) (y : BitVec 1) (w : BitVec 2) -- VXOR, R197
  | vandn (d : BitVec 7) (a : BitVec 7) (b : BitVec 7) (x : BitVec 1) (y : BitVec 1) (w : BitVec 2) -- VANDN, R197
  | vshl (d : BitVec 7) (a : BitVec 7) (b : BitVec 7) (x : BitVec 1) (y : BitVec 1) (w : BitVec 2) -- VSHL, R197
  | vshr (d : BitVec 7) (a : BitVec 7) (b : BitVec 7) (x : BitVec 1) (y : BitVec 1) (w : BitVec 2) -- VSHR, R197
  | vsar (d : BitVec 7) (a : BitVec 7) (b : BitVec 7) (x : BitVec 1) (y : BitVec 1) (w : BitVec 2) -- VSAR, R197
  | vrot (d : BitVec 7) (a : BitVec 7) (b : BitVec 7) (x : BitVec 1) (y : BitVec 1) (w : BitVec 2) -- VROT, R197
  | vceq (d : BitVec 7) (a : BitVec 7) (b : BitVec 7) (x : BitVec 1) (y : BitVec 1) (w : BitVec 2) -- VCEQ, R197
  | vclt (d : BitVec 7) (a : BitVec 7) (b : BitVec 7) (x : BitVec 1) (y : BitVec 1) (w : BitVec 2) -- VCLT, R197
  | vcltu (d : BitVec 7) (a : BitVec 7) (b : BitVec 7) (x : BitVec 1) (y : BitVec 1) (w : BitVec 2) -- VCLTU, R197
  | vsel (d : BitVec 7) (a : BitVec 7) (b : BitVec 7) (x : BitVec 1) (y : BitVec 1) (w : BitVec 2) -- VSEL, R197
  | vclz (d : BitVec 7) (a : BitVec 7) (x : BitVec 1) (w : BitVec 2) -- VCLZ, R197
  | vpopc (d : BitVec 7) (a : BitVec 7) (x : BitVec 1) (w : BitVec 2) -- VPOPC, R197
  | vabs (d : BitVec 7) (a : BitVec 7) (x : BitVec 1) (w : BitVec 2) -- VABS, R197
  | vdot4 (d : BitVec 7) (a : BitVec 7) (b : BitVec 7) (x : BitVec 1) (y : BitVec 1) -- VDOT4, R198
  | vmov (d : BitVec 7) (a : BitVec 7) (x : BitVec 1) (w : BitVec 2) -- VMOV, R197
  | vwiden (d : BitVec 7) (a : BitVec 7) (x : BitVec 1) (w : BitVec 2) -- VWIDEN, R198
  | vnarrow (d : BitVec 7) (a : BitVec 7) (x : BitVec 1) (w : BitVec 2) -- VNARROW, R198
  | vlid (d : BitVec 7) (w : BitVec 2) -- VLID, R198
  | vaddi (d : BitVec 7) (a : BitVec 7) (i : BitVec 8) (x : BitVec 1) (w : BitVec 2) -- VADDI, R199
  | vshli (d : BitVec 7) (a : BitVec 7) (i : BitVec 8) (x : BitVec 1) (w : BitVec 2) -- VSHLI, R199
  | vshri (d : BitVec 7) (a : BitVec 7) (i : BitVec 8) (x : BitVec 1) (w : BitVec 2) -- VSHRI, R199
  | vsari (d : BitVec 7) (a : BitVec 7) (i : BitVec 8) (x : BitVec 1) (w : BitVec 2) -- VSARI, R199
  | vandi (d : BitVec 7) (a : BitVec 7) (i : BitVec 8) (x : BitVec 1) (w : BitVec 2) -- VANDI, R199
  | vmovi (d : BitVec 7) (i : BitVec 8) (w : BitVec 2) -- VMOVI, R199
  | vceqi (d : BitVec 7) (a : BitVec 7) (i : BitVec 8) (x : BitVec 1) (w : BitVec 2) -- VCEQI, R199
  | vaddS (d : BitVec 7) (a : BitVec 7) (s : BitVec 8) (x : BitVec 1) (w : BitVec 2) -- VADD_S, R200
  | vsubS (d : BitVec 7) (a : BitVec 7) (s : BitVec 8) (x : BitVec 1) (w : BitVec 2) -- VSUB_S, R200
  | vmulS (d : BitVec 7) (a : BitVec 7) (s : BitVec 8) (x : BitVec 1) (w : BitVec 2) -- VMUL_S, R200
  | vminS (d : BitVec 7) (a : BitVec 7) (s : BitVec 8) (x : BitVec 1) (w : BitVec 2) -- VMIN_S, R200
  | vmaxS (d : BitVec 7) (a : BitVec 7) (s : BitVec 8) (x : BitVec 1) (w : BitVec 2) -- VMAX_S, R200
  | vandS (d : BitVec 7) (a : BitVec 7) (s : BitVec 8) (x : BitVec 1) (w : BitVec 2) -- VAND_S, R200
  | vmovS (d : BitVec 7) (s : BitVec 8) (w : BitVec 2) -- VMOV_S, R200
  | vceqS (d : BitVec 7) (a : BitVec 7) (s : BitVec 8) (x : BitVec 1) (w : BitVec 2) -- VCEQ_S, R200
  | vcltS (d : BitVec 7) (a : BitVec 7) (s : BitVec 8) (x : BitVec 1) (w : BitVec 2) -- VCLT_S, R200
  | faddF32 (d : BitVec 7) (a : BitVec 7) (b : BitVec 7) (x : BitVec 1) (y : BitVec 1) (h : BitVec 1) (k : BitVec 1) -- FADD_F32, R203
  | fsubF32 (d : BitVec 7) (a : BitVec 7) (b : BitVec 7) (x : BitVec 1) (y : BitVec 1) (h : BitVec 1) (k : BitVec 1) -- FSUB_F32, R203
  | fmulF32 (d : BitVec 7) (a : BitVec 7) (b : BitVec 7) (x : BitVec 1) (y : BitVec 1) (h : BitVec 1) (k : BitVec 1) -- FMUL_F32, R203
  | ffmaF32 (d : BitVec 7) (a : BitVec 7) (b : BitVec 7) (x : BitVec 1) (y : BitVec 1) (h : BitVec 1) (k : BitVec 1) -- FFMA_F32, R203
  | ffmsF32 (d : BitVec 7) (a : BitVec 7) (b : BitVec 7) (x : BitVec 1) (y : BitVec 1) (h : BitVec 1) (k : BitVec 1) -- FFMS_F32, R203
  | fminF32 (d : BitVec 7) (a : BitVec 7) (b : BitVec 7) (x : BitVec 1) (y : BitVec 1) (h : BitVec 1) (k : BitVec 1) -- FMIN_F32, R204
  | fmaxF32 (d : BitVec 7) (a : BitVec 7) (b : BitVec 7) (x : BitVec 1) (y : BitVec 1) (h : BitVec 1) (k : BitVec 1) -- FMAX_F32, R204
  | fabsF32 (d : BitVec 7) (a : BitVec 7) (x : BitVec 1) (h : BitVec 1) -- FABS_F32, R203
  | fnegF32 (d : BitVec 7) (a : BitVec 7) (x : BitVec 1) (h : BitVec 1) -- FNEG_F32, R203
  | fceqF32 (d : BitVec 7) (a : BitVec 7) (b : BitVec 7) (x : BitVec 1) (y : BitVec 1) (h : BitVec 1) (k : BitVec 1) -- FCEQ_F32, R204
  | fcltF32 (d : BitVec 7) (a : BitVec 7) (b : BitVec 7) (x : BitVec 1) (y : BitVec 1) (h : BitVec 1) (k : BitVec 1) -- FCLT_F32, R204
  | fcleF32 (d : BitVec 7) (a : BitVec 7) (b : BitVec 7) (x : BitVec 1) (y : BitVec 1) (h : BitVec 1) (k : BitVec 1) -- FCLE_F32, R204
  | faddBf16 (d : BitVec 7) (a : BitVec 7) (b : BitVec 7) (x : BitVec 1) (y : BitVec 1) (h : BitVec 1) (k : BitVec 1) -- FADD_BF16, R203
  | fmulBf16 (d : BitVec 7) (a : BitVec 7) (b : BitVec 7) (x : BitVec 1) (y : BitVec 1) (h : BitVec 1) (k : BitVec 1) -- FMUL_BF16, R203
  | ffmaBf16 (d : BitVec 7) (a : BitVec 7) (b : BitVec 7) (x : BitVec 1) (y : BitVec 1) (h : BitVec 1) (k : BitVec 1) -- FFMA_BF16, R203
  | fdot2Bf16 (d : BitVec 7) (a : BitVec 7) (b : BitVec 7) (x : BitVec 1) (y : BitVec 1) (h : BitVec 1) (k : BitVec 1) -- FDOT2_BF16, R205
  | faddF16 (d : BitVec 7) (a : BitVec 7) (b : BitVec 7) (x : BitVec 1) (y : BitVec 1) (h : BitVec 1) (k : BitVec 1) -- FADD_F16, R203
  | fmulF16 (d : BitVec 7) (a : BitVec 7) (b : BitVec 7) (x : BitVec 1) (y : BitVec 1) (h : BitVec 1) (k : BitVec 1) -- FMUL_F16, R203
  | ffmaF16 (d : BitVec 7) (a : BitVec 7) (b : BitVec 7) (x : BitVec 1) (y : BitVec 1) (h : BitVec 1) (k : BitVec 1) -- FFMA_F16, R203
  | fdot2F16 (d : BitVec 7) (a : BitVec 7) (b : BitVec 7) (x : BitVec 1) (y : BitVec 1) (h : BitVec 1) (k : BitVec 1) -- FDOT2_F16, R205
  | faddF64 (d : BitVec 7) (a : BitVec 7) (b : BitVec 7) (x : BitVec 1) (y : BitVec 1) (h : BitVec 1) (k : BitVec 1) -- FADD_F64, R203
  | fmulF64 (d : BitVec 7) (a : BitVec 7) (b : BitVec 7) (x : BitVec 1) (y : BitVec 1) (h : BitVec 1) (k : BitVec 1) -- FMUL_F64, R203
  | ffmaF64 (d : BitVec 7) (a : BitVec 7) (b : BitVec 7) (x : BitVec 1) (y : BitVec 1) (h : BitVec 1) (k : BitVec 1) -- FFMA_F64, R203
  | fcvtF32Bf16 (d : BitVec 7) (a : BitVec 7) (x : BitVec 1) (h : BitVec 1) -- FCVT_F32_BF16, R206
  | fcvtBf16F32 (d : BitVec 7) (a : BitVec 7) (x : BitVec 1) (h : BitVec 1) -- FCVT_BF16_F32, R206
  | fcvtF32F16 (d : BitVec 7) (a : BitVec 7) (x : BitVec 1) (h : BitVec 1) -- FCVT_F32_F16, R206
  | fcvtF16F32 (d : BitVec 7) (a : BitVec 7) (x : BitVec 1) (h : BitVec 1) -- FCVT_F16_F32, R206
  | fcvtF32E4m3 (d : BitVec 7) (a : BitVec 7) (x : BitVec 1) (h : BitVec 1) -- FCVT_F32_E4M3, R206
  | fcvtE4m3F32 (d : BitVec 7) (a : BitVec 7) (x : BitVec 1) (h : BitVec 1) -- FCVT_E4M3_F32, R206
  | fcvtF32E5m2 (d : BitVec 7) (a : BitVec 7) (x : BitVec 1) (h : BitVec 1) -- FCVT_F32_E5M2, R206
  | fcvtE5m2F32 (d : BitVec 7) (a : BitVec 7) (x : BitVec 1) (h : BitVec 1) -- FCVT_E5M2_F32, R206
  | fcvtF32I32 (d : BitVec 7) (a : BitVec 7) (x : BitVec 1) (h : BitVec 1) -- FCVT_F32_I32, R206
  | fcvtI32F32 (d : BitVec 7) (a : BitVec 7) (x : BitVec 1) (h : BitVec 1) -- FCVT_I32_F32, R206
  | fcvtI32F32z (d : BitVec 7) (a : BitVec 7) (x : BitVec 1) (h : BitVec 1) -- FCVT_I32_F32Z, R206
  | fcvtF64F32 (d : BitVec 7) (a : BitVec 7) (x : BitVec 1) (h : BitVec 1) -- FCVT_F64_F32, R206
  | fcvtF32F64 (d : BitVec 7) (a : BitVec 7) (x : BitVec 1) (h : BitVec 1) -- FCVT_F32_F64, R206
  | xshfl (d : BitVec 7) (a : BitVec 7) (b : BitVec 7) (x : BitVec 1) (y : BitVec 1) (w : BitVec 2) -- XSHFL, R209
  | xswz (d : BitVec 7) (a : BitVec 7) (i : BitVec 8) (x : BitVec 1) (w : BitVec 2) -- XSWZ, R209
  | xrot (d : BitVec 7) (a : BitVec 7) (i : BitVec 8) (x : BitVec 1) (w : BitVec 2) -- XROT, R209
  | xbcast (d : BitVec 7) (a : BitVec 7) (i : BitVec 8) (x : BitVec 1) (w : BitVec 2) -- XBCAST, R209
  | xredadd (d : BitVec 7) (a : BitVec 7) (x : BitVec 1) (w : BitVec 2) -- XREDADD, R210
  | xredmin (d : BitVec 7) (a : BitVec 7) (x : BitVec 1) (w : BitVec 2) -- XREDMIN, R210
  | xredmax (d : BitVec 7) (a : BitVec 7) (x : BitVec 1) (w : BitVec 2) -- XREDMAX, R210
  | xfredaddF32 (d : BitVec 7) (a : BitVec 7) (x : BitVec 1) -- XFREDADD_F32, R210
  | xfredmaxF32 (d : BitVec 7) (a : BitVec 7) (x : BitVec 1) -- XFREDMAX_F32, R210
  | xscan (d : BitVec 7) (a : BitVec 7) (x : BitVec 1) (w : BitVec 2) -- XSCAN, R210
  | xfscanF32 (d : BitVec 7) (a : BitVec 7) (x : BitVec 1) -- XFSCAN_F32, R210
  | xzip (d : BitVec 7) (a : BitVec 7) (b : BitVec 7) (x : BitVec 1) (y : BitVec 1) (w : BitVec 2) -- XZIP, R211
  | xunzip (d : BitVec 7) (a : BitVec 7) (b : BitVec 7) (x : BitVec 1) (y : BitVec 1) (w : BitVec 2) -- XUNZIP, R211
  | xgetW8 (d : BitVec 9) (a : BitVec 7) (l : BitVec 5) (u : BitVec 3) (x : BitVec 1) -- XGET_W8, R212
  | xgetW16 (d : BitVec 9) (a : BitVec 7) (l : BitVec 5) (u : BitVec 3) (x : BitVec 1) -- XGET_W16, R212
  | xgetW32 (d : BitVec 9) (a : BitVec 7) (l : BitVec 5) (u : BitVec 3) (x : BitVec 1) -- XGET_W32, R212
  | xgetW64 (d : BitVec 9) (a : BitVec 7) (l : BitVec 5) (u : BitVec 3) (x : BitVec 1) -- XGET_W64, R212
  | xputW8 (d : BitVec 7) (s : BitVec 9) (l : BitVec 5) (u : BitVec 3) -- XPUT_W8, R212
  | xputW16 (d : BitVec 7) (s : BitVec 9) (l : BitVec 5) (u : BitVec 3) -- XPUT_W16, R212
  | xputW32 (d : BitVec 7) (s : BitVec 9) (l : BitVec 5) (u : BitVec 3) -- XPUT_W32, R212
  | xputW64 (d : BitVec 7) (s : BitVec 9) (l : BitVec 5) (u : BitVec 3) -- XPUT_W64, R212
  | xballot (d : BitVec 9) (a : BitVec 7) (x : BitVec 1) -- XBALLOT, R212
  | srcp (d : BitVec 7) (a : BitVec 7) (x : BitVec 1) (h : BitVec 1) -- SRCP, R214
  | srsqrt (d : BitVec 7) (a : BitVec 7) (x : BitVec 1) (h : BitVec 1) -- SRSQRT, R214
  | ssqrt (d : BitVec 7) (a : BitVec 7) (x : BitVec 1) (h : BitVec 1) -- SSQRT, R214
  | sexp2 (d : BitVec 7) (a : BitVec 7) (x : BitVec 1) (h : BitVec 1) -- SEXP2, R214
  | slog2 (d : BitVec 7) (a : BitVec 7) (x : BitVec 1) (h : BitVec 1) -- SLOG2, R214
  | sexp (d : BitVec 7) (a : BitVec 7) (x : BitVec 1) (h : BitVec 1) -- SEXP, R214
  | ssinpi (d : BitVec 7) (a : BitVec 7) (x : BitVec 1) (h : BitVec 1) -- SSINPI, R214
  | scospi (d : BitVec 7) (a : BitVec 7) (x : BitVec 1) (h : BitVec 1) -- SCOSPI, R214
  | stanh (d : BitVec 7) (a : BitVec 7) (x : BitVec 1) (h : BitVec 1) -- STANH, R214
  | ssigm (d : BitVec 7) (a : BitVec 7) (x : BitVec 1) (h : BitVec 1) -- SSIGM, R214
  | sladd (d : BitVec 7) (a : BitVec 7) (b : BitVec 7) (x : BitVec 1) (y : BitVec 1) (w : BitVec 2) -- SLADD, R218
  | slsub (d : BitVec 7) (a : BitVec 7) (b : BitVec 7) (x : BitVec 1) (y : BitVec 1) (w : BitVec 2) -- SLSUB, R218
  | slmul (d : BitVec 7) (a : BitVec 7) (b : BitVec 7) (x : BitVec 1) (y : BitVec 1) (w : BitVec 2) -- SLMUL, R218
  | sldiv (d : BitVec 7) (a : BitVec 7) (b : BitVec 7) (x : BitVec 1) (y : BitVec 1) (w : BitVec 2) -- SLDIV, R218
  | slrcp (d : BitVec 7) (a : BitVec 7) (x : BitVec 1) (w : BitVec 2) -- SLRCP, R219
  | slneg (d : BitVec 7) (a : BitVec 7) (x : BitVec 1) (w : BitVec 2) -- SLNEG, R219
  | slabs (d : BitVec 7) (a : BitVec 7) (x : BitVec 1) (w : BitVec 2) -- SLABS, R219
  | slexp (d : BitVec 7) (a : BitVec 7) (x : BitVec 1) (w : BitVec 2) -- SLEXP, R219
  | sllog (d : BitVec 7) (a : BitVec 7) (x : BitVec 1) (w : BitVec 2) -- SLLOG, R219
  | slmin (d : BitVec 7) (a : BitVec 7) (b : BitVec 7) (x : BitVec 1) (y : BitVec 1) (w : BitVec 2) -- SLMIN, R220
  | slmax (d : BitVec 7) (a : BitVec 7) (b : BitVec 7) (x : BitVec 1) (y : BitVec 1) (w : BitVec 2) -- SLMAX, R220
  | slceq (d : BitVec 7) (a : BitVec 7) (b : BitVec 7) (x : BitVec 1) (y : BitVec 1) (w : BitVec 2) -- SLCEQ, R220
  | slclt (d : BitVec 7) (a : BitVec 7) (b : BitVec 7) (x : BitVec 1) (y : BitVec 1) (w : BitVec 2) -- SLCLT, R220
  | slsqrt (d : BitVec 7) (a : BitVec 7) (x : BitVec 1) (w : BitVec 2) -- SLSQRT, R218
  | slcvtSlF32 (d : BitVec 7) (a : BitVec 7) (x : BitVec 1) -- SLCVT_SL_F32, R222
  | slcvtF32Sl (d : BitVec 7) (a : BitVec 7) (x : BitVec 1) -- SLCVT_F32_SL, R222
  | slcvtSlF64 (d : BitVec 7) (a : BitVec 7) (x : BitVec 1) -- SLCVT_SL_F64, R222
  | slcvtF64Sl (d : BitVec 7) (a : BitVec 7) (x : BitVec 1) -- SLCVT_F64_SL, R222
  | slcvtSl16Sl32 (d : BitVec 7) (a : BitVec 7) (x : BitVec 1) -- SLCVT_SL16_SL32, R222
  | slcvtSl32Sl16 (d : BitVec 7) (a : BitVec 7) (x : BitVec 1) -- SLCVT_SL32_SL16, R222
  | sllvl (d : BitVec 7) (a : BitVec 7) (x : BitVec 1) (w : BitVec 2) -- SLLVL, R221
  | vld (d : BitVec 7) (s : BitVec 9) (o : BitVec 7) (v : BitVec 1) (f : BitVec 1) -- VLD, R113
  | vst (d : BitVec 7) (s : BitVec 9) (o : BitVec 7) (v : BitVec 1) (f : BitVec 1) -- VST, R113
  | vldu (d : BitVec 7) (s : BitVec 9) (i : BitVec 8) (f : BitVec 1) -- VLDU, R114
  | vstu (d : BitVec 7) (s : BitVec 9) (i : BitVec 8) (f : BitVec 1) -- VSTU, R114
  | vlds (d : BitVec 7) (s : BitVec 9) (o : BitVec 7) (v : BitVec 1) (f : BitVec 1) -- VLDS, R113
  | vsts (d : BitVec 7) (s : BitVec 9) (o : BitVec 7) (v : BitVec 1) (f : BitVec 1) -- VSTS, R113
  | vldsu (d : BitVec 7) (s : BitVec 9) (i : BitVec 8) (f : BitVec 1) -- VLDSU, R114
  | vstsu (d : BitVec 7) (s : BitVec 9) (i : BitVec 8) (f : BitVec 1) -- VSTSU, R114
  | sld (d : BitVec 9) (s : BitVec 9) (i : BitVec 6) (f : BitVec 1) -- SLD, R116
  | sst (d : BitVec 9) (s : BitVec 9) (i : BitVec 6) (f : BitVec 1) -- SST, R116
  | sldw (d : BitVec 9) (s : BitVec 9) (i : BitVec 6) (f : BitVec 1) -- SLDW, R116
  | vpop (d : BitVec 7) (q : BitVec 2) (f : BitVec 1) -- VPOP, R144
  | fld (p : BitVec 2) (s : BitVec 10) (r : BitVec 9) (f : BitVec 1) -- FLD, R299
  | fst (p : BitVec 2) (s : BitVec 10) (r : BitVec 9) (f : BitVec 1) -- FST, R299
  | fldb (p : BitVec 2) (s : BitVec 10) (r : BitVec 9) (f : BitVec 1) -- FLDB, R299
  | flda (p : BitVec 2) (s : BitVec 10) (r : BitVec 9) (f : BitVec 1) -- FLDA, R299
  | famo (p : BitVec 2) (s : BitVec 10) (r : BitVec 9) (f : BitVec 1) -- FAMO, R300
  | vstb (d : BitVec 7) (s : BitVec 9) (t : BitVec 6) (f : BitVec 1) -- VSTB, R115
  | bar (d : BitVec 7) (b : BitVec 9) (o : BitVec 3) (f : BitVec 1) -- BAR, R335
  | barinit (s : BitVec 9) (b : BitVec 9) (f : BitVec 1) -- BARINIT, R337
  | barsig (b : BitVec 9) (f : BitVec 1) -- BARSIG, R336
  | barwait (b : BitVec 9) (f : BitVec 1) -- BARWAIT, R336
  | gbar (s : BitVec 9) (b : BitVec 9) (f : BitVec 1) -- GBAR, R342
  | qpush (s : BitVec 9) (q : BitVec 6) (f : BitVec 1) -- QPUSH, R340
  | qpop (s : BitVec 9) (q : BitVec 6) (f : BitVec 1) -- QPOP, R340
  | qtry (s : BitVec 9) (q : BitVec 6) (f : BitVec 1) -- QTRY, R340
  | qallow (s : BitVec 9) (q : BitVec 6) (f : BitVec 1) -- QALLOW, R340
  | ringpub (g : BitVec 4) (s : BitVec 9) (f : BitVec 1) -- RINGPUB, R341
  | ringwait (d : BitVec 9) (g : BitVec 4) (s : BitVec 9) (f : BitVec 1) -- RINGWAIT, R341
  | ringadv (d : BitVec 9) (g : BitVec 4) (s : BitVec 9) (f : BitVec 1) -- RINGADV, R341
  | aadd (d : BitVec 7) (a : BitVec 7) (c : BitVec 5) (w : BitVec 1) (x : BitVec 1) (f : BitVec 1) -- AADD, R252
  | aand (d : BitVec 7) (a : BitVec 7) (c : BitVec 5) (w : BitVec 1) (x : BitVec 1) (f : BitVec 1) -- AAND, R252
  | aor (d : BitVec 7) (a : BitVec 7) (c : BitVec 5) (w : BitVec 1) (x : BitVec 1) (f : BitVec 1) -- AOR, R252
  | axor (d : BitVec 7) (a : BitVec 7) (c : BitVec 5) (w : BitVec 1) (x : BitVec 1) (f : BitVec 1) -- AXOR, R252
  | amin (d : BitVec 7) (a : BitVec 7) (c : BitVec 5) (w : BitVec 1) (x : BitVec 1) (f : BitVec 1) -- AMIN, R252
  | amax (d : BitVec 7) (a : BitVec 7) (c : BitVec 5) (w : BitVec 1) (x : BitVec 1) (f : BitVec 1) -- AMAX, R252
  | aswap (d : BitVec 7) (a : BitVec 7) (c : BitVec 5) (w : BitVec 1) (x : BitVec 1) (f : BitVec 1) -- ASWAP, R252
  | acas (d : BitVec 7) (a : BitVec 7) (c : BitVec 5) (w : BitVec 1) (x : BitVec 1) (f : BitVec 1) -- ACAS, R254
  | redadd (d : BitVec 7) (a : BitVec 7) (c : BitVec 5) (w : BitVec 1) (x : BitVec 1) (f : BitVec 1) -- REDADD, R252
  | redmin (d : BitVec 7) (a : BitVec 7) (c : BitVec 5) (w : BitVec 1) (x : BitVec 1) (f : BitVec 1) -- REDMIN, R252
  | redmax (d : BitVec 7) (a : BitVec 7) (c : BitVec 5) (w : BitVec 1) (x : BitVec 1) (f : BitVec 1) -- REDMAX, R252
  | fredadd (d : BitVec 7) (a : BitVec 7) (c : BitVec 5) (w : BitVec 1) (x : BitVec 1) (f : BitVec 1) -- FREDADD, R255
  | fence (c : BitVec 5) (k : BitVec 2) (f : BitVec 1) -- FENCE, R267
  | qfence (c : BitVec 5) (k : BitVec 2) (q : BitVec 8) (f : BitVec 1) -- QFENCE, R267
  | mbrd (d : BitVec 9) (m : BitVec 4) (f : BitVec 1) -- MBRD, R344
  | mbwr (d : BitVec 9) (m : BitVec 4) (f : BitVec 1) -- MBWR, R344
  | mbtry (d : BitVec 9) (m : BitVec 4) (f : BitVec 1) -- MBTRY, R344
  | mma (a : BitVec 7) (b : BitVec 7) (c : BitVec 7) (h : BitVec 3) (u : BitVec 1) -- MMA, R235
  | mmaz (a : BitVec 7) (b : BitVec 7) (c : BitVec 7) (h : BitVec 3) (u : BitVec 1) -- MMAZ, R235
  | mset (a : BitVec 7) -- MSET, R234
  | mzero (s : BitVec 9) (c : BitVec 7) -- MZERO, R240
  | mpar (s : BitVec 9) -- MPAR, R243
  | mdrain (s : BitVec 9) (b : BitVec 9) (c : BitVec 7) -- MDRAIN, R244
  | mdrainv (s : BitVec 9) (c : BitVec 7) -- MDRAINV, R246
  | msoft (s : BitVec 9) (b : BitVec 9) (c : BitVec 7) -- MSOFT, R241
  | mside (s : BitVec 9) (b : BitVec 9) (c : BitVec 7) -- MSIDE, R242
  | macq (s : BitVec 9) (b : BitVec 9) (c : BitVec 7) -- MACQ, R240
  | mrel (s : BitVec 9) (c : BitVec 7) -- MREL, R240
  | mrelf (s : BitVec 9) (c : BitVec 7) -- MRELF, R240
  | mred (s : BitVec 9) (b : BitVec 9) (c : BitVec 7) -- MRED, R240
  | cpy (t : BitVec 9) (s : BitVec 9) (a : BitVec 7) -- CPY, R131
  | gath (t : BitVec 9) (s : BitVec 9) (a : BitVec 7) -- GATH, R131
  | scat (t : BitVec 9) (s : BitVec 9) (a : BitVec 7) -- SCAT, R131
  | chain (t : BitVec 9) (s : BitVec 9) (a : BitVec 7) -- CHAIN, R133
  | ringsub (t : BitVec 9) (s : BitVec 9) (a : BitVec 7) -- RINGSUB, R137
  | unsub (t : BitVec 9) (s : BitVec 9) -- UNSUB, R138
  | pull (t : BitVec 9) (s : BitVec 9) (a : BitVec 7) -- PULL, R139
  | tlook (t : BitVec 9) (s : BitVec 9) -- TLOOK, R135
  | tfill (t : BitVec 9) (s : BitVec 9) (a : BitVec 7) -- TFILL, R136
  | tevict (t : BitVec 9) (a : BitVec 7) -- TEVICT, R136
  | tinval (t : BitVec 9) (a : BitVec 7) -- TINVAL, R136
  | coll (t : BitVec 9) (s : BitVec 9) (a : BitVec 7) -- COLL, R134
  | oldu (t : BitVec 9) (s : BitVec 9) (a : BitVec 7) -- OLDU, R143
  | oldg (t : BitVec 9) (s : BitVec 9) (a : BitVec 7) -- OLDG, R143
  | bput (r : BitVec 7) (k : BitVec 7) (b : BitVec 9) (l : BitVec 1) (f : BitVec 1) -- BPUT, R87
  | bputl (r : BitVec 7) (b : BitVec 9) (f : BitVec 1) -- BPUTL, R87
  | bcount (d : BitVec 9) (s : BitVec 9) -- BCOUNT, R91
  | bcounts (d : BitVec 9) (s : BitVec 9) (a : BitVec 7) -- BCOUNTS, R91
  | bnew (d : BitVec 9) (s : BitVec 9) (a : BitVec 7) -- BNEW, R92
  | bgrow (d : BitVec 9) (s : BitVec 9) (a : BitVec 7) -- BGROW, R93
  | bfree (d : BitVec 9) (s : BitVec 9) -- BFREE, R93
  | bseal (d : BitVec 9) (s : BitVec 9) -- BSEAL, R93
  | biter (d : BitVec 9) (s : BitVec 9) (a : BitVec 7) -- BITER, R94
  | bnext (r : BitVec 7) (k : BitVec 7) (b : BitVec 9) (f : BitVec 1) -- BNEXT, R89
  | bwrite (r : BitVec 7) (k : BitVec 7) (b : BitVec 9) (l : BitVec 1) (f : BitVec 1) -- BWRITE, R90
  | bdrain (d : BitVec 9) (s : BitVec 9) (a : BitVec 7) -- BDRAIN, R94
  | spawn (s : BitVec 9) (b : BitVec 9) (c : BitVec 7) -- SPAWN, R323
  | spawnr (s : BitVec 9) (b : BitVec 9) (c : BitVec 7) -- SPAWNR, R323
  | rtake (s : BitVec 9) (b : BitVec 9) -- RTAKE, R324
  | launch (s : BitVec 9) (b : BitVec 9) (c : BitVec 7) -- LAUNCH, R325
  | tcbdec (s : BitVec 9) (b : BitVec 9) -- TCBDEC, R326
  | eplan (s : BitVec 9) (b : BitVec 9) -- EPLAN, R327
  | wphase (s : BitVec 9) -- WPHASE, R328
  | tself (s : BitVec 9) (b : BitVec 9) -- TSELF, R329
  | fcont (s : BitVec 9) (b : BitVec 9) (c : BitVec 7) -- FCONT, R330
  | uncorrectableLoadTrap -- UNCORRECTABLE_LOAD_TRAP, R351
  | load (op : Nat) (part : Nat) -- LOAD, R260
  | drain (op : Nat) (part : Nat) -- DRAIN, R260
  | apply (agent : Nat) (w : Nat) -- APPLY, R260
  | atomic (op : Nat) (loc : Nat) -- ATOMIC, R260
  | publish (frame : Nat) -- PUBLISH, R264
  | engineOpStart (core : Nat) (q : Nat) -- ENGINE_OP_START, R119
  | engineOpComplete (core : Nat) (q : Nat) -- ENGINE_OP_COMPLETE, R125
  | subscriptionAccept (op : Nat) -- SUBSCRIPTION_ACCEPT, R137
  | loaderPublish (stack : Nat) (slot : Nat) -- LOADER_PUBLISH, R138
  | storerStore (stack : Nat) (slot : Nat) -- STORER_STORE, R139
  | oqEntryArrive (q : Nat) (entry : Nat) -- OQ_ENTRY_ARRIVE, R143
  | rdPacket (stack : Nat) (p : Packet) (ecc : EccOutcome) -- RD_PACKET, R67
  | wrPacket (stack : Nat) (p : Packet) -- WR_PACKET, R67
  | atmPacket (stack : Nat) (p : Packet) (op : Nat) -- ATM_PACKET, R66
  | memoryReply (stack : Nat) (die : Nat) (tag : Nat) -- MEMORY_REPLY, R68
  | perBankRefresh (stack : Nat) (pch : Nat) (bank : Nat) -- PER_BANK_REFRESH, R69
  | refreshComplete (stack : Nat) (pch : Nat) (bank : Nat) -- REFRESH_COMPLETE, R69
  | patrolScrub (stack : Nat) (ecc : EccOutcome) -- PATROL_SCRUB, R72
  | lanternGateRow (die : Nat) -- LANTERN_GATE_ROW, R319
  | launchDoorbell (ctx : Nat) (queue : Nat) (packet : BitVec 512) -- LAUNCH_DOORBELL, R373
  | launchAccept -- LAUNCH_ACCEPT, R306
  | piecePlace (core : Nat) -- PIECE_PLACE, R310
  | pieceSplit (core : Nat) -- PIECE_SPLIT, R311
  | gangStarve (tcb : Nat) -- GANG_STARVE, R314
  | crPop (team : Nat) (slot : Nat) -- CR_POP, R316
  | groupLeave -- GROUP_LEAVE, R275
  | schedAgingBoost (group : Nat) -- SCHED_AGING_BOOST, R277
  | scoreboardSquash (core : Nat) (quarter : Nat) -- SCOREBOARD_SQUASH, R278
  | preemption (tcb : Nat) (team : Nat) -- PREEMPTION, R356
  | preemptSave (team : Nat) -- PREEMPT_SAVE, R357
  | unitResume (unit : Nat) (core : Nat) -- UNIT_RESUME, R358
  | wphaseSpill (team : Nat) -- WPHASE_SPILL, R343
  | storageEccError (core : Nat) (source : Nat) (tcb : Nat) (aux : BitVec 64) (lasting : Bool) -- STORAGE_ECC_ERROR, R364
  | aaeLastingFault (core : Nat) (tcb : Nat) -- AAE_LASTING_FAULT, R141
  | rollback (tcb : Nat) -- ROLLBACK, R370
  | flitCrcError (port : Nat) -- FLIT_CRC_ERROR, R377
  | portRetrain (port : Nat) -- PORT_RETRAIN, R377
  | remoteTimeout (die : Nat) (pkg : Nat) -- REMOTE_TIMEOUT, R378
  | fabricDeliver (m : FabMsg) -- FABRIC_DELIVER, R269
  | hostAccess (m : HostOp) -- HOST_ACCESS, R270
  | thermalHalt (die : Nat) -- THERMAL_HALT, R385
  | thermalResume (die : Nat) -- THERMAL_RESUME, R385
  | powerLimitThrottle (die : Nat) -- POWER_LIMIT_THROTTLE, R385
  | bringUp (failsAt : Option Nat) -- BRING_UP, R386
  | firmwareSwap (target : Nat) -- FIRMWARE_SWAP, R383
  | summary (tag : BitVec 32) (pa : Nat) -- SUMMARY, R375
  | ctxset (tag : BitVec 32) (ctx : Nat) (r : CtxRec) -- CTXSET, R374
  | inval (tag : BitVec 32) (ctx : Nat) (va : BitVec 64) (len : Nat) (kind : Nat) -- INVAL, R376
  | resolve (tag : BitVec 32) (tcb : Nat) (ans : Nat) -- RESOLVE, R349
  | preempt (tag : BitVec 32) (tcb : Nat) -- PREEMPT, R393
  | routebind (tag : BitVec 32) (die : Nat) (ctx : Nat) (pa : Nat) -- ROUTEBIND, R318
  | clrsuspect (tag : BitVec 32) (core : Nat) -- CLRSUSPECT, R364
  | domain (tag : BitVec 32) (own : Nat) (peer : Nat) (ring : Nat) -- DOMAIN, R379
  | route (tag : BitVec 32) (pkg : Nat) (ports : BitVec 64) -- ROUTE, R378
  | fwload (tag : BitVec 32) (pa : Nat) (target : Nat) -- FWLOAD, R383
  | attest (tag : BitVec 32) (nonce : Nat) (report : Nat) -- ATTEST, R384
  | wreset (tag : BitVec 32) -- WRESET, R382
  | scrub (tag : BitVec 32) (stack : Nat) (value : BitVec 64) -- SCRUB, R71
  | aaefence (tag : BitVec 32) (core : Nat) (v : Nat) -- AAEFENCE, R141
  | corestat (tag : BitVec 32) (pa : Nat) -- CORESTAT, R374
  | placementHomeApply (op : Nat) -- PLACEMENT_HOME_APPLY, R79
  | matrixWordComplete (core : Nat) (op : Nat) (mismatches : Nat) -- MATRIX_WORD_COMPLETE, R237
  | retrainComplete (port : Nat) (ok : Bool) -- RETRAIN_COMPLETE, R377
  deriving DecidableEq, Repr

end Sys2Proof
end

