-- ==== Sys2Proof/WellFormed.lean ====
section
/-! DEFINITION. The field values an encoding admits: every illegal value of spec/02 that a field can hold. -/

namespace Sys2Proof

/-- A set or WAIT selector of a header: 0 to 11 names a flag, 15 none, 12 to 14 are illegal (02, R12). -/
def flagSelOk (x : BitVec 4) : Bool := x.toNat ≤ 11 || x.toNat == 15

/-- The system registers that exist (08, R163). -/
def sysRegOk (i : BitVec 7) : Bool := (1 ≤ i.toNat && i.toNat ≤ 0x0D) || (0x10 ≤ i.toNat && i.toNat ≤ 0x1F)

/-- W = 10 or 01, the widths of the class VSLI (02, R31). -/
def sliWidthOk (w : BitVec 2) : Bool := w.toNat == 1 || w.toNat == 2

/-- H3 = 000 to 101 (02, R26). -/
def h3Ok (h : BitVec 3) : Bool := h.toNat ≤ 5

/-- AOP3 = 000 to 100 (02, R26). -/
def aopOk (o : BitVec 3) : Bool := o.toNat ≤ 4

/-- KIND2 = 00, 01 or 10 (02, R26). -/
def kindOk (k : BitVec 2) : Bool := k.toNat ≤ 2

/-- The instruction holds no field value that its encoding declares illegal (02, R26, R31, R36; 10, R197). -/
def Instr.wf : Instr → Bool
  | .clauseHeader c n _ a b _ => c.toNat ≤ 13 && 1 ≤ n.toNat && flagSelOk a && flagSelOk b
  | .sysrd _ i => sysRegOk i
  | .syswr _ i => sysRegOk i
  | .vwiden _ _ _ w => w.toNat != 0
  | .vnarrow _ _ _ w => w.toNat != 3
  | .sladd _ _ _ _ _ w => sliWidthOk w
  | .slsub _ _ _ _ _ w => sliWidthOk w
  | .slmul _ _ _ _ _ w => sliWidthOk w
  | .sldiv _ _ _ _ _ w => sliWidthOk w
  | .slrcp _ _ _ w => sliWidthOk w
  | .slneg _ _ _ w => sliWidthOk w
  | .slabs _ _ _ w => sliWidthOk w
  | .slexp _ _ _ w => sliWidthOk w
  | .sllog _ _ _ w => sliWidthOk w
  | .slmin _ _ _ _ _ w => sliWidthOk w
  | .slmax _ _ _ _ _ w => sliWidthOk w
  | .slceq _ _ _ _ _ w => sliWidthOk w
  | .slclt _ _ _ _ _ w => sliWidthOk w
  | .slsqrt _ _ _ w => sliWidthOk w
  | .sllvl _ _ _ w => sliWidthOk w
  | .mma _ _ _ h _ => h3Ok h
  | .mmaz _ _ _ h _ => h3Ok h
  | .bar _ _ o _ => aopOk o
  | .fence _ k _ => kindOk k
  | .qfence _ k _ _ => kindOk k
  | _ => true

end Sys2Proof
end

