-- ==== Sys2Proof/Decode.lean ====
section
/-! DEFINITION. Decoding a word in its class, and the encoder written from the same tables of spec/02. -/

namespace Sys2Proof

/-- `n` bits of the word from bit `lo` up (00, R2). -/
def fb (w lo n : Nat) : BitVec n := BitVec.ofNat n (w / 2 ^ lo)

/-- A word of 0 fields over its fixed bits. -/
abbrev word0 (b : Nat) : Nat := b

/-- A word of 1 field over its fixed bits. -/
abbrev word1 (b : Nat) (x0 l0 : Nat) : Nat := b + x0 * 2 ^ l0

/-- A word of 2 fields over its fixed bits. -/
abbrev word2 (b : Nat) (x0 l0 : Nat) (x1 l1 : Nat) : Nat := b + x0 * 2 ^ l0 + x1 * 2 ^ l1

/-- A word of 3 fields over its fixed bits. -/
abbrev word3 (b : Nat) (x0 l0 : Nat) (x1 l1 : Nat) (x2 l2 : Nat) : Nat := b + x0 * 2 ^ l0 + x1 * 2 ^ l1 + x2 * 2 ^ l2

/-- A word of 4 fields over its fixed bits. -/
abbrev word4 (b : Nat) (x0 l0 : Nat) (x1 l1 : Nat) (x2 l2 : Nat) (x3 l3 : Nat) : Nat := b + x0 * 2 ^ l0 + x1 * 2 ^ l1 + x2 * 2 ^ l2 + x3 * 2 ^ l3

/-- A word of 5 fields over its fixed bits. -/
abbrev word5 (b : Nat) (x0 l0 : Nat) (x1 l1 : Nat) (x2 l2 : Nat) (x3 l3 : Nat) (x4 l4 : Nat) : Nat := b + x0 * 2 ^ l0 + x1 * 2 ^ l1 + x2 * 2 ^ l2 + x3 * 2 ^ l3 + x4 * 2 ^ l4

/-- A word of 6 fields over its fixed bits. -/
abbrev word6 (b : Nat) (x0 l0 : Nat) (x1 l1 : Nat) (x2 l2 : Nat) (x3 l3 : Nat) (x4 l4 : Nat) (x5 l5 : Nat) : Nat := b + x0 * 2 ^ l0 + x1 * 2 ^ l1 + x2 * 2 ^ l2 + x3 * 2 ^ l3 + x4 * 2 ^ l4 + x5 * 2 ^ l5

/-- A word of 7 fields over its fixed bits. -/
abbrev word7 (b : Nat) (x0 l0 : Nat) (x1 l1 : Nat) (x2 l2 : Nat) (x3 l3 : Nat) (x4 l4 : Nat) (x5 l5 : Nat) (x6 l6 : Nat) : Nat := b + x0 * 2 ^ l0 + x1 * 2 ^ l1 + x2 * 2 ^ l2 + x3 * 2 ^ l3 + x4 * 2 ^ l4 + x5 * 2 ^ l5 + x6 * 2 ^ l6

/-- Opcodes of class CTRL (02, R30): `op` the opcode field, `w` the word as a number. -/
def decodeCtrl (op w : Nat) : Option Instr :=
  match op with
  | 0x01 => some (.bra (fb w 0 25))
  | 0x02 => some (.bz (fb w 16 9) (fb w 0 16))
  | 0x03 => some (.bnz (fb w 16 9) (fb w 0 16))
  | 0x04 => some (.bneg (fb w 16 9) (fb w 0 16))
  | 0x05 => some (.bnneg (fb w 16 9) (fb w 0 16))
  | 0x06 => some (.bvz (fb w 18 7) (fb w 17 1) (fb w 0 17))
  | 0x07 => some (.bvnz (fb w 18 7) (fb w 17 1) (fb w 0 17))
  | 0x08 => some (.call (fb w 0 25))
  | 0x09 => if w / 2 ^ 0 % 2 ^ 16 = 0 then some (.callr (fb w 16 9)) else none
  | 0x0A => some (.jmpr (fb w 16 9) (fb w 0 16))
  | 0x0B => if w / 2 ^ 0 % 2 ^ 25 = 0 then some (.ret) else none
  | 0x0C => if w / 2 ^ 0 % 2 ^ 25 = 0 then some (.exit) else none
  | 0x0D => if w / 2 ^ 0 % 2 ^ 25 = 0 then some (.vpark) else none
  | 0x0E => if w / 2 ^ 0 % 2 ^ 25 = 0 then some (.yield) else none
  | 0x0F => if w / 2 ^ 16 % 2 ^ 9 = 0 then some (.trap (fb w 7 9) (fb w 0 7)) else none
  | 0x10 => if w / 2 ^ 0 % 2 ^ 25 = 0 then some (.rfe) else none
  | 0x11 => if w / 2 ^ 0 % 2 ^ 25 = 0 then some (.brk) else none
  | 0x12 => if w / 2 ^ 7 % 2 ^ 9 = 0 then some (.sysrd (fb w 16 9) (fb w 0 7)) else none
  | 0x13 => if w / 2 ^ 16 % 2 ^ 9 = 0 then some (.syswr (fb w 7 9) (fb w 0 7)) else none
  | 0x14 => if w / 2 ^ 0 % 2 ^ 4 = 0 then some (.fent (fb w 23 2) (fb w 13 10) (fb w 4 9)) else none
  | 0x15 => if w / 2 ^ 0 % 2 ^ 4 = 0 ∧ w / 2 ^ 13 % 2 ^ 10 = 0 then some (.fexit (fb w 23 2) (fb w 4 9)) else none
  | 0x16 => if w / 2 ^ 0 % 2 ^ 4 = 0 ∧ w / 2 ^ 13 % 2 ^ 10 = 0 then some (.fdisp (fb w 23 2) (fb w 4 9)) else none
  | 0x17 => if w / 2 ^ 0 % 2 ^ 23 = 0 then some (.fpub (fb w 23 2)) else none
  | 0x18 => if w / 2 ^ 0 % 2 ^ 18 = 3 then some (.pcvrd (fb w 18 7)) else none
  | 0x19 => if w / 2 ^ 0 % 2 ^ 3 = 3 ∧ w / 2 ^ 4 % 2 ^ 7 = 0 ∧ w / 2 ^ 18 % 2 ^ 7 = 0 then some (.pcvwr (fb w 11 7) (fb w 3 1)) else none
  | 0x1A => if w / 2 ^ 0 % 2 ^ 3 = 3 ∧ w / 2 ^ 4 % 2 ^ 7 = 0 then some (.trpv (fb w 18 7) (fb w 11 7) (fb w 3 1)) else none
  | _ => none

/-- Opcodes of class SALU (02, R30): `op` the opcode field, `w` the word as a number. -/
def decodeSalu (op w : Nat) : Option Instr :=
  match op with
  | 0x01 => some (.add (fb w 18 9) (fb w 9 9) (fb w 0 9))
  | 0x02 => some (.sub (fb w 18 9) (fb w 9 9) (fb w 0 9))
  | 0x03 => some (.mul (fb w 18 9) (fb w 9 9) (fb w 0 9))
  | 0x04 => some (.mulh (fb w 18 9) (fb w 9 9) (fb w 0 9))
  | 0x05 => some (.mulhu (fb w 18 9) (fb w 9 9) (fb w 0 9))
  | 0x06 => some (.div (fb w 18 9) (fb w 9 9) (fb w 0 9))
  | 0x07 => some (.divu (fb w 18 9) (fb w 9 9) (fb w 0 9))
  | 0x08 => some (.rem (fb w 18 9) (fb w 9 9) (fb w 0 9))
  | 0x09 => some (.remu (fb w 18 9) (fb w 9 9) (fb w 0 9))
  | 0x0A => some (.and (fb w 18 9) (fb w 9 9) (fb w 0 9))
  | 0x0B => some (.or (fb w 18 9) (fb w 9 9) (fb w 0 9))
  | 0x0C => some (.xor (fb w 18 9) (fb w 9 9) (fb w 0 9))
  | 0x0D => some (.andn (fb w 18 9) (fb w 9 9) (fb w 0 9))
  | 0x0E => some (.shl (fb w 18 9) (fb w 9 9) (fb w 0 9))
  | 0x0F => some (.shr (fb w 18 9) (fb w 9 9) (fb w 0 9))
  | 0x10 => some (.sar (fb w 18 9) (fb w 9 9) (fb w 0 9))
  | 0x11 => some (.rot (fb w 18 9) (fb w 9 9) (fb w 0 9))
  | 0x12 => some (.min (fb w 18 9) (fb w 9 9) (fb w 0 9))
  | 0x13 => some (.max (fb w 18 9) (fb w 9 9) (fb w 0 9))
  | 0x14 => some (.minu (fb w 18 9) (fb w 9 9) (fb w 0 9))
  | 0x15 => some (.maxu (fb w 18 9) (fb w 9 9) (fb w 0 9))
  | 0x16 => some (.slt (fb w 18 9) (fb w 9 9) (fb w 0 9))
  | 0x17 => some (.sltu (fb w 18 9) (fb w 9 9) (fb w 0 9))
  | 0x18 => some (.seq (fb w 18 9) (fb w 9 9) (fb w 0 9))
  | 0x19 => some (.sel (fb w 18 9) (fb w 9 9) (fb w 0 9))
  | 0x1A => if w / 2 ^ 0 % 2 ^ 9 = 0 then some (.clz (fb w 18 9) (fb w 9 9)) else none
  | 0x1B => if w / 2 ^ 0 % 2 ^ 9 = 0 then some (.ctz (fb w 18 9) (fb w 9 9)) else none
  | 0x1C => if w / 2 ^ 0 % 2 ^ 9 = 0 then some (.popc (fb w 18 9) (fb w 9 9)) else none
  | _ => none

/-- Opcodes of class SIMM (02, R30): `op` the opcode field, `w` the word as a number. -/
def decodeSimm (op w : Nat) : Option Instr :=
  match op with
  | 0x01 => some (.addi (fb w 18 9) (fb w 9 9) (fb w 0 9))
  | 0x02 => some (.andi (fb w 18 9) (fb w 9 9) (fb w 0 9))
  | 0x03 => some (.ori (fb w 18 9) (fb w 9 9) (fb w 0 9))
  | 0x04 => some (.xori (fb w 18 9) (fb w 9 9) (fb w 0 9))
  | 0x05 => some (.shli (fb w 18 9) (fb w 9 9) (fb w 0 9))
  | 0x06 => some (.shri (fb w 18 9) (fb w 9 9) (fb w 0 9))
  | 0x07 => some (.sari (fb w 18 9) (fb w 9 9) (fb w 0 9))
  | 0x08 => some (.slti (fb w 18 9) (fb w 9 9) (fb w 0 9))
  | 0x09 => some (.sltui (fb w 18 9) (fb w 9 9) (fb w 0 9))
  | 0x0A => some (.seqi (fb w 18 9) (fb w 9 9) (fb w 0 9))
  | 0x0B => some (.muli (fb w 18 9) (fb w 9 9) (fb w 0 9))
  | 0x0C => some (.movi (fb w 18 9) (fb w 0 18))
  | 0x0D => some (.movhi (fb w 18 9) (fb w 0 18))
  | 0x0E => some (.ldpc (fb w 18 9) (fb w 0 18))
  | _ => none

/-- Opcodes of class VALU (02, R30): `op` the opcode field, `w` the word as a number. -/
def decodeValu (op w : Nat) : Option Instr :=
  match op with
  | 0x01 => some (.vadd (fb w 18 7) (fb w 11 7) (fb w 4 7) (fb w 3 1) (fb w 2 1) (fb w 0 2))
  | 0x02 => some (.vsub (fb w 18 7) (fb w 11 7) (fb w 4 7) (fb w 3 1) (fb w 2 1) (fb w 0 2))
  | 0x03 => some (.vaddss (fb w 18 7) (fb w 11 7) (fb w 4 7) (fb w 3 1) (fb w 2 1) (fb w 0 2))
  | 0x04 => some (.vaddsu (fb w 18 7) (fb w 11 7) (fb w 4 7) (fb w 3 1) (fb w 2 1) (fb w 0 2))
  | 0x05 => some (.vsubss (fb w 18 7) (fb w 11 7) (fb w 4 7) (fb w 3 1) (fb w 2 1) (fb w 0 2))
  | 0x06 => some (.vsubsu (fb w 18 7) (fb w 11 7) (fb w 4 7) (fb w 3 1) (fb w 2 1) (fb w 0 2))
  | 0x07 => some (.vmul (fb w 18 7) (fb w 11 7) (fb w 4 7) (fb w 3 1) (fb w 2 1) (fb w 0 2))
  | 0x08 => some (.vmulh (fb w 18 7) (fb w 11 7) (fb w 4 7) (fb w 3 1) (fb w 2 1) (fb w 0 2))
  | 0x09 => some (.vmulhu (fb w 18 7) (fb w 11 7) (fb w 4 7) (fb w 3 1) (fb w 2 1) (fb w 0 2))
  | 0x0A => some (.vmad (fb w 18 7) (fb w 11 7) (fb w 4 7) (fb w 3 1) (fb w 2 1) (fb w 0 2))
  | 0x0B => some (.vmin (fb w 18 7) (fb w 11 7) (fb w 4 7) (fb w 3 1) (fb w 2 1) (fb w 0 2))
  | 0x0C => some (.vmax (fb w 18 7) (fb w 11 7) (fb w 4 7) (fb w 3 1) (fb w 2 1) (fb w 0 2))
  | 0x0D => some (.vminu (fb w 18 7) (fb w 11 7) (fb w 4 7) (fb w 3 1) (fb w 2 1) (fb w 0 2))
  | 0x0E => some (.vmaxu (fb w 18 7) (fb w 11 7) (fb w 4 7) (fb w 3 1) (fb w 2 1) (fb w 0 2))
  | 0x0F => some (.vand (fb w 18 7) (fb w 11 7) (fb w 4 7) (fb w 3 1) (fb w 2 1) (fb w 0 2))
  | 0x10 => some (.vor (fb w 18 7) (fb w 11 7) (fb w 4 7) (fb w 3 1) (fb w 2 1) (fb w 0 2))
  | 0x11 => some (.vxor (fb w 18 7) (fb w 11 7) (fb w 4 7) (fb w 3 1) (fb w 2 1) (fb w 0 2))
  | 0x12 => some (.vandn (fb w 18 7) (fb w 11 7) (fb w 4 7) (fb w 3 1) (fb w 2 1) (fb w 0 2))
  | 0x13 => some (.vshl (fb w 18 7) (fb w 11 7) (fb w 4 7) (fb w 3 1) (fb w 2 1) (fb w 0 2))
  | 0x14 => some (.vshr (fb w 18 7) (fb w 11 7) (fb w 4 7) (fb w 3 1) (fb w 2 1) (fb w 0 2))
  | 0x15 => some (.vsar (fb w 18 7) (fb w 11 7) (fb w 4 7) (fb w 3 1) (fb w 2 1) (fb w 0 2))
  | 0x16 => some (.vrot (fb w 18 7) (fb w 11 7) (fb w 4 7) (fb w 3 1) (fb w 2 1) (fb w 0 2))
  | 0x17 => some (.vceq (fb w 18 7) (fb w 11 7) (fb w 4 7) (fb w 3 1) (fb w 2 1) (fb w 0 2))
  | 0x18 => some (.vclt (fb w 18 7) (fb w 11 7) (fb w 4 7) (fb w 3 1) (fb w 2 1) (fb w 0 2))
  | 0x19 => some (.vcltu (fb w 18 7) (fb w 11 7) (fb w 4 7) (fb w 3 1) (fb w 2 1) (fb w 0 2))
  | 0x1A => some (.vsel (fb w 18 7) (fb w 11 7) (fb w 4 7) (fb w 3 1) (fb w 2 1) (fb w 0 2))
  | 0x1B => if w / 2 ^ 2 % 2 ^ 1 = 0 ∧ w / 2 ^ 4 % 2 ^ 7 = 0 then some (.vclz (fb w 18 7) (fb w 11 7) (fb w 3 1) (fb w 0 2)) else none
  | 0x1C => if w / 2 ^ 2 % 2 ^ 1 = 0 ∧ w / 2 ^ 4 % 2 ^ 7 = 0 then some (.vpopc (fb w 18 7) (fb w 11 7) (fb w 3 1) (fb w 0 2)) else none
  | 0x1D => if w / 2 ^ 2 % 2 ^ 1 = 0 ∧ w / 2 ^ 4 % 2 ^ 7 = 0 then some (.vabs (fb w 18 7) (fb w 11 7) (fb w 3 1) (fb w 0 2)) else none
  | 0x1E => if w / 2 ^ 0 % 2 ^ 2 = 0 then some (.vdot4 (fb w 18 7) (fb w 11 7) (fb w 4 7) (fb w 3 1) (fb w 2 1)) else none
  | 0x1F => if w / 2 ^ 2 % 2 ^ 1 = 0 ∧ w / 2 ^ 4 % 2 ^ 7 = 0 then some (.vmov (fb w 18 7) (fb w 11 7) (fb w 3 1) (fb w 0 2)) else none
  | 0x20 => if w / 2 ^ 2 % 2 ^ 1 = 0 ∧ w / 2 ^ 4 % 2 ^ 7 = 0 then some (.vwiden (fb w 18 7) (fb w 11 7) (fb w 3 1) (fb w 0 2)) else none
  | 0x21 => if w / 2 ^ 2 % 2 ^ 1 = 0 ∧ w / 2 ^ 4 % 2 ^ 7 = 0 then some (.vnarrow (fb w 18 7) (fb w 11 7) (fb w 3 1) (fb w 0 2)) else none
  | 0x22 => if w / 2 ^ 2 % 2 ^ 16 = 0 then some (.vlid (fb w 18 7) (fb w 0 2)) else none
  | 0x30 => some (.vaddi (fb w 18 7) (fb w 11 7) (fb w 3 8) (fb w 2 1) (fb w 0 2))
  | 0x31 => some (.vshli (fb w 18 7) (fb w 11 7) (fb w 3 8) (fb w 2 1) (fb w 0 2))
  | 0x32 => some (.vshri (fb w 18 7) (fb w 11 7) (fb w 3 8) (fb w 2 1) (fb w 0 2))
  | 0x33 => some (.vsari (fb w 18 7) (fb w 11 7) (fb w 3 8) (fb w 2 1) (fb w 0 2))
  | 0x34 => some (.vandi (fb w 18 7) (fb w 11 7) (fb w 3 8) (fb w 2 1) (fb w 0 2))
  | 0x35 => if w / 2 ^ 2 % 2 ^ 1 = 0 ∧ w / 2 ^ 11 % 2 ^ 7 = 0 then some (.vmovi (fb w 18 7) (fb w 3 8) (fb w 0 2)) else none
  | 0x36 => some (.vceqi (fb w 18 7) (fb w 11 7) (fb w 3 8) (fb w 2 1) (fb w 0 2))
  | 0x40 => some (.vaddS (fb w 18 7) (fb w 11 7) (fb w 3 8) (fb w 2 1) (fb w 0 2))
  | 0x41 => some (.vsubS (fb w 18 7) (fb w 11 7) (fb w 3 8) (fb w 2 1) (fb w 0 2))
  | 0x42 => some (.vmulS (fb w 18 7) (fb w 11 7) (fb w 3 8) (fb w 2 1) (fb w 0 2))
  | 0x43 => some (.vminS (fb w 18 7) (fb w 11 7) (fb w 3 8) (fb w 2 1) (fb w 0 2))
  | 0x44 => some (.vmaxS (fb w 18 7) (fb w 11 7) (fb w 3 8) (fb w 2 1) (fb w 0 2))
  | 0x45 => some (.vandS (fb w 18 7) (fb w 11 7) (fb w 3 8) (fb w 2 1) (fb w 0 2))
  | 0x46 => if w / 2 ^ 2 % 2 ^ 1 = 0 ∧ w / 2 ^ 11 % 2 ^ 7 = 0 then some (.vmovS (fb w 18 7) (fb w 3 8) (fb w 0 2)) else none
  | 0x47 => some (.vceqS (fb w 18 7) (fb w 11 7) (fb w 3 8) (fb w 2 1) (fb w 0 2))
  | 0x48 => some (.vcltS (fb w 18 7) (fb w 11 7) (fb w 3 8) (fb w 2 1) (fb w 0 2))
  | _ => none

/-- Opcodes of class VFPU (02, R30): `op` the opcode field, `w` the word as a number. -/
def decodeVfpu (op w : Nat) : Option Instr :=
  match op with
  | 0x01 => some (.faddF32 (fb w 18 7) (fb w 11 7) (fb w 4 7) (fb w 3 1) (fb w 2 1) (fb w 1 1) (fb w 0 1))
  | 0x02 => some (.fsubF32 (fb w 18 7) (fb w 11 7) (fb w 4 7) (fb w 3 1) (fb w 2 1) (fb w 1 1) (fb w 0 1))
  | 0x03 => some (.fmulF32 (fb w 18 7) (fb w 11 7) (fb w 4 7) (fb w 3 1) (fb w 2 1) (fb w 1 1) (fb w 0 1))
  | 0x04 => some (.ffmaF32 (fb w 18 7) (fb w 11 7) (fb w 4 7) (fb w 3 1) (fb w 2 1) (fb w 1 1) (fb w 0 1))
  | 0x05 => some (.ffmsF32 (fb w 18 7) (fb w 11 7) (fb w 4 7) (fb w 3 1) (fb w 2 1) (fb w 1 1) (fb w 0 1))
  | 0x06 => some (.fminF32 (fb w 18 7) (fb w 11 7) (fb w 4 7) (fb w 3 1) (fb w 2 1) (fb w 1 1) (fb w 0 1))
  | 0x07 => some (.fmaxF32 (fb w 18 7) (fb w 11 7) (fb w 4 7) (fb w 3 1) (fb w 2 1) (fb w 1 1) (fb w 0 1))
  | 0x08 => if w / 2 ^ 0 % 2 ^ 1 = 0 ∧ w / 2 ^ 2 % 2 ^ 1 = 0 ∧ w / 2 ^ 4 % 2 ^ 7 = 0 then some (.fabsF32 (fb w 18 7) (fb w 11 7) (fb w 3 1) (fb w 1 1)) else none
  | 0x09 => if w / 2 ^ 0 % 2 ^ 1 = 0 ∧ w / 2 ^ 2 % 2 ^ 1 = 0 ∧ w / 2 ^ 4 % 2 ^ 7 = 0 then some (.fnegF32 (fb w 18 7) (fb w 11 7) (fb w 3 1) (fb w 1 1)) else none
  | 0x0A => some (.fceqF32 (fb w 18 7) (fb w 11 7) (fb w 4 7) (fb w 3 1) (fb w 2 1) (fb w 1 1) (fb w 0 1))
  | 0x0B => some (.fcltF32 (fb w 18 7) (fb w 11 7) (fb w 4 7) (fb w 3 1) (fb w 2 1) (fb w 1 1) (fb w 0 1))
  | 0x0C => some (.fcleF32 (fb w 18 7) (fb w 11 7) (fb w 4 7) (fb w 3 1) (fb w 2 1) (fb w 1 1) (fb w 0 1))
  | 0x10 => some (.faddBf16 (fb w 18 7) (fb w 11 7) (fb w 4 7) (fb w 3 1) (fb w 2 1) (fb w 1 1) (fb w 0 1))
  | 0x11 => some (.fmulBf16 (fb w 18 7) (fb w 11 7) (fb w 4 7) (fb w 3 1) (fb w 2 1) (fb w 1 1) (fb w 0 1))
  | 0x12 => some (.ffmaBf16 (fb w 18 7) (fb w 11 7) (fb w 4 7) (fb w 3 1) (fb w 2 1) (fb w 1 1) (fb w 0 1))
  | 0x13 => some (.fdot2Bf16 (fb w 18 7) (fb w 11 7) (fb w 4 7) (fb w 3 1) (fb w 2 1) (fb w 1 1) (fb w 0 1))
  | 0x14 => some (.faddF16 (fb w 18 7) (fb w 11 7) (fb w 4 7) (fb w 3 1) (fb w 2 1) (fb w 1 1) (fb w 0 1))
  | 0x15 => some (.fmulF16 (fb w 18 7) (fb w 11 7) (fb w 4 7) (fb w 3 1) (fb w 2 1) (fb w 1 1) (fb w 0 1))
  | 0x16 => some (.ffmaF16 (fb w 18 7) (fb w 11 7) (fb w 4 7) (fb w 3 1) (fb w 2 1) (fb w 1 1) (fb w 0 1))
  | 0x17 => some (.fdot2F16 (fb w 18 7) (fb w 11 7) (fb w 4 7) (fb w 3 1) (fb w 2 1) (fb w 1 1) (fb w 0 1))
  | 0x18 => some (.faddF64 (fb w 18 7) (fb w 11 7) (fb w 4 7) (fb w 3 1) (fb w 2 1) (fb w 1 1) (fb w 0 1))
  | 0x19 => some (.fmulF64 (fb w 18 7) (fb w 11 7) (fb w 4 7) (fb w 3 1) (fb w 2 1) (fb w 1 1) (fb w 0 1))
  | 0x1A => some (.ffmaF64 (fb w 18 7) (fb w 11 7) (fb w 4 7) (fb w 3 1) (fb w 2 1) (fb w 1 1) (fb w 0 1))
  | 0x20 => if w / 2 ^ 0 % 2 ^ 1 = 0 ∧ w / 2 ^ 2 % 2 ^ 1 = 0 ∧ w / 2 ^ 4 % 2 ^ 7 = 0 then some (.fcvtF32Bf16 (fb w 18 7) (fb w 11 7) (fb w 3 1) (fb w 1 1)) else none
  | 0x21 => if w / 2 ^ 0 % 2 ^ 1 = 0 ∧ w / 2 ^ 2 % 2 ^ 1 = 0 ∧ w / 2 ^ 4 % 2 ^ 7 = 0 then some (.fcvtBf16F32 (fb w 18 7) (fb w 11 7) (fb w 3 1) (fb w 1 1)) else none
  | 0x22 => if w / 2 ^ 0 % 2 ^ 1 = 0 ∧ w / 2 ^ 2 % 2 ^ 1 = 0 ∧ w / 2 ^ 4 % 2 ^ 7 = 0 then some (.fcvtF32F16 (fb w 18 7) (fb w 11 7) (fb w 3 1) (fb w 1 1)) else none
  | 0x23 => if w / 2 ^ 0 % 2 ^ 1 = 0 ∧ w / 2 ^ 2 % 2 ^ 1 = 0 ∧ w / 2 ^ 4 % 2 ^ 7 = 0 then some (.fcvtF16F32 (fb w 18 7) (fb w 11 7) (fb w 3 1) (fb w 1 1)) else none
  | 0x24 => if w / 2 ^ 0 % 2 ^ 1 = 0 ∧ w / 2 ^ 2 % 2 ^ 1 = 0 ∧ w / 2 ^ 4 % 2 ^ 7 = 0 then some (.fcvtF32E4m3 (fb w 18 7) (fb w 11 7) (fb w 3 1) (fb w 1 1)) else none
  | 0x25 => if w / 2 ^ 0 % 2 ^ 1 = 0 ∧ w / 2 ^ 2 % 2 ^ 1 = 0 ∧ w / 2 ^ 4 % 2 ^ 7 = 0 then some (.fcvtE4m3F32 (fb w 18 7) (fb w 11 7) (fb w 3 1) (fb w 1 1)) else none
  | 0x26 => if w / 2 ^ 0 % 2 ^ 1 = 0 ∧ w / 2 ^ 2 % 2 ^ 1 = 0 ∧ w / 2 ^ 4 % 2 ^ 7 = 0 then some (.fcvtF32E5m2 (fb w 18 7) (fb w 11 7) (fb w 3 1) (fb w 1 1)) else none
  | 0x27 => if w / 2 ^ 0 % 2 ^ 1 = 0 ∧ w / 2 ^ 2 % 2 ^ 1 = 0 ∧ w / 2 ^ 4 % 2 ^ 7 = 0 then some (.fcvtE5m2F32 (fb w 18 7) (fb w 11 7) (fb w 3 1) (fb w 1 1)) else none
  | 0x28 => if w / 2 ^ 0 % 2 ^ 1 = 0 ∧ w / 2 ^ 2 % 2 ^ 1 = 0 ∧ w / 2 ^ 4 % 2 ^ 7 = 0 then some (.fcvtF32I32 (fb w 18 7) (fb w 11 7) (fb w 3 1) (fb w 1 1)) else none
  | 0x29 => if w / 2 ^ 0 % 2 ^ 1 = 0 ∧ w / 2 ^ 2 % 2 ^ 1 = 0 ∧ w / 2 ^ 4 % 2 ^ 7 = 0 then some (.fcvtI32F32 (fb w 18 7) (fb w 11 7) (fb w 3 1) (fb w 1 1)) else none
  | 0x2A => if w / 2 ^ 0 % 2 ^ 1 = 0 ∧ w / 2 ^ 2 % 2 ^ 1 = 0 ∧ w / 2 ^ 4 % 2 ^ 7 = 0 then some (.fcvtI32F32z (fb w 18 7) (fb w 11 7) (fb w 3 1) (fb w 1 1)) else none
  | 0x2B => if w / 2 ^ 0 % 2 ^ 1 = 0 ∧ w / 2 ^ 2 % 2 ^ 1 = 0 ∧ w / 2 ^ 4 % 2 ^ 7 = 0 then some (.fcvtF64F32 (fb w 18 7) (fb w 11 7) (fb w 3 1) (fb w 1 1)) else none
  | 0x2C => if w / 2 ^ 0 % 2 ^ 1 = 0 ∧ w / 2 ^ 2 % 2 ^ 1 = 0 ∧ w / 2 ^ 4 % 2 ^ 7 = 0 then some (.fcvtF32F64 (fb w 18 7) (fb w 11 7) (fb w 3 1) (fb w 1 1)) else none
  | _ => none

/-- Opcodes of class VSLI (02, R30): `op` the opcode field, `w` the word as a number. -/
def decodeVsli (op w : Nat) : Option Instr :=
  match op with
  | 0x01 => some (.sladd (fb w 18 7) (fb w 11 7) (fb w 4 7) (fb w 3 1) (fb w 2 1) (fb w 0 2))
  | 0x02 => some (.slsub (fb w 18 7) (fb w 11 7) (fb w 4 7) (fb w 3 1) (fb w 2 1) (fb w 0 2))
  | 0x03 => some (.slmul (fb w 18 7) (fb w 11 7) (fb w 4 7) (fb w 3 1) (fb w 2 1) (fb w 0 2))
  | 0x04 => some (.sldiv (fb w 18 7) (fb w 11 7) (fb w 4 7) (fb w 3 1) (fb w 2 1) (fb w 0 2))
  | 0x05 => if w / 2 ^ 2 % 2 ^ 1 = 0 ∧ w / 2 ^ 4 % 2 ^ 7 = 0 then some (.slrcp (fb w 18 7) (fb w 11 7) (fb w 3 1) (fb w 0 2)) else none
  | 0x06 => if w / 2 ^ 2 % 2 ^ 1 = 0 ∧ w / 2 ^ 4 % 2 ^ 7 = 0 then some (.slneg (fb w 18 7) (fb w 11 7) (fb w 3 1) (fb w 0 2)) else none
  | 0x07 => if w / 2 ^ 2 % 2 ^ 1 = 0 ∧ w / 2 ^ 4 % 2 ^ 7 = 0 then some (.slabs (fb w 18 7) (fb w 11 7) (fb w 3 1) (fb w 0 2)) else none
  | 0x08 => if w / 2 ^ 2 % 2 ^ 1 = 0 ∧ w / 2 ^ 4 % 2 ^ 7 = 0 then some (.slexp (fb w 18 7) (fb w 11 7) (fb w 3 1) (fb w 0 2)) else none
  | 0x09 => if w / 2 ^ 2 % 2 ^ 1 = 0 ∧ w / 2 ^ 4 % 2 ^ 7 = 0 then some (.sllog (fb w 18 7) (fb w 11 7) (fb w 3 1) (fb w 0 2)) else none
  | 0x0A => some (.slmin (fb w 18 7) (fb w 11 7) (fb w 4 7) (fb w 3 1) (fb w 2 1) (fb w 0 2))
  | 0x0B => some (.slmax (fb w 18 7) (fb w 11 7) (fb w 4 7) (fb w 3 1) (fb w 2 1) (fb w 0 2))
  | 0x0C => some (.slceq (fb w 18 7) (fb w 11 7) (fb w 4 7) (fb w 3 1) (fb w 2 1) (fb w 0 2))
  | 0x0D => some (.slclt (fb w 18 7) (fb w 11 7) (fb w 4 7) (fb w 3 1) (fb w 2 1) (fb w 0 2))
  | 0x0E => if w / 2 ^ 2 % 2 ^ 1 = 0 ∧ w / 2 ^ 4 % 2 ^ 7 = 0 then some (.slsqrt (fb w 18 7) (fb w 11 7) (fb w 3 1) (fb w 0 2)) else none
  | 0x10 => if w / 2 ^ 0 % 2 ^ 3 = 2 ∧ w / 2 ^ 4 % 2 ^ 7 = 0 then some (.slcvtSlF32 (fb w 18 7) (fb w 11 7) (fb w 3 1)) else none
  | 0x11 => if w / 2 ^ 0 % 2 ^ 3 = 2 ∧ w / 2 ^ 4 % 2 ^ 7 = 0 then some (.slcvtF32Sl (fb w 18 7) (fb w 11 7) (fb w 3 1)) else none
  | 0x12 => if w / 2 ^ 0 % 2 ^ 3 = 2 ∧ w / 2 ^ 4 % 2 ^ 7 = 0 then some (.slcvtSlF64 (fb w 18 7) (fb w 11 7) (fb w 3 1)) else none
  | 0x13 => if w / 2 ^ 0 % 2 ^ 3 = 2 ∧ w / 2 ^ 4 % 2 ^ 7 = 0 then some (.slcvtF64Sl (fb w 18 7) (fb w 11 7) (fb w 3 1)) else none
  | 0x14 => if w / 2 ^ 0 % 2 ^ 3 = 2 ∧ w / 2 ^ 4 % 2 ^ 7 = 0 then some (.slcvtSl16Sl32 (fb w 18 7) (fb w 11 7) (fb w 3 1)) else none
  | 0x15 => if w / 2 ^ 0 % 2 ^ 3 = 2 ∧ w / 2 ^ 4 % 2 ^ 7 = 0 then some (.slcvtSl32Sl16 (fb w 18 7) (fb w 11 7) (fb w 3 1)) else none
  | 0x16 => if w / 2 ^ 2 % 2 ^ 1 = 0 ∧ w / 2 ^ 4 % 2 ^ 7 = 0 then some (.sllvl (fb w 18 7) (fb w 11 7) (fb w 3 1) (fb w 0 2)) else none
  | _ => none

/-- Opcodes of class XLANE (02, R30): `op` the opcode field, `w` the word as a number. -/
def decodeXlane (op w : Nat) : Option Instr :=
  match op with
  | 0x01 => some (.xshfl (fb w 18 7) (fb w 11 7) (fb w 4 7) (fb w 3 1) (fb w 2 1) (fb w 0 2))
  | 0x02 => some (.xswz (fb w 18 7) (fb w 11 7) (fb w 3 8) (fb w 2 1) (fb w 0 2))
  | 0x03 => some (.xrot (fb w 18 7) (fb w 11 7) (fb w 3 8) (fb w 2 1) (fb w 0 2))
  | 0x04 => some (.xbcast (fb w 18 7) (fb w 11 7) (fb w 3 8) (fb w 2 1) (fb w 0 2))
  | 0x05 => if w / 2 ^ 2 % 2 ^ 1 = 0 ∧ w / 2 ^ 4 % 2 ^ 7 = 0 then some (.xredadd (fb w 18 7) (fb w 11 7) (fb w 3 1) (fb w 0 2)) else none
  | 0x06 => if w / 2 ^ 2 % 2 ^ 1 = 0 ∧ w / 2 ^ 4 % 2 ^ 7 = 0 then some (.xredmin (fb w 18 7) (fb w 11 7) (fb w 3 1) (fb w 0 2)) else none
  | 0x07 => if w / 2 ^ 2 % 2 ^ 1 = 0 ∧ w / 2 ^ 4 % 2 ^ 7 = 0 then some (.xredmax (fb w 18 7) (fb w 11 7) (fb w 3 1) (fb w 0 2)) else none
  | 0x08 => if w / 2 ^ 0 % 2 ^ 3 = 2 ∧ w / 2 ^ 4 % 2 ^ 7 = 0 then some (.xfredaddF32 (fb w 18 7) (fb w 11 7) (fb w 3 1)) else none
  | 0x09 => if w / 2 ^ 0 % 2 ^ 3 = 2 ∧ w / 2 ^ 4 % 2 ^ 7 = 0 then some (.xfredmaxF32 (fb w 18 7) (fb w 11 7) (fb w 3 1)) else none
  | 0x0A => if w / 2 ^ 2 % 2 ^ 1 = 0 ∧ w / 2 ^ 4 % 2 ^ 7 = 0 then some (.xscan (fb w 18 7) (fb w 11 7) (fb w 3 1) (fb w 0 2)) else none
  | 0x0B => if w / 2 ^ 0 % 2 ^ 3 = 2 ∧ w / 2 ^ 4 % 2 ^ 7 = 0 then some (.xfscanF32 (fb w 18 7) (fb w 11 7) (fb w 3 1)) else none
  | 0x0C => some (.xzip (fb w 18 7) (fb w 11 7) (fb w 4 7) (fb w 3 1) (fb w 2 1) (fb w 0 2))
  | 0x0D => some (.xunzip (fb w 18 7) (fb w 11 7) (fb w 4 7) (fb w 3 1) (fb w 2 1) (fb w 0 2))
  | 0x10 => some (.xgetW8 (fb w 16 9) (fb w 9 7) (fb w 4 5) (fb w 1 3) (fb w 0 1))
  | 0x11 => some (.xgetW16 (fb w 16 9) (fb w 9 7) (fb w 4 5) (fb w 1 3) (fb w 0 1))
  | 0x12 => some (.xgetW32 (fb w 16 9) (fb w 9 7) (fb w 4 5) (fb w 1 3) (fb w 0 1))
  | 0x13 => some (.xgetW64 (fb w 16 9) (fb w 9 7) (fb w 4 5) (fb w 1 3) (fb w 0 1))
  | 0x14 => if w / 2 ^ 0 % 2 ^ 1 = 0 then some (.xputW8 (fb w 18 7) (fb w 9 9) (fb w 4 5) (fb w 1 3)) else none
  | 0x15 => if w / 2 ^ 0 % 2 ^ 1 = 0 then some (.xputW16 (fb w 18 7) (fb w 9 9) (fb w 4 5) (fb w 1 3)) else none
  | 0x16 => if w / 2 ^ 0 % 2 ^ 1 = 0 then some (.xputW32 (fb w 18 7) (fb w 9 9) (fb w 4 5) (fb w 1 3)) else none
  | 0x17 => if w / 2 ^ 0 % 2 ^ 1 = 0 then some (.xputW64 (fb w 18 7) (fb w 9 9) (fb w 4 5) (fb w 1 3)) else none
  | 0x18 => if w / 2 ^ 1 % 2 ^ 8 = 0 then some (.xballot (fb w 16 9) (fb w 9 7) (fb w 0 1)) else none
  | _ => none

/-- Opcodes of class SFU (02, R30): `op` the opcode field, `w` the word as a number. -/
def decodeSfu (op w : Nat) : Option Instr :=
  match op with
  | 0x01 => if w / 2 ^ 0 % 2 ^ 1 = 0 ∧ w / 2 ^ 2 % 2 ^ 1 = 0 ∧ w / 2 ^ 4 % 2 ^ 7 = 0 then some (.srcp (fb w 18 7) (fb w 11 7) (fb w 3 1) (fb w 1 1)) else none
  | 0x02 => if w / 2 ^ 0 % 2 ^ 1 = 0 ∧ w / 2 ^ 2 % 2 ^ 1 = 0 ∧ w / 2 ^ 4 % 2 ^ 7 = 0 then some (.srsqrt (fb w 18 7) (fb w 11 7) (fb w 3 1) (fb w 1 1)) else none
  | 0x03 => if w / 2 ^ 0 % 2 ^ 1 = 0 ∧ w / 2 ^ 2 % 2 ^ 1 = 0 ∧ w / 2 ^ 4 % 2 ^ 7 = 0 then some (.ssqrt (fb w 18 7) (fb w 11 7) (fb w 3 1) (fb w 1 1)) else none
  | 0x04 => if w / 2 ^ 0 % 2 ^ 1 = 0 ∧ w / 2 ^ 2 % 2 ^ 1 = 0 ∧ w / 2 ^ 4 % 2 ^ 7 = 0 then some (.sexp2 (fb w 18 7) (fb w 11 7) (fb w 3 1) (fb w 1 1)) else none
  | 0x05 => if w / 2 ^ 0 % 2 ^ 1 = 0 ∧ w / 2 ^ 2 % 2 ^ 1 = 0 ∧ w / 2 ^ 4 % 2 ^ 7 = 0 then some (.slog2 (fb w 18 7) (fb w 11 7) (fb w 3 1) (fb w 1 1)) else none
  | 0x06 => if w / 2 ^ 0 % 2 ^ 1 = 0 ∧ w / 2 ^ 2 % 2 ^ 1 = 0 ∧ w / 2 ^ 4 % 2 ^ 7 = 0 then some (.sexp (fb w 18 7) (fb w 11 7) (fb w 3 1) (fb w 1 1)) else none
  | 0x07 => if w / 2 ^ 0 % 2 ^ 1 = 0 ∧ w / 2 ^ 2 % 2 ^ 1 = 0 ∧ w / 2 ^ 4 % 2 ^ 7 = 0 then some (.ssinpi (fb w 18 7) (fb w 11 7) (fb w 3 1) (fb w 1 1)) else none
  | 0x08 => if w / 2 ^ 0 % 2 ^ 1 = 0 ∧ w / 2 ^ 2 % 2 ^ 1 = 0 ∧ w / 2 ^ 4 % 2 ^ 7 = 0 then some (.scospi (fb w 18 7) (fb w 11 7) (fb w 3 1) (fb w 1 1)) else none
  | 0x09 => if w / 2 ^ 0 % 2 ^ 1 = 0 ∧ w / 2 ^ 2 % 2 ^ 1 = 0 ∧ w / 2 ^ 4 % 2 ^ 7 = 0 then some (.stanh (fb w 18 7) (fb w 11 7) (fb w 3 1) (fb w 1 1)) else none
  | 0x0A => if w / 2 ^ 0 % 2 ^ 1 = 0 ∧ w / 2 ^ 2 % 2 ^ 1 = 0 ∧ w / 2 ^ 4 % 2 ^ 7 = 0 then some (.ssigm (fb w 18 7) (fb w 11 7) (fb w 3 1) (fb w 1 1)) else none
  | _ => none

/-- Opcodes of class MEM (02, R30): `op` the opcode field, `w` the word as a number. -/
def decodeMem (op w : Nat) : Option Instr :=
  match op with
  | 0x01 => some (.vld (fb w 18 7) (fb w 9 9) (fb w 2 7) (fb w 1 1) (fb w 0 1))
  | 0x02 => some (.vst (fb w 18 7) (fb w 9 9) (fb w 2 7) (fb w 1 1) (fb w 0 1))
  | 0x03 => some (.vldu (fb w 18 7) (fb w 9 9) (fb w 1 8) (fb w 0 1))
  | 0x04 => some (.vstu (fb w 18 7) (fb w 9 9) (fb w 1 8) (fb w 0 1))
  | 0x05 => some (.vlds (fb w 18 7) (fb w 9 9) (fb w 2 7) (fb w 1 1) (fb w 0 1))
  | 0x06 => some (.vsts (fb w 18 7) (fb w 9 9) (fb w 2 7) (fb w 1 1) (fb w 0 1))
  | 0x07 => some (.vldsu (fb w 18 7) (fb w 9 9) (fb w 1 8) (fb w 0 1))
  | 0x08 => some (.vstsu (fb w 18 7) (fb w 9 9) (fb w 1 8) (fb w 0 1))
  | 0x09 => some (.sld (fb w 16 9) (fb w 7 9) (fb w 1 6) (fb w 0 1))
  | 0x0A => some (.sst (fb w 16 9) (fb w 7 9) (fb w 1 6) (fb w 0 1))
  | 0x0B => some (.sldw (fb w 16 9) (fb w 7 9) (fb w 1 6) (fb w 0 1))
  | 0x0C => if w / 2 ^ 1 % 2 ^ 15 = 0 then some (.vpop (fb w 18 7) (fb w 16 2) (fb w 0 1)) else none
  | 0x0D => if w / 2 ^ 1 % 2 ^ 3 = 0 then some (.fld (fb w 23 2) (fb w 13 10) (fb w 4 9) (fb w 0 1)) else none
  | 0x0E => if w / 2 ^ 1 % 2 ^ 3 = 0 then some (.fst (fb w 23 2) (fb w 13 10) (fb w 4 9) (fb w 0 1)) else none
  | 0x0F => if w / 2 ^ 1 % 2 ^ 3 = 0 then some (.fldb (fb w 23 2) (fb w 13 10) (fb w 4 9) (fb w 0 1)) else none
  | 0x10 => if w / 2 ^ 1 % 2 ^ 3 = 0 then some (.flda (fb w 23 2) (fb w 13 10) (fb w 4 9) (fb w 0 1)) else none
  | 0x11 => if w / 2 ^ 1 % 2 ^ 3 = 0 then some (.famo (fb w 23 2) (fb w 13 10) (fb w 4 9) (fb w 0 1)) else none
  | 0x12 => if w / 2 ^ 1 % 2 ^ 2 = 0 then some (.vstb (fb w 18 7) (fb w 9 9) (fb w 3 6) (fb w 0 1)) else none
  | _ => none

/-- Opcodes of class SYNC (02, R30): `op` the opcode field, `w` the word as a number. -/
noncomputable def decodeSync (op w : Nat) : Option Instr :=
  match op with
  | 0x01 => if w / 2 ^ 1 % 2 ^ 5 = 0 then some (.bar (fb w 18 7) (fb w 9 9) (fb w 6 3) (fb w 0 1)) else none
  | 0x02 => if w / 2 ^ 1 % 2 ^ 6 = 0 then some (.barinit (fb w 16 9) (fb w 7 9) (fb w 0 1)) else none
  | 0x03 => if w / 2 ^ 1 % 2 ^ 6 = 0 ∧ w / 2 ^ 16 % 2 ^ 9 = 0 then some (.barsig (fb w 7 9) (fb w 0 1)) else none
  | 0x04 => if w / 2 ^ 1 % 2 ^ 6 = 0 ∧ w / 2 ^ 16 % 2 ^ 9 = 0 then some (.barwait (fb w 7 9) (fb w 0 1)) else none
  | 0x05 => if w / 2 ^ 1 % 2 ^ 6 = 0 then some (.gbar (fb w 16 9) (fb w 7 9) (fb w 0 1)) else none
  | 0x06 => if w / 2 ^ 1 % 2 ^ 9 = 0 then some (.qpush (fb w 16 9) (fb w 10 6) (fb w 0 1)) else none
  | 0x07 => if w / 2 ^ 1 % 2 ^ 9 = 0 then some (.qpop (fb w 16 9) (fb w 10 6) (fb w 0 1)) else none
  | 0x08 => if w / 2 ^ 1 % 2 ^ 9 = 0 then some (.qtry (fb w 16 9) (fb w 10 6) (fb w 0 1)) else none
  | 0x09 => if w / 2 ^ 1 % 2 ^ 9 = 0 then some (.qallow (fb w 16 9) (fb w 10 6) (fb w 0 1)) else none
  | 0x0A => if w / 2 ^ 1 % 2 ^ 2 = 0 ∧ w / 2 ^ 16 % 2 ^ 9 = 0 then some (.ringpub (fb w 12 4) (fb w 3 9) (fb w 0 1)) else none
  | 0x0B => if w / 2 ^ 1 % 2 ^ 2 = 0 then some (.ringwait (fb w 16 9) (fb w 12 4) (fb w 3 9) (fb w 0 1)) else none
  | 0x0C => if w / 2 ^ 1 % 2 ^ 2 = 0 then some (.ringadv (fb w 16 9) (fb w 12 4) (fb w 3 9) (fb w 0 1)) else none
  | 0x10 => if w / 2 ^ 1 % 2 ^ 3 = 0 then some (.aadd (fb w 18 7) (fb w 11 7) (fb w 6 5) (fb w 5 1) (fb w 4 1) (fb w 0 1)) else none
  | 0x11 => if w / 2 ^ 1 % 2 ^ 3 = 0 then some (.aand (fb w 18 7) (fb w 11 7) (fb w 6 5) (fb w 5 1) (fb w 4 1) (fb w 0 1)) else none
  | 0x12 => if w / 2 ^ 1 % 2 ^ 3 = 0 then some (.aor (fb w 18 7) (fb w 11 7) (fb w 6 5) (fb w 5 1) (fb w 4 1) (fb w 0 1)) else none
  | 0x13 => if w / 2 ^ 1 % 2 ^ 3 = 0 then some (.axor (fb w 18 7) (fb w 11 7) (fb w 6 5) (fb w 5 1) (fb w 4 1) (fb w 0 1)) else none
  | 0x14 => if w / 2 ^ 1 % 2 ^ 3 = 0 then some (.amin (fb w 18 7) (fb w 11 7) (fb w 6 5) (fb w 5 1) (fb w 4 1) (fb w 0 1)) else none
  | 0x15 => if w / 2 ^ 1 % 2 ^ 3 = 0 then some (.amax (fb w 18 7) (fb w 11 7) (fb w 6 5) (fb w 5 1) (fb w 4 1) (fb w 0 1)) else none
  | 0x16 => if w / 2 ^ 1 % 2 ^ 3 = 0 then some (.aswap (fb w 18 7) (fb w 11 7) (fb w 6 5) (fb w 5 1) (fb w 4 1) (fb w 0 1)) else none
  | 0x17 => if w / 2 ^ 1 % 2 ^ 3 = 0 then some (.acas (fb w 18 7) (fb w 11 7) (fb w 6 5) (fb w 5 1) (fb w 4 1) (fb w 0 1)) else none
  | 0x18 => if w / 2 ^ 1 % 2 ^ 3 = 0 then some (.redadd (fb w 18 7) (fb w 11 7) (fb w 6 5) (fb w 5 1) (fb w 4 1) (fb w 0 1)) else none
  | 0x19 => if w / 2 ^ 1 % 2 ^ 3 = 0 then some (.redmin (fb w 18 7) (fb w 11 7) (fb w 6 5) (fb w 5 1) (fb w 4 1) (fb w 0 1)) else none
  | 0x1A => if w / 2 ^ 1 % 2 ^ 3 = 0 then some (.redmax (fb w 18 7) (fb w 11 7) (fb w 6 5) (fb w 5 1) (fb w 4 1) (fb w 0 1)) else none
  | 0x1B => if w / 2 ^ 1 % 2 ^ 3 = 0 then some (.fredadd (fb w 18 7) (fb w 11 7) (fb w 6 5) (fb w 5 1) (fb w 4 1) (fb w 0 1)) else none
  | 0x20 => if w / 2 ^ 1 % 2 ^ 17 = 0 then some (.fence (fb w 20 5) (fb w 18 2) (fb w 0 1)) else none
  | 0x21 => if w / 2 ^ 1 % 2 ^ 9 = 0 then some (.qfence (fb w 20 5) (fb w 18 2) (fb w 10 8) (fb w 0 1)) else none
  | 0x22 => if w / 2 ^ 1 % 2 ^ 11 = 0 then some (.mbrd (fb w 16 9) (fb w 12 4) (fb w 0 1)) else none
  | 0x23 => if w / 2 ^ 1 % 2 ^ 11 = 0 then some (.mbwr (fb w 16 9) (fb w 12 4) (fb w 0 1)) else none
  | 0x24 => if w / 2 ^ 1 % 2 ^ 11 = 0 then some (.mbtry (fb w 16 9) (fb w 12 4) (fb w 0 1)) else none
  | _ => none

/-- Opcodes of class MTX (02, R30): `op` the opcode field, `w` the word as a number. -/
noncomputable def decodeMtx (op w : Nat) : Option Instr :=
  match op with
  | 0x01 => some (.mma (fb w 18 7) (fb w 11 7) (fb w 4 7) (fb w 1 3) (fb w 0 1))
  | 0x02 => some (.mmaz (fb w 18 7) (fb w 11 7) (fb w 4 7) (fb w 1 3) (fb w 0 1))
  | 0x03 => if w / 2 ^ 0 % 2 ^ 18 = 0 then some (.mset (fb w 18 7)) else none
  | 0x04 => if w / 2 ^ 7 % 2 ^ 9 = 0 then some (.mzero (fb w 16 9) (fb w 0 7)) else none
  | 0x05 => if w / 2 ^ 0 % 2 ^ 16 = 0 then some (.mpar (fb w 16 9)) else none
  | 0x06 => some (.mdrain (fb w 16 9) (fb w 7 9) (fb w 0 7))
  | 0x07 => if w / 2 ^ 7 % 2 ^ 9 = 0 then some (.mdrainv (fb w 16 9) (fb w 0 7)) else none
  | 0x08 => some (.msoft (fb w 16 9) (fb w 7 9) (fb w 0 7))
  | 0x09 => some (.mside (fb w 16 9) (fb w 7 9) (fb w 0 7))
  | 0x0A => some (.macq (fb w 16 9) (fb w 7 9) (fb w 0 7))
  | 0x0B => if w / 2 ^ 7 % 2 ^ 9 = 0 then some (.mrel (fb w 16 9) (fb w 0 7)) else none
  | 0x0C => if w / 2 ^ 7 % 2 ^ 9 = 0 then some (.mrelf (fb w 16 9) (fb w 0 7)) else none
  | 0x0D => some (.mred (fb w 16 9) (fb w 7 9) (fb w 0 7))
  | _ => none

/-- Opcodes of class ASYNC (02, R30): `op` the opcode field, `w` the word as a number. -/
noncomputable def decodeAsync (op w : Nat) : Option Instr :=
  match op with
  | 0x01 => some (.cpy (fb w 16 9) (fb w 7 9) (fb w 0 7))
  | 0x02 => some (.gath (fb w 16 9) (fb w 7 9) (fb w 0 7))
  | 0x03 => some (.scat (fb w 16 9) (fb w 7 9) (fb w 0 7))
  | 0x04 => some (.chain (fb w 16 9) (fb w 7 9) (fb w 0 7))
  | 0x05 => some (.ringsub (fb w 16 9) (fb w 7 9) (fb w 0 7))
  | 0x06 => if w / 2 ^ 0 % 2 ^ 7 = 0 then some (.unsub (fb w 16 9) (fb w 7 9)) else none
  | 0x07 => some (.pull (fb w 16 9) (fb w 7 9) (fb w 0 7))
  | 0x08 => if w / 2 ^ 0 % 2 ^ 7 = 0 then some (.tlook (fb w 16 9) (fb w 7 9)) else none
  | 0x09 => some (.tfill (fb w 16 9) (fb w 7 9) (fb w 0 7))
  | 0x0A => if w / 2 ^ 7 % 2 ^ 9 = 0 then some (.tevict (fb w 16 9) (fb w 0 7)) else none
  | 0x0B => if w / 2 ^ 7 % 2 ^ 9 = 0 then some (.tinval (fb w 16 9) (fb w 0 7)) else none
  | 0x0C => some (.coll (fb w 16 9) (fb w 7 9) (fb w 0 7))
  | 0x0D => some (.oldu (fb w 16 9) (fb w 7 9) (fb w 0 7))
  | 0x0E => some (.oldg (fb w 16 9) (fb w 7 9) (fb w 0 7))
  | _ => none

/-- Opcodes of class BAG (02, R30): `op` the opcode field, `w` the word as a number. -/
noncomputable def decodeBag (op w : Nat) : Option Instr :=
  match op with
  | 0x01 => some (.bput (fb w 18 7) (fb w 11 7) (fb w 2 9) (fb w 1 1) (fb w 0 1))
  | 0x02 => if w / 2 ^ 1 % 2 ^ 1 = 0 ∧ w / 2 ^ 11 % 2 ^ 7 = 0 then some (.bputl (fb w 18 7) (fb w 2 9) (fb w 0 1)) else none
  | 0x03 => if w / 2 ^ 0 % 2 ^ 7 = 0 then some (.bcount (fb w 16 9) (fb w 7 9)) else none
  | 0x04 => some (.bcounts (fb w 16 9) (fb w 7 9) (fb w 0 7))
  | 0x05 => some (.bnew (fb w 16 9) (fb w 7 9) (fb w 0 7))
  | 0x06 => some (.bgrow (fb w 16 9) (fb w 7 9) (fb w 0 7))
  | 0x07 => if w / 2 ^ 0 % 2 ^ 7 = 0 then some (.bfree (fb w 16 9) (fb w 7 9)) else none
  | 0x08 => if w / 2 ^ 0 % 2 ^ 7 = 0 then some (.bseal (fb w 16 9) (fb w 7 9)) else none
  | 0x09 => some (.biter (fb w 16 9) (fb w 7 9) (fb w 0 7))
  | 0x0A => if w / 2 ^ 1 % 2 ^ 1 = 0 then some (.bnext (fb w 18 7) (fb w 11 7) (fb w 2 9) (fb w 0 1)) else none
  | 0x0B => some (.bwrite (fb w 18 7) (fb w 11 7) (fb w 2 9) (fb w 1 1) (fb w 0 1))
  | 0x0C => some (.bdrain (fb w 16 9) (fb w 7 9) (fb w 0 7))
  | _ => none

/-- Opcodes of class TASK (02, R30): `op` the opcode field, `w` the word as a number. -/
noncomputable def decodeTask (op w : Nat) : Option Instr :=
  match op with
  | 0x01 => some (.spawn (fb w 16 9) (fb w 7 9) (fb w 0 7))
  | 0x02 => some (.spawnr (fb w 16 9) (fb w 7 9) (fb w 0 7))
  | 0x03 => if w / 2 ^ 0 % 2 ^ 7 = 0 then some (.rtake (fb w 16 9) (fb w 7 9)) else none
  | 0x04 => some (.launch (fb w 16 9) (fb w 7 9) (fb w 0 7))
  | 0x05 => if w / 2 ^ 0 % 2 ^ 7 = 0 then some (.tcbdec (fb w 16 9) (fb w 7 9)) else none
  | 0x06 => if w / 2 ^ 0 % 2 ^ 7 = 0 then some (.eplan (fb w 16 9) (fb w 7 9)) else none
  | 0x07 => if w / 2 ^ 0 % 2 ^ 16 = 0 then some (.wphase (fb w 16 9)) else none
  | 0x08 => if w / 2 ^ 0 % 2 ^ 7 = 0 then some (.tself (fb w 16 9) (fb w 7 9)) else none
  | 0x09 => some (.fcont (fb w 16 9) (fb w 7 9) (fb w 0 7))
  | _ => none

/-- The repeat word, the same in every class (02, R13, R32); its reserved bits are zero. -/
def decodeRpt (w : Nat) : Option Instr :=
  if w / 2 ^ 25 % 2 ^ 7 = 127 ∧ w / 2 ^ 0 % 2 ^ 7 = 0 then
    some (.rpt (fb w 19 6) (fb w 15 4) (fb w 11 4) (fb w 7 4)) else none

/-- The word has the marker of the repeat word (02, R23). -/
def isRptWord (w : Nat) : Bool := w / 2 ^ 25 % 2 ^ 7 == 127

/-- The fields of a word in a class, before the checks of illegal field values. -/
noncomputable def decodeFields (cls w : Nat) : Option Instr :=
  if w / 2 ^ 25 % 2 ^ 7 = 127 then (if cls < 14 then decodeRpt w else none)
  else if cls = 0 then decodeCtrl (w / 2 ^ 25 % 2 ^ 7) w
  else if cls = 1 then decodeSalu (w / 2 ^ 27 % 2 ^ 5) w
  else if cls = 2 then decodeSimm (w / 2 ^ 27 % 2 ^ 5) w
  else if cls = 3 then decodeValu (w / 2 ^ 25 % 2 ^ 7) w
  else if cls = 4 then decodeVfpu (w / 2 ^ 25 % 2 ^ 7) w
  else if cls = 5 then decodeVsli (w / 2 ^ 25 % 2 ^ 7) w
  else if cls = 6 then decodeXlane (w / 2 ^ 25 % 2 ^ 7) w
  else if cls = 7 then decodeSfu (w / 2 ^ 25 % 2 ^ 7) w
  else if cls = 8 then decodeMem (w / 2 ^ 25 % 2 ^ 7) w
  else if cls = 9 then decodeSync (w / 2 ^ 25 % 2 ^ 7) w
  else if cls = 10 then decodeMtx (w / 2 ^ 25 % 2 ^ 7) w
  else if cls = 11 then decodeAsync (w / 2 ^ 25 % 2 ^ 7) w
  else if cls = 12 then decodeBag (w / 2 ^ 25 % 2 ^ 7) w
  else if cls = 13 then decodeTask (w / 2 ^ 25 % 2 ^ 7) w
  else none

/-- Why a word is not an instruction of its class. -/
inductive DecodeError where
  | illegalWord      -- 02, R36: trap with cause 0x02 at the word
  | illegalHeader    -- 02, R36: trap with cause 0x01 at the header
  deriving DecidableEq, Repr

/-- A word decoded in the class its header names (02, R13); every word that is no instruction is rejected by name. -/
noncomputable def decodeWord (cls : Nat) (w : W32) : Except DecodeError Instr :=
  match decodeFields cls w.toNat with
  | some i => if i.wf then .ok i else .error .illegalWord
  | none => .error .illegalWord

/-- The fields of a clause header (02, R12). -/
def headerFields (w : Nat) : Instr :=
  .clauseHeader (fb w 28 4) (fb w 24 4) (fb w 12 12) (fb w 8 4) (fb w 4 4) (fb w 3 1)

/-- A word decoded as a clause header (02, R11, R12). -/
def decodeHeader (w : W32) : Except DecodeError Instr :=
  if w.toNat / 2 ^ 0 % 2 ^ 3 = 0 ∧ (headerFields w.toNat).wf then .ok (headerFields w.toNat) else .error .illegalHeader

/-- The class in whose clauses a word stands (02, R19); none for the header, the repeat word and the agents' steps. -/
def Instr.cls : Instr → Option Nat
  | .clauseHeader _ _ _ _ _ _ => none
  | .rpt _ _ _ _ => none
  | .bra _ => some 0
  | .bz _ _ => some 0
  | .bnz _ _ => some 0
  | .bneg _ _ => some 0
  | .bnneg _ _ => some 0
  | .bvz _ _ _ => some 0
  | .bvnz _ _ _ => some 0
  | .call _ => some 0
  | .callr _ => some 0
  | .jmpr _ _ => some 0
  | .ret => some 0
  | .exit => some 0
  | .vpark => some 0
  | .yield => some 0
  | .trap _ _ => some 0
  | .rfe => some 0
  | .brk => some 0
  | .sysrd _ _ => some 0
  | .syswr _ _ => some 0
  | .fent _ _ _ => some 0
  | .fexit _ _ => some 0
  | .fdisp _ _ => some 0
  | .fpub _ => some 0
  | .pcvrd _ => some 0
  | .pcvwr _ _ => some 0
  | .trpv _ _ _ => some 0
  | .add _ _ _ => some 1
  | .sub _ _ _ => some 1
  | .mul _ _ _ => some 1
  | .mulh _ _ _ => some 1
  | .mulhu _ _ _ => some 1
  | .div _ _ _ => some 1
  | .divu _ _ _ => some 1
  | .rem _ _ _ => some 1
  | .remu _ _ _ => some 1
  | .and _ _ _ => some 1
  | .or _ _ _ => some 1
  | .xor _ _ _ => some 1
  | .andn _ _ _ => some 1
  | .shl _ _ _ => some 1
  | .shr _ _ _ => some 1
  | .sar _ _ _ => some 1
  | .rot _ _ _ => some 1
  | .min _ _ _ => some 1
  | .max _ _ _ => some 1
  | .minu _ _ _ => some 1
  | .maxu _ _ _ => some 1
  | .slt _ _ _ => some 1
  | .sltu _ _ _ => some 1
  | .seq _ _ _ => some 1
  | .sel _ _ _ => some 1
  | .clz _ _ => some 1
  | .ctz _ _ => some 1
  | .popc _ _ => some 1
  | .addi _ _ _ => some 2
  | .andi _ _ _ => some 2
  | .ori _ _ _ => some 2
  | .xori _ _ _ => some 2
  | .shli _ _ _ => some 2
  | .shri _ _ _ => some 2
  | .sari _ _ _ => some 2
  | .slti _ _ _ => some 2
  | .sltui _ _ _ => some 2
  | .seqi _ _ _ => some 2
  | .muli _ _ _ => some 2
  | .movi _ _ => some 2
  | .movhi _ _ => some 2
  | .ldpc _ _ => some 2
  | .vadd _ _ _ _ _ _ => some 3
  | .vsub _ _ _ _ _ _ => some 3
  | .vaddss _ _ _ _ _ _ => some 3
  | .vaddsu _ _ _ _ _ _ => some 3
  | .vsubss _ _ _ _ _ _ => some 3
  | .vsubsu _ _ _ _ _ _ => some 3
  | .vmul _ _ _ _ _ _ => some 3
  | .vmulh _ _ _ _ _ _ => some 3
  | .vmulhu _ _ _ _ _ _ => some 3
  | .vmad _ _ _ _ _ _ => some 3
  | .vmin _ _ _ _ _ _ => some 3
  | .vmax _ _ _ _ _ _ => some 3
  | .vminu _ _ _ _ _ _ => some 3
  | .vmaxu _ _ _ _ _ _ => some 3
  | .vand _ _ _ _ _ _ => some 3
  | .vor _ _ _ _ _ _ => some 3
  | .vxor _ _ _ _ _ _ => some 3
  | .vandn _ _ _ _ _ _ => some 3
  | .vshl _ _ _ _ _ _ => some 3
  | .vshr _ _ _ _ _ _ => some 3
  | .vsar _ _ _ _ _ _ => some 3
  | .vrot _ _ _ _ _ _ => some 3
  | .vceq _ _ _ _ _ _ => some 3
  | .vclt _ _ _ _ _ _ => some 3
  | .vcltu _ _ _ _ _ _ => some 3
  | .vsel _ _ _ _ _ _ => some 3
  | .vclz _ _ _ _ => some 3
  | .vpopc _ _ _ _ => some 3
  | .vabs _ _ _ _ => some 3
  | .vdot4 _ _ _ _ _ => some 3
  | .vmov _ _ _ _ => some 3
  | .vwiden _ _ _ _ => some 3
  | .vnarrow _ _ _ _ => some 3
  | .vlid _ _ => some 3
  | .vaddi _ _ _ _ _ => some 3
  | .vshli _ _ _ _ _ => some 3
  | .vshri _ _ _ _ _ => some 3
  | .vsari _ _ _ _ _ => some 3
  | .vandi _ _ _ _ _ => some 3
  | .vmovi _ _ _ => some 3
  | .vceqi _ _ _ _ _ => some 3
  | .vaddS _ _ _ _ _ => some 3
  | .vsubS _ _ _ _ _ => some 3
  | .vmulS _ _ _ _ _ => some 3
  | .vminS _ _ _ _ _ => some 3
  | .vmaxS _ _ _ _ _ => some 3
  | .vandS _ _ _ _ _ => some 3
  | .vmovS _ _ _ => some 3
  | .vceqS _ _ _ _ _ => some 3
  | .vcltS _ _ _ _ _ => some 3
  | .faddF32 _ _ _ _ _ _ _ => some 4
  | .fsubF32 _ _ _ _ _ _ _ => some 4
  | .fmulF32 _ _ _ _ _ _ _ => some 4
  | .ffmaF32 _ _ _ _ _ _ _ => some 4
  | .ffmsF32 _ _ _ _ _ _ _ => some 4
  | .fminF32 _ _ _ _ _ _ _ => some 4
  | .fmaxF32 _ _ _ _ _ _ _ => some 4
  | .fabsF32 _ _ _ _ => some 4
  | .fnegF32 _ _ _ _ => some 4
  | .fceqF32 _ _ _ _ _ _ _ => some 4
  | .fcltF32 _ _ _ _ _ _ _ => some 4
  | .fcleF32 _ _ _ _ _ _ _ => some 4
  | .faddBf16 _ _ _ _ _ _ _ => some 4
  | .fmulBf16 _ _ _ _ _ _ _ => some 4
  | .ffmaBf16 _ _ _ _ _ _ _ => some 4
  | .fdot2Bf16 _ _ _ _ _ _ _ => some 4
  | .faddF16 _ _ _ _ _ _ _ => some 4
  | .fmulF16 _ _ _ _ _ _ _ => some 4
  | .ffmaF16 _ _ _ _ _ _ _ => some 4
  | .fdot2F16 _ _ _ _ _ _ _ => some 4
  | .faddF64 _ _ _ _ _ _ _ => some 4
  | .fmulF64 _ _ _ _ _ _ _ => some 4
  | .ffmaF64 _ _ _ _ _ _ _ => some 4
  | .fcvtF32Bf16 _ _ _ _ => some 4
  | .fcvtBf16F32 _ _ _ _ => some 4
  | .fcvtF32F16 _ _ _ _ => some 4
  | .fcvtF16F32 _ _ _ _ => some 4
  | .fcvtF32E4m3 _ _ _ _ => some 4
  | .fcvtE4m3F32 _ _ _ _ => some 4
  | .fcvtF32E5m2 _ _ _ _ => some 4
  | .fcvtE5m2F32 _ _ _ _ => some 4
  | .fcvtF32I32 _ _ _ _ => some 4
  | .fcvtI32F32 _ _ _ _ => some 4
  | .fcvtI32F32z _ _ _ _ => some 4
  | .fcvtF64F32 _ _ _ _ => some 4
  | .fcvtF32F64 _ _ _ _ => some 4
  | .xshfl _ _ _ _ _ _ => some 6
  | .xswz _ _ _ _ _ => some 6
  | .xrot _ _ _ _ _ => some 6
  | .xbcast _ _ _ _ _ => some 6
  | .xredadd _ _ _ _ => some 6
  | .xredmin _ _ _ _ => some 6
  | .xredmax _ _ _ _ => some 6
  | .xfredaddF32 _ _ _ => some 6
  | .xfredmaxF32 _ _ _ => some 6
  | .xscan _ _ _ _ => some 6
  | .xfscanF32 _ _ _ => some 6
  | .xzip _ _ _ _ _ _ => some 6
  | .xunzip _ _ _ _ _ _ => some 6
  | .xgetW8 _ _ _ _ _ => some 6
  | .xgetW16 _ _ _ _ _ => some 6
  | .xgetW32 _ _ _ _ _ => some 6
  | .xgetW64 _ _ _ _ _ => some 6
  | .xputW8 _ _ _ _ => some 6
  | .xputW16 _ _ _ _ => some 6
  | .xputW32 _ _ _ _ => some 6
  | .xputW64 _ _ _ _ => some 6
  | .xballot _ _ _ => some 6
  | .srcp _ _ _ _ => some 7
  | .srsqrt _ _ _ _ => some 7
  | .ssqrt _ _ _ _ => some 7
  | .sexp2 _ _ _ _ => some 7
  | .slog2 _ _ _ _ => some 7
  | .sexp _ _ _ _ => some 7
  | .ssinpi _ _ _ _ => some 7
  | .scospi _ _ _ _ => some 7
  | .stanh _ _ _ _ => some 7
  | .ssigm _ _ _ _ => some 7
  | .sladd _ _ _ _ _ _ => some 5
  | .slsub _ _ _ _ _ _ => some 5
  | .slmul _ _ _ _ _ _ => some 5
  | .sldiv _ _ _ _ _ _ => some 5
  | .slrcp _ _ _ _ => some 5
  | .slneg _ _ _ _ => some 5
  | .slabs _ _ _ _ => some 5
  | .slexp _ _ _ _ => some 5
  | .sllog _ _ _ _ => some 5
  | .slmin _ _ _ _ _ _ => some 5
  | .slmax _ _ _ _ _ _ => some 5
  | .slceq _ _ _ _ _ _ => some 5
  | .slclt _ _ _ _ _ _ => some 5
  | .slsqrt _ _ _ _ => some 5
  | .slcvtSlF32 _ _ _ => some 5
  | .slcvtF32Sl _ _ _ => some 5
  | .slcvtSlF64 _ _ _ => some 5
  | .slcvtF64Sl _ _ _ => some 5
  | .slcvtSl16Sl32 _ _ _ => some 5
  | .slcvtSl32Sl16 _ _ _ => some 5
  | .sllvl _ _ _ _ => some 5
  | .vld _ _ _ _ _ => some 8
  | .vst _ _ _ _ _ => some 8
  | .vldu _ _ _ _ => some 8
  | .vstu _ _ _ _ => some 8
  | .vlds _ _ _ _ _ => some 8
  | .vsts _ _ _ _ _ => some 8
  | .vldsu _ _ _ _ => some 8
  | .vstsu _ _ _ _ => some 8
  | .sld _ _ _ _ => some 8
  | .sst _ _ _ _ => some 8
  | .sldw _ _ _ _ => some 8
  | .vpop _ _ _ => some 8
  | .fld _ _ _ _ => some 8
  | .fst _ _ _ _ => some 8
  | .fldb _ _ _ _ => some 8
  | .flda _ _ _ _ => some 8
  | .famo _ _ _ _ => some 8
  | .vstb _ _ _ _ => some 8
  | .bar _ _ _ _ => some 9
  | .barinit _ _ _ => some 9
  | .barsig _ _ => some 9
  | .barwait _ _ => some 9
  | .gbar _ _ _ => some 9
  | .qpush _ _ _ => some 9
  | .qpop _ _ _ => some 9
  | .qtry _ _ _ => some 9
  | .qallow _ _ _ => some 9
  | .ringpub _ _ _ => some 9
  | .ringwait _ _ _ _ => some 9
  | .ringadv _ _ _ _ => some 9
  | .aadd _ _ _ _ _ _ => some 9
  | .aand _ _ _ _ _ _ => some 9
  | .aor _ _ _ _ _ _ => some 9
  | .axor _ _ _ _ _ _ => some 9
  | .amin _ _ _ _ _ _ => some 9
  | .amax _ _ _ _ _ _ => some 9
  | .aswap _ _ _ _ _ _ => some 9
  | .acas _ _ _ _ _ _ => some 9
  | .redadd _ _ _ _ _ _ => some 9
  | .redmin _ _ _ _ _ _ => some 9
  | .redmax _ _ _ _ _ _ => some 9
  | .fredadd _ _ _ _ _ _ => some 9
  | .fence _ _ _ => some 9
  | .qfence _ _ _ _ => some 9
  | .mbrd _ _ _ => some 9
  | .mbwr _ _ _ => some 9
  | .mbtry _ _ _ => some 9
  | .mma _ _ _ _ _ => some 10
  | .mmaz _ _ _ _ _ => some 10
  | .mset _ => some 10
  | .mzero _ _ => some 10
  | .mpar _ => some 10
  | .mdrain _ _ _ => some 10
  | .mdrainv _ _ => some 10
  | .msoft _ _ _ => some 10
  | .mside _ _ _ => some 10
  | .macq _ _ _ => some 10
  | .mrel _ _ => some 10
  | .mrelf _ _ => some 10
  | .mred _ _ _ => some 10
  | .cpy _ _ _ => some 11
  | .gath _ _ _ => some 11
  | .scat _ _ _ => some 11
  | .chain _ _ _ => some 11
  | .ringsub _ _ _ => some 11
  | .unsub _ _ => some 11
  | .pull _ _ _ => some 11
  | .tlook _ _ => some 11
  | .tfill _ _ _ => some 11
  | .tevict _ _ => some 11
  | .tinval _ _ => some 11
  | .coll _ _ _ => some 11
  | .oldu _ _ _ => some 11
  | .oldg _ _ _ => some 11
  | .bput _ _ _ _ _ => some 12
  | .bputl _ _ _ => some 12
  | .bcount _ _ => some 12
  | .bcounts _ _ _ => some 12
  | .bnew _ _ _ => some 12
  | .bgrow _ _ _ => some 12
  | .bfree _ _ => some 12
  | .bseal _ _ => some 12
  | .biter _ _ _ => some 12
  | .bnext _ _ _ _ => some 12
  | .bwrite _ _ _ _ _ => some 12
  | .bdrain _ _ _ => some 12
  | .spawn _ _ _ => some 13
  | .spawnr _ _ _ => some 13
  | .rtake _ _ => some 13
  | .launch _ _ _ => some 13
  | .tcbdec _ _ => some 13
  | .eplan _ _ => some 13
  | .wphase _ => some 13
  | .tself _ _ => some 13
  | .fcont _ _ _ => some 13
  | .uncorrectableLoadTrap => none
  | .load _ _ => none
  | .drain _ _ => none
  | .apply _ _ => none
  | .atomic _ _ => none
  | .publish _ => none
  | .engineOpStart _ _ => none
  | .engineOpComplete _ _ => none
  | .subscriptionAccept _ => none
  | .loaderPublish _ _ => none
  | .storerStore _ _ => none
  | .oqEntryArrive _ _ => none
  | .rdPacket _ _ _ => none
  | .wrPacket _ _ => none
  | .atmPacket _ _ _ => none
  | .memoryReply _ _ _ => none
  | .perBankRefresh _ _ _ => none
  | .refreshComplete _ _ _ => none
  | .patrolScrub _ _ => none
  | .lanternGateRow _ => none
  | .launchDoorbell _ _ _ => none
  | .launchAccept => none
  | .piecePlace _ => none
  | .pieceSplit _ => none
  | .gangStarve _ => none
  | .crPop _ _ => none
  | .groupLeave => none
  | .schedAgingBoost _ => none
  | .scoreboardSquash _ _ => none
  | .preemption _ _ => none
  | .preemptSave _ => none
  | .unitResume _ _ => none
  | .wphaseSpill _ => none
  | .storageEccError _ _ _ _ _ => none
  | .aaeLastingFault _ _ => none
  | .rollback _ => none
  | .flitCrcError _ => none
  | .portRetrain _ => none
  | .remoteTimeout _ _ => none
  | .fabricDeliver _ => none
  | .hostAccess _ => none
  | .thermalHalt _ => none
  | .thermalResume _ => none
  | .powerLimitThrottle _ => none
  | .bringUp _ => none
  | .firmwareSwap _ => none
  | .summary _ _ => none
  | .ctxset _ _ _ => none
  | .inval _ _ _ _ _ => none
  | .resolve _ _ _ => none
  | .preempt _ _ => none
  | .routebind _ _ _ _ => none
  | .clrsuspect _ _ => none
  | .domain _ _ _ _ => none
  | .route _ _ _ => none
  | .fwload _ _ _ => none
  | .attest _ _ _ => none
  | .wreset _ => none
  | .scrub _ _ _ => none
  | .aaefence _ _ _ => none
  | .corestat _ _ => none
  | .placementHomeApply _ => none
  | .matrixWordComplete _ _ _ => none
  | .retrainComplete _ _ => none

/-- The row has an instruction word. -/
def Instr.hasWord : Instr → Bool
  | .clauseHeader _ _ _ _ _ _ => true
  | .rpt _ _ _ _ => true
  | .bra _ => true
  | .bz _ _ => true
  | .bnz _ _ => true
  | .bneg _ _ => true
  | .bnneg _ _ => true
  | .bvz _ _ _ => true
  | .bvnz _ _ _ => true
  | .call _ => true
  | .callr _ => true
  | .jmpr _ _ => true
  | .ret => true
  | .exit => true
  | .vpark => true
  | .yield => true
  | .trap _ _ => true
  | .rfe => true
  | .brk => true
  | .sysrd _ _ => true
  | .syswr _ _ => true
  | .fent _ _ _ => true
  | .fexit _ _ => true
  | .fdisp _ _ => true
  | .fpub _ => true
  | .pcvrd _ => true
  | .pcvwr _ _ => true
  | .trpv _ _ _ => true
  | .add _ _ _ => true
  | .sub _ _ _ => true
  | .mul _ _ _ => true
  | .mulh _ _ _ => true
  | .mulhu _ _ _ => true
  | .div _ _ _ => true
  | .divu _ _ _ => true
  | .rem _ _ _ => true
  | .remu _ _ _ => true
  | .and _ _ _ => true
  | .or _ _ _ => true
  | .xor _ _ _ => true
  | .andn _ _ _ => true
  | .shl _ _ _ => true
  | .shr _ _ _ => true
  | .sar _ _ _ => true
  | .rot _ _ _ => true
  | .min _ _ _ => true
  | .max _ _ _ => true
  | .minu _ _ _ => true
  | .maxu _ _ _ => true
  | .slt _ _ _ => true
  | .sltu _ _ _ => true
  | .seq _ _ _ => true
  | .sel _ _ _ => true
  | .clz _ _ => true
  | .ctz _ _ => true
  | .popc _ _ => true
  | .addi _ _ _ => true
  | .andi _ _ _ => true
  | .ori _ _ _ => true
  | .xori _ _ _ => true
  | .shli _ _ _ => true
  | .shri _ _ _ => true
  | .sari _ _ _ => true
  | .slti _ _ _ => true
  | .sltui _ _ _ => true
  | .seqi _ _ _ => true
  | .muli _ _ _ => true
  | .movi _ _ => true
  | .movhi _ _ => true
  | .ldpc _ _ => true
  | .vadd _ _ _ _ _ _ => true
  | .vsub _ _ _ _ _ _ => true
  | .vaddss _ _ _ _ _ _ => true
  | .vaddsu _ _ _ _ _ _ => true
  | .vsubss _ _ _ _ _ _ => true
  | .vsubsu _ _ _ _ _ _ => true
  | .vmul _ _ _ _ _ _ => true
  | .vmulh _ _ _ _ _ _ => true
  | .vmulhu _ _ _ _ _ _ => true
  | .vmad _ _ _ _ _ _ => true
  | .vmin _ _ _ _ _ _ => true
  | .vmax _ _ _ _ _ _ => true
  | .vminu _ _ _ _ _ _ => true
  | .vmaxu _ _ _ _ _ _ => true
  | .vand _ _ _ _ _ _ => true
  | .vor _ _ _ _ _ _ => true
  | .vxor _ _ _ _ _ _ => true
  | .vandn _ _ _ _ _ _ => true
  | .vshl _ _ _ _ _ _ => true
  | .vshr _ _ _ _ _ _ => true
  | .vsar _ _ _ _ _ _ => true
  | .vrot _ _ _ _ _ _ => true
  | .vceq _ _ _ _ _ _ => true
  | .vclt _ _ _ _ _ _ => true
  | .vcltu _ _ _ _ _ _ => true
  | .vsel _ _ _ _ _ _ => true
  | .vclz _ _ _ _ => true
  | .vpopc _ _ _ _ => true
  | .vabs _ _ _ _ => true
  | .vdot4 _ _ _ _ _ => true
  | .vmov _ _ _ _ => true
  | .vwiden _ _ _ _ => true
  | .vnarrow _ _ _ _ => true
  | .vlid _ _ => true
  | .vaddi _ _ _ _ _ => true
  | .vshli _ _ _ _ _ => true
  | .vshri _ _ _ _ _ => true
  | .vsari _ _ _ _ _ => true
  | .vandi _ _ _ _ _ => true
  | .vmovi _ _ _ => true
  | .vceqi _ _ _ _ _ => true
  | .vaddS _ _ _ _ _ => true
  | .vsubS _ _ _ _ _ => true
  | .vmulS _ _ _ _ _ => true
  | .vminS _ _ _ _ _ => true
  | .vmaxS _ _ _ _ _ => true
  | .vandS _ _ _ _ _ => true
  | .vmovS _ _ _ => true
  | .vceqS _ _ _ _ _ => true
  | .vcltS _ _ _ _ _ => true
  | .faddF32 _ _ _ _ _ _ _ => true
  | .fsubF32 _ _ _ _ _ _ _ => true
  | .fmulF32 _ _ _ _ _ _ _ => true
  | .ffmaF32 _ _ _ _ _ _ _ => true
  | .ffmsF32 _ _ _ _ _ _ _ => true
  | .fminF32 _ _ _ _ _ _ _ => true
  | .fmaxF32 _ _ _ _ _ _ _ => true
  | .fabsF32 _ _ _ _ => true
  | .fnegF32 _ _ _ _ => true
  | .fceqF32 _ _ _ _ _ _ _ => true
  | .fcltF32 _ _ _ _ _ _ _ => true
  | .fcleF32 _ _ _ _ _ _ _ => true
  | .faddBf16 _ _ _ _ _ _ _ => true
  | .fmulBf16 _ _ _ _ _ _ _ => true
  | .ffmaBf16 _ _ _ _ _ _ _ => true
  | .fdot2Bf16 _ _ _ _ _ _ _ => true
  | .faddF16 _ _ _ _ _ _ _ => true
  | .fmulF16 _ _ _ _ _ _ _ => true
  | .ffmaF16 _ _ _ _ _ _ _ => true
  | .fdot2F16 _ _ _ _ _ _ _ => true
  | .faddF64 _ _ _ _ _ _ _ => true
  | .fmulF64 _ _ _ _ _ _ _ => true
  | .ffmaF64 _ _ _ _ _ _ _ => true
  | .fcvtF32Bf16 _ _ _ _ => true
  | .fcvtBf16F32 _ _ _ _ => true
  | .fcvtF32F16 _ _ _ _ => true
  | .fcvtF16F32 _ _ _ _ => true
  | .fcvtF32E4m3 _ _ _ _ => true
  | .fcvtE4m3F32 _ _ _ _ => true
  | .fcvtF32E5m2 _ _ _ _ => true
  | .fcvtE5m2F32 _ _ _ _ => true
  | .fcvtF32I32 _ _ _ _ => true
  | .fcvtI32F32 _ _ _ _ => true
  | .fcvtI32F32z _ _ _ _ => true
  | .fcvtF64F32 _ _ _ _ => true
  | .fcvtF32F64 _ _ _ _ => true
  | .xshfl _ _ _ _ _ _ => true
  | .xswz _ _ _ _ _ => true
  | .xrot _ _ _ _ _ => true
  | .xbcast _ _ _ _ _ => true
  | .xredadd _ _ _ _ => true
  | .xredmin _ _ _ _ => true
  | .xredmax _ _ _ _ => true
  | .xfredaddF32 _ _ _ => true
  | .xfredmaxF32 _ _ _ => true
  | .xscan _ _ _ _ => true
  | .xfscanF32 _ _ _ => true
  | .xzip _ _ _ _ _ _ => true
  | .xunzip _ _ _ _ _ _ => true
  | .xgetW8 _ _ _ _ _ => true
  | .xgetW16 _ _ _ _ _ => true
  | .xgetW32 _ _ _ _ _ => true
  | .xgetW64 _ _ _ _ _ => true
  | .xputW8 _ _ _ _ => true
  | .xputW16 _ _ _ _ => true
  | .xputW32 _ _ _ _ => true
  | .xputW64 _ _ _ _ => true
  | .xballot _ _ _ => true
  | .srcp _ _ _ _ => true
  | .srsqrt _ _ _ _ => true
  | .ssqrt _ _ _ _ => true
  | .sexp2 _ _ _ _ => true
  | .slog2 _ _ _ _ => true
  | .sexp _ _ _ _ => true
  | .ssinpi _ _ _ _ => true
  | .scospi _ _ _ _ => true
  | .stanh _ _ _ _ => true
  | .ssigm _ _ _ _ => true
  | .sladd _ _ _ _ _ _ => true
  | .slsub _ _ _ _ _ _ => true
  | .slmul _ _ _ _ _ _ => true
  | .sldiv _ _ _ _ _ _ => true
  | .slrcp _ _ _ _ => true
  | .slneg _ _ _ _ => true
  | .slabs _ _ _ _ => true
  | .slexp _ _ _ _ => true
  | .sllog _ _ _ _ => true
  | .slmin _ _ _ _ _ _ => true
  | .slmax _ _ _ _ _ _ => true
  | .slceq _ _ _ _ _ _ => true
  | .slclt _ _ _ _ _ _ => true
  | .slsqrt _ _ _ _ => true
  | .slcvtSlF32 _ _ _ => true
  | .slcvtF32Sl _ _ _ => true
  | .slcvtSlF64 _ _ _ => true
  | .slcvtF64Sl _ _ _ => true
  | .slcvtSl16Sl32 _ _ _ => true
  | .slcvtSl32Sl16 _ _ _ => true
  | .sllvl _ _ _ _ => true
  | .vld _ _ _ _ _ => true
  | .vst _ _ _ _ _ => true
  | .vldu _ _ _ _ => true
  | .vstu _ _ _ _ => true
  | .vlds _ _ _ _ _ => true
  | .vsts _ _ _ _ _ => true
  | .vldsu _ _ _ _ => true
  | .vstsu _ _ _ _ => true
  | .sld _ _ _ _ => true
  | .sst _ _ _ _ => true
  | .sldw _ _ _ _ => true
  | .vpop _ _ _ => true
  | .fld _ _ _ _ => true
  | .fst _ _ _ _ => true
  | .fldb _ _ _ _ => true
  | .flda _ _ _ _ => true
  | .famo _ _ _ _ => true
  | .vstb _ _ _ _ => true
  | .bar _ _ _ _ => true
  | .barinit _ _ _ => true
  | .barsig _ _ => true
  | .barwait _ _ => true
  | .gbar _ _ _ => true
  | .qpush _ _ _ => true
  | .qpop _ _ _ => true
  | .qtry _ _ _ => true
  | .qallow _ _ _ => true
  | .ringpub _ _ _ => true
  | .ringwait _ _ _ _ => true
  | .ringadv _ _ _ _ => true
  | .aadd _ _ _ _ _ _ => true
  | .aand _ _ _ _ _ _ => true
  | .aor _ _ _ _ _ _ => true
  | .axor _ _ _ _ _ _ => true
  | .amin _ _ _ _ _ _ => true
  | .amax _ _ _ _ _ _ => true
  | .aswap _ _ _ _ _ _ => true
  | .acas _ _ _ _ _ _ => true
  | .redadd _ _ _ _ _ _ => true
  | .redmin _ _ _ _ _ _ => true
  | .redmax _ _ _ _ _ _ => true
  | .fredadd _ _ _ _ _ _ => true
  | .fence _ _ _ => true
  | .qfence _ _ _ _ => true
  | .mbrd _ _ _ => true
  | .mbwr _ _ _ => true
  | .mbtry _ _ _ => true
  | .mma _ _ _ _ _ => true
  | .mmaz _ _ _ _ _ => true
  | .mset _ => true
  | .mzero _ _ => true
  | .mpar _ => true
  | .mdrain _ _ _ => true
  | .mdrainv _ _ => true
  | .msoft _ _ _ => true
  | .mside _ _ _ => true
  | .macq _ _ _ => true
  | .mrel _ _ => true
  | .mrelf _ _ => true
  | .mred _ _ _ => true
  | .cpy _ _ _ => true
  | .gath _ _ _ => true
  | .scat _ _ _ => true
  | .chain _ _ _ => true
  | .ringsub _ _ _ => true
  | .unsub _ _ => true
  | .pull _ _ _ => true
  | .tlook _ _ => true
  | .tfill _ _ _ => true
  | .tevict _ _ => true
  | .tinval _ _ => true
  | .coll _ _ _ => true
  | .oldu _ _ _ => true
  | .oldg _ _ _ => true
  | .bput _ _ _ _ _ => true
  | .bputl _ _ _ => true
  | .bcount _ _ => true
  | .bcounts _ _ _ => true
  | .bnew _ _ _ => true
  | .bgrow _ _ _ => true
  | .bfree _ _ => true
  | .bseal _ _ => true
  | .biter _ _ _ => true
  | .bnext _ _ _ _ => true
  | .bwrite _ _ _ _ _ => true
  | .bdrain _ _ _ => true
  | .spawn _ _ _ => true
  | .spawnr _ _ _ => true
  | .rtake _ _ => true
  | .launch _ _ _ => true
  | .tcbdec _ _ => true
  | .eplan _ _ => true
  | .wphase _ => true
  | .tself _ _ => true
  | .fcont _ _ _ => true
  | .uncorrectableLoadTrap => false
  | .load _ _ => false
  | .drain _ _ => false
  | .apply _ _ => false
  | .atomic _ _ => false
  | .publish _ => false
  | .engineOpStart _ _ => false
  | .engineOpComplete _ _ => false
  | .subscriptionAccept _ => false
  | .loaderPublish _ _ => false
  | .storerStore _ _ => false
  | .oqEntryArrive _ _ => false
  | .rdPacket _ _ _ => false
  | .wrPacket _ _ => false
  | .atmPacket _ _ _ => false
  | .memoryReply _ _ _ => false
  | .perBankRefresh _ _ _ => false
  | .refreshComplete _ _ _ => false
  | .patrolScrub _ _ => false
  | .lanternGateRow _ => false
  | .launchDoorbell _ _ _ => false
  | .launchAccept => false
  | .piecePlace _ => false
  | .pieceSplit _ => false
  | .gangStarve _ => false
  | .crPop _ _ => false
  | .groupLeave => false
  | .schedAgingBoost _ => false
  | .scoreboardSquash _ _ => false
  | .preemption _ _ => false
  | .preemptSave _ => false
  | .unitResume _ _ => false
  | .wphaseSpill _ => false
  | .storageEccError _ _ _ _ _ => false
  | .aaeLastingFault _ _ => false
  | .rollback _ => false
  | .flitCrcError _ => false
  | .portRetrain _ => false
  | .remoteTimeout _ _ => false
  | .fabricDeliver _ => false
  | .hostAccess _ => false
  | .thermalHalt _ => false
  | .thermalResume _ => false
  | .powerLimitThrottle _ => false
  | .bringUp _ => false
  | .firmwareSwap _ => false
  | .summary _ _ => false
  | .ctxset _ _ _ => false
  | .inval _ _ _ _ _ => false
  | .resolve _ _ _ => false
  | .preempt _ _ => false
  | .routebind _ _ _ _ => false
  | .clrsuspect _ _ => false
  | .domain _ _ _ _ => false
  | .route _ _ _ => false
  | .fwload _ _ _ => false
  | .attest _ _ _ => false
  | .wreset _ => false
  | .scrub _ _ _ => false
  | .aaefence _ _ _ => false
  | .corestat _ _ => false
  | .placementHomeApply _ => false
  | .matrixWordComplete _ _ _ => false
  | .retrainComplete _ _ => false

/-- The word of an instruction, as the sum of its fields at their places (02, R23, R25); 0 for a step that has no word. -/
def encode : Instr → Nat
  | .clauseHeader c n w a b y => word6 0x00000000 c.toNat 28 n.toNat 24 w.toNat 12 a.toNat 8 b.toNat 4 y.toNat 3
  | .rpt c d a b => word4 0xFE000000 c.toNat 19 d.toNat 15 a.toNat 11 b.toNat 7
  | .bra o => word1 0x02000000 o.toNat 0
  | .bz s o => word2 0x04000000 s.toNat 16 o.toNat 0
  | .bnz s o => word2 0x06000000 s.toNat 16 o.toNat 0
  | .bneg s o => word2 0x08000000 s.toNat 16 o.toNat 0
  | .bnneg s o => word2 0x0A000000 s.toNat 16 o.toNat 0
  | .bvz a x o => word3 0x0C000000 a.toNat 18 x.toNat 17 o.toNat 0
  | .bvnz a x o => word3 0x0E000000 a.toNat 18 x.toNat 17 o.toNat 0
  | .call o => word1 0x10000000 o.toNat 0
  | .callr s => word1 0x12000000 s.toNat 16
  | .jmpr s o => word2 0x14000000 s.toNat 16 o.toNat 0
  | .ret => word0 0x16000000
  | .exit => word0 0x18000000
  | .vpark => word0 0x1A000000
  | .yield => word0 0x1C000000
  | .trap s i => word2 0x1E000000 s.toNat 7 i.toNat 0
  | .rfe => word0 0x20000000
  | .brk => word0 0x22000000
  | .sysrd d i => word2 0x24000000 d.toNat 16 i.toNat 0
  | .syswr s i => word2 0x26000000 s.toNat 7 i.toNat 0
  | .fent p z s => word3 0x28000000 p.toNat 23 z.toNat 13 s.toNat 4
  | .fexit p s => word2 0x2A000000 p.toNat 23 s.toNat 4
  | .fdisp p s => word2 0x2C000000 p.toNat 23 s.toNat 4
  | .fpub p => word1 0x2E000000 p.toNat 23
  | .pcvrd d => word1 0x30000003 d.toNat 18
  | .pcvwr a x => word2 0x32000003 a.toNat 11 x.toNat 3
  | .trpv d a x => word3 0x34000003 d.toNat 18 a.toNat 11 x.toNat 3
  | .add d a b => word3 0x08000000 d.toNat 18 a.toNat 9 b.toNat 0
  | .sub d a b => word3 0x10000000 d.toNat 18 a.toNat 9 b.toNat 0
  | .mul d a b => word3 0x18000000 d.toNat 18 a.toNat 9 b.toNat 0
  | .mulh d a b => word3 0x20000000 d.toNat 18 a.toNat 9 b.toNat 0
  | .mulhu d a b => word3 0x28000000 d.toNat 18 a.toNat 9 b.toNat 0
  | .div d a b => word3 0x30000000 d.toNat 18 a.toNat 9 b.toNat 0
  | .divu d a b => word3 0x38000000 d.toNat 18 a.toNat 9 b.toNat 0
  | .rem d a b => word3 0x40000000 d.toNat 18 a.toNat 9 b.toNat 0
  | .remu d a b => word3 0x48000000 d.toNat 18 a.toNat 9 b.toNat 0
  | .and d a b => word3 0x50000000 d.toNat 18 a.toNat 9 b.toNat 0
  | .or d a b => word3 0x58000000 d.toNat 18 a.toNat 9 b.toNat 0
  | .xor d a b => word3 0x60000000 d.toNat 18 a.toNat 9 b.toNat 0
  | .andn d a b => word3 0x68000000 d.toNat 18 a.toNat 9 b.toNat 0
  | .shl d a b => word3 0x70000000 d.toNat 18 a.toNat 9 b.toNat 0
  | .shr d a b => word3 0x78000000 d.toNat 18 a.toNat 9 b.toNat 0
  | .sar d a b => word3 0x80000000 d.toNat 18 a.toNat 9 b.toNat 0
  | .rot d a b => word3 0x88000000 d.toNat 18 a.toNat 9 b.toNat 0
  | .min d a b => word3 0x90000000 d.toNat 18 a.toNat 9 b.toNat 0
  | .max d a b => word3 0x98000000 d.toNat 18 a.toNat 9 b.toNat 0
  | .minu d a b => word3 0xA0000000 d.toNat 18 a.toNat 9 b.toNat 0
  | .maxu d a b => word3 0xA8000000 d.toNat 18 a.toNat 9 b.toNat 0
  | .slt d a b => word3 0xB0000000 d.toNat 18 a.toNat 9 b.toNat 0
  | .sltu d a b => word3 0xB8000000 d.toNat 18 a.toNat 9 b.toNat 0
  | .seq d a b => word3 0xC0000000 d.toNat 18 a.toNat 9 b.toNat 0
  | .sel d a b => word3 0xC8000000 d.toNat 18 a.toNat 9 b.toNat 0
  | .clz d a => word2 0xD0000000 d.toNat 18 a.toNat 9
  | .ctz d a => word2 0xD8000000 d.toNat 18 a.toNat 9
  | .popc d a => word2 0xE0000000 d.toNat 18 a.toNat 9
  | .addi d a i => word3 0x08000000 d.toNat 18 a.toNat 9 i.toNat 0
  | .andi d a i => word3 0x10000000 d.toNat 18 a.toNat 9 i.toNat 0
  | .ori d a i => word3 0x18000000 d.toNat 18 a.toNat 9 i.toNat 0
  | .xori d a i => word3 0x20000000 d.toNat 18 a.toNat 9 i.toNat 0
  | .shli d a i => word3 0x28000000 d.toNat 18 a.toNat 9 i.toNat 0
  | .shri d a i => word3 0x30000000 d.toNat 18 a.toNat 9 i.toNat 0
  | .sari d a i => word3 0x38000000 d.toNat 18 a.toNat 9 i.toNat 0
  | .slti d a i => word3 0x40000000 d.toNat 18 a.toNat 9 i.toNat 0
  | .sltui d a i => word3 0x48000000 d.toNat 18 a.toNat 9 i.toNat 0
  | .seqi d a i => word3 0x50000000 d.toNat 18 a.toNat 9 i.toNat 0
  | .muli d a i => word3 0x58000000 d.toNat 18 a.toNat 9 i.toNat 0
  | .movi d i => word2 0x60000000 d.toNat 18 i.toNat 0
  | .movhi d i => word2 0x68000000 d.toNat 18 i.toNat 0
  | .ldpc d i => word2 0x70000000 d.toNat 18 i.toNat 0
  | .vadd d a b x y w => word6 0x02000000 d.toNat 18 a.toNat 11 b.toNat 4 x.toNat 3 y.toNat 2 w.toNat 0
  | .vsub d a b x y w => word6 0x04000000 d.toNat 18 a.toNat 11 b.toNat 4 x.toNat 3 y.toNat 2 w.toNat 0
  | .vaddss d a b x y w => word6 0x06000000 d.toNat 18 a.toNat 11 b.toNat 4 x.toNat 3 y.toNat 2 w.toNat 0
  | .vaddsu d a b x y w => word6 0x08000000 d.toNat 18 a.toNat 11 b.toNat 4 x.toNat 3 y.toNat 2 w.toNat 0
  | .vsubss d a b x y w => word6 0x0A000000 d.toNat 18 a.toNat 11 b.toNat 4 x.toNat 3 y.toNat 2 w.toNat 0
  | .vsubsu d a b x y w => word6 0x0C000000 d.toNat 18 a.toNat 11 b.toNat 4 x.toNat 3 y.toNat 2 w.toNat 0
  | .vmul d a b x y w => word6 0x0E000000 d.toNat 18 a.toNat 11 b.toNat 4 x.toNat 3 y.toNat 2 w.toNat 0
  | .vmulh d a b x y w => word6 0x10000000 d.toNat 18 a.toNat 11 b.toNat 4 x.toNat 3 y.toNat 2 w.toNat 0
  | .vmulhu d a b x y w => word6 0x12000000 d.toNat 18 a.toNat 11 b.toNat 4 x.toNat 3 y.toNat 2 w.toNat 0
  | .vmad d a b x y w => word6 0x14000000 d.toNat 18 a.toNat 11 b.toNat 4 x.toNat 3 y.toNat 2 w.toNat 0
  | .vmin d a b x y w => word6 0x16000000 d.toNat 18 a.toNat 11 b.toNat 4 x.toNat 3 y.toNat 2 w.toNat 0
  | .vmax d a b x y w => word6 0x18000000 d.toNat 18 a.toNat 11 b.toNat 4 x.toNat 3 y.toNat 2 w.toNat 0
  | .vminu d a b x y w => word6 0x1A000000 d.toNat 18 a.toNat 11 b.toNat 4 x.toNat 3 y.toNat 2 w.toNat 0
  | .vmaxu d a b x y w => word6 0x1C000000 d.toNat 18 a.toNat 11 b.toNat 4 x.toNat 3 y.toNat 2 w.toNat 0
  | .vand d a b x y w => word6 0x1E000000 d.toNat 18 a.toNat 11 b.toNat 4 x.toNat 3 y.toNat 2 w.toNat 0
  | .vor d a b x y w => word6 0x20000000 d.toNat 18 a.toNat 11 b.toNat 4 x.toNat 3 y.toNat 2 w.toNat 0
  | .vxor d a b x y w => word6 0x22000000 d.toNat 18 a.toNat 11 b.toNat 4 x.toNat 3 y.toNat 2 w.toNat 0
  | .vandn d a b x y w => word6 0x24000000 d.toNat 18 a.toNat 11 b.toNat 4 x.toNat 3 y.toNat 2 w.toNat 0
  | .vshl d a b x y w => word6 0x26000000 d.toNat 18 a.toNat 11 b.toNat 4 x.toNat 3 y.toNat 2 w.toNat 0
  | .vshr d a b x y w => word6 0x28000000 d.toNat 18 a.toNat 11 b.toNat 4 x.toNat 3 y.toNat 2 w.toNat 0
  | .vsar d a b x y w => word6 0x2A000000 d.toNat 18 a.toNat 11 b.toNat 4 x.toNat 3 y.toNat 2 w.toNat 0
  | .vrot d a b x y w => word6 0x2C000000 d.toNat 18 a.toNat 11 b.toNat 4 x.toNat 3 y.toNat 2 w.toNat 0
  | .vceq d a b x y w => word6 0x2E000000 d.toNat 18 a.toNat 11 b.toNat 4 x.toNat 3 y.toNat 2 w.toNat 0
  | .vclt d a b x y w => word6 0x30000000 d.toNat 18 a.toNat 11 b.toNat 4 x.toNat 3 y.toNat 2 w.toNat 0
  | .vcltu d a b x y w => word6 0x32000000 d.toNat 18 a.toNat 11 b.toNat 4 x.toNat 3 y.toNat 2 w.toNat 0
  | .vsel d a b x y w => word6 0x34000000 d.toNat 18 a.toNat 11 b.toNat 4 x.toNat 3 y.toNat 2 w.toNat 0
  | .vclz d a x w => word4 0x36000000 d.toNat 18 a.toNat 11 x.toNat 3 w.toNat 0
  | .vpopc d a x w => word4 0x38000000 d.toNat 18 a.toNat 11 x.toNat 3 w.toNat 0
  | .vabs d a x w => word4 0x3A000000 d.toNat 18 a.toNat 11 x.toNat 3 w.toNat 0
  | .vdot4 d a b x y => word5 0x3C000000 d.toNat 18 a.toNat 11 b.toNat 4 x.toNat 3 y.toNat 2
  | .vmov d a x w => word4 0x3E000000 d.toNat 18 a.toNat 11 x.toNat 3 w.toNat 0
  | .vwiden d a x w => word4 0x40000000 d.toNat 18 a.toNat 11 x.toNat 3 w.toNat 0
  | .vnarrow d a x w => word4 0x42000000 d.toNat 18 a.toNat 11 x.toNat 3 w.toNat 0
  | .vlid d w => word2 0x44000000 d.toNat 18 w.toNat 0
  | .vaddi d a i x w => word5 0x60000000 d.toNat 18 a.toNat 11 i.toNat 3 x.toNat 2 w.toNat 0
  | .vshli d a i x w => word5 0x62000000 d.toNat 18 a.toNat 11 i.toNat 3 x.toNat 2 w.toNat 0
  | .vshri d a i x w => word5 0x64000000 d.toNat 18 a.toNat 11 i.toNat 3 x.toNat 2 w.toNat 0
  | .vsari d a i x w => word5 0x66000000 d.toNat 18 a.toNat 11 i.toNat 3 x.toNat 2 w.toNat 0
  | .vandi d a i x w => word5 0x68000000 d.toNat 18 a.toNat 11 i.toNat 3 x.toNat 2 w.toNat 0
  | .vmovi d i w => word3 0x6A000000 d.toNat 18 i.toNat 3 w.toNat 0
  | .vceqi d a i x w => word5 0x6C000000 d.toNat 18 a.toNat 11 i.toNat 3 x.toNat 2 w.toNat 0
  | .vaddS d a s x w => word5 0x80000000 d.toNat 18 a.toNat 11 s.toNat 3 x.toNat 2 w.toNat 0
  | .vsubS d a s x w => word5 0x82000000 d.toNat 18 a.toNat 11 s.toNat 3 x.toNat 2 w.toNat 0
  | .vmulS d a s x w => word5 0x84000000 d.toNat 18 a.toNat 11 s.toNat 3 x.toNat 2 w.toNat 0
  | .vminS d a s x w => word5 0x86000000 d.toNat 18 a.toNat 11 s.toNat 3 x.toNat 2 w.toNat 0
  | .vmaxS d a s x w => word5 0x88000000 d.toNat 18 a.toNat 11 s.toNat 3 x.toNat 2 w.toNat 0
  | .vandS d a s x w => word5 0x8A000000 d.toNat 18 a.toNat 11 s.toNat 3 x.toNat 2 w.toNat 0
  | .vmovS d s w => word3 0x8C000000 d.toNat 18 s.toNat 3 w.toNat 0
  | .vceqS d a s x w => word5 0x8E000000 d.toNat 18 a.toNat 11 s.toNat 3 x.toNat 2 w.toNat 0
  | .vcltS d a s x w => word5 0x90000000 d.toNat 18 a.toNat 11 s.toNat 3 x.toNat 2 w.toNat 0
  | .faddF32 d a b x y h k => word7 0x02000000 d.toNat 18 a.toNat 11 b.toNat 4 x.toNat 3 y.toNat 2 h.toNat 1 k.toNat 0
  | .fsubF32 d a b x y h k => word7 0x04000000 d.toNat 18 a.toNat 11 b.toNat 4 x.toNat 3 y.toNat 2 h.toNat 1 k.toNat 0
  | .fmulF32 d a b x y h k => word7 0x06000000 d.toNat 18 a.toNat 11 b.toNat 4 x.toNat 3 y.toNat 2 h.toNat 1 k.toNat 0
  | .ffmaF32 d a b x y h k => word7 0x08000000 d.toNat 18 a.toNat 11 b.toNat 4 x.toNat 3 y.toNat 2 h.toNat 1 k.toNat 0
  | .ffmsF32 d a b x y h k => word7 0x0A000000 d.toNat 18 a.toNat 11 b.toNat 4 x.toNat 3 y.toNat 2 h.toNat 1 k.toNat 0
  | .fminF32 d a b x y h k => word7 0x0C000000 d.toNat 18 a.toNat 11 b.toNat 4 x.toNat 3 y.toNat 2 h.toNat 1 k.toNat 0
  | .fmaxF32 d a b x y h k => word7 0x0E000000 d.toNat 18 a.toNat 11 b.toNat 4 x.toNat 3 y.toNat 2 h.toNat 1 k.toNat 0
  | .fabsF32 d a x h => word4 0x10000000 d.toNat 18 a.toNat 11 x.toNat 3 h.toNat 1
  | .fnegF32 d a x h => word4 0x12000000 d.toNat 18 a.toNat 11 x.toNat 3 h.toNat 1
  | .fceqF32 d a b x y h k => word7 0x14000000 d.toNat 18 a.toNat 11 b.toNat 4 x.toNat 3 y.toNat 2 h.toNat 1 k.toNat 0
  | .fcltF32 d a b x y h k => word7 0x16000000 d.toNat 18 a.toNat 11 b.toNat 4 x.toNat 3 y.toNat 2 h.toNat 1 k.toNat 0
  | .fcleF32 d a b x y h k => word7 0x18000000 d.toNat 18 a.toNat 11 b.toNat 4 x.toNat 3 y.toNat 2 h.toNat 1 k.toNat 0
  | .faddBf16 d a b x y h k => word7 0x20000000 d.toNat 18 a.toNat 11 b.toNat 4 x.toNat 3 y.toNat 2 h.toNat 1 k.toNat 0
  | .fmulBf16 d a b x y h k => word7 0x22000000 d.toNat 18 a.toNat 11 b.toNat 4 x.toNat 3 y.toNat 2 h.toNat 1 k.toNat 0
  | .ffmaBf16 d a b x y h k => word7 0x24000000 d.toNat 18 a.toNat 11 b.toNat 4 x.toNat 3 y.toNat 2 h.toNat 1 k.toNat 0
  | .fdot2Bf16 d a b x y h k => word7 0x26000000 d.toNat 18 a.toNat 11 b.toNat 4 x.toNat 3 y.toNat 2 h.toNat 1 k.toNat 0
  | .faddF16 d a b x y h k => word7 0x28000000 d.toNat 18 a.toNat 11 b.toNat 4 x.toNat 3 y.toNat 2 h.toNat 1 k.toNat 0
  | .fmulF16 d a b x y h k => word7 0x2A000000 d.toNat 18 a.toNat 11 b.toNat 4 x.toNat 3 y.toNat 2 h.toNat 1 k.toNat 0
  | .ffmaF16 d a b x y h k => word7 0x2C000000 d.toNat 18 a.toNat 11 b.toNat 4 x.toNat 3 y.toNat 2 h.toNat 1 k.toNat 0
  | .fdot2F16 d a b x y h k => word7 0x2E000000 d.toNat 18 a.toNat 11 b.toNat 4 x.toNat 3 y.toNat 2 h.toNat 1 k.toNat 0
  | .faddF64 d a b x y h k => word7 0x30000000 d.toNat 18 a.toNat 11 b.toNat 4 x.toNat 3 y.toNat 2 h.toNat 1 k.toNat 0
  | .fmulF64 d a b x y h k => word7 0x32000000 d.toNat 18 a.toNat 11 b.toNat 4 x.toNat 3 y.toNat 2 h.toNat 1 k.toNat 0
  | .ffmaF64 d a b x y h k => word7 0x34000000 d.toNat 18 a.toNat 11 b.toNat 4 x.toNat 3 y.toNat 2 h.toNat 1 k.toNat 0
  | .fcvtF32Bf16 d a x h => word4 0x40000000 d.toNat 18 a.toNat 11 x.toNat 3 h.toNat 1
  | .fcvtBf16F32 d a x h => word4 0x42000000 d.toNat 18 a.toNat 11 x.toNat 3 h.toNat 1
  | .fcvtF32F16 d a x h => word4 0x44000000 d.toNat 18 a.toNat 11 x.toNat 3 h.toNat 1
  | .fcvtF16F32 d a x h => word4 0x46000000 d.toNat 18 a.toNat 11 x.toNat 3 h.toNat 1
  | .fcvtF32E4m3 d a x h => word4 0x48000000 d.toNat 18 a.toNat 11 x.toNat 3 h.toNat 1
  | .fcvtE4m3F32 d a x h => word4 0x4A000000 d.toNat 18 a.toNat 11 x.toNat 3 h.toNat 1
  | .fcvtF32E5m2 d a x h => word4 0x4C000000 d.toNat 18 a.toNat 11 x.toNat 3 h.toNat 1
  | .fcvtE5m2F32 d a x h => word4 0x4E000000 d.toNat 18 a.toNat 11 x.toNat 3 h.toNat 1
  | .fcvtF32I32 d a x h => word4 0x50000000 d.toNat 18 a.toNat 11 x.toNat 3 h.toNat 1
  | .fcvtI32F32 d a x h => word4 0x52000000 d.toNat 18 a.toNat 11 x.toNat 3 h.toNat 1
  | .fcvtI32F32z d a x h => word4 0x54000000 d.toNat 18 a.toNat 11 x.toNat 3 h.toNat 1
  | .fcvtF64F32 d a x h => word4 0x56000000 d.toNat 18 a.toNat 11 x.toNat 3 h.toNat 1
  | .fcvtF32F64 d a x h => word4 0x58000000 d.toNat 18 a.toNat 11 x.toNat 3 h.toNat 1
  | .xshfl d a b x y w => word6 0x02000000 d.toNat 18 a.toNat 11 b.toNat 4 x.toNat 3 y.toNat 2 w.toNat 0
  | .xswz d a i x w => word5 0x04000000 d.toNat 18 a.toNat 11 i.toNat 3 x.toNat 2 w.toNat 0
  | .xrot d a i x w => word5 0x06000000 d.toNat 18 a.toNat 11 i.toNat 3 x.toNat 2 w.toNat 0
  | .xbcast d a i x w => word5 0x08000000 d.toNat 18 a.toNat 11 i.toNat 3 x.toNat 2 w.toNat 0
  | .xredadd d a x w => word4 0x0A000000 d.toNat 18 a.toNat 11 x.toNat 3 w.toNat 0
  | .xredmin d a x w => word4 0x0C000000 d.toNat 18 a.toNat 11 x.toNat 3 w.toNat 0
  | .xredmax d a x w => word4 0x0E000000 d.toNat 18 a.toNat 11 x.toNat 3 w.toNat 0
  | .xfredaddF32 d a x => word3 0x10000002 d.toNat 18 a.toNat 11 x.toNat 3
  | .xfredmaxF32 d a x => word3 0x12000002 d.toNat 18 a.toNat 11 x.toNat 3
  | .xscan d a x w => word4 0x14000000 d.toNat 18 a.toNat 11 x.toNat 3 w.toNat 0
  | .xfscanF32 d a x => word3 0x16000002 d.toNat 18 a.toNat 11 x.toNat 3
  | .xzip d a b x y w => word6 0x18000000 d.toNat 18 a.toNat 11 b.toNat 4 x.toNat 3 y.toNat 2 w.toNat 0
  | .xunzip d a b x y w => word6 0x1A000000 d.toNat 18 a.toNat 11 b.toNat 4 x.toNat 3 y.toNat 2 w.toNat 0
  | .xgetW8 d a l u x => word5 0x20000000 d.toNat 16 a.toNat 9 l.toNat 4 u.toNat 1 x.toNat 0
  | .xgetW16 d a l u x => word5 0x22000000 d.toNat 16 a.toNat 9 l.toNat 4 u.toNat 1 x.toNat 0
  | .xgetW32 d a l u x => word5 0x24000000 d.toNat 16 a.toNat 9 l.toNat 4 u.toNat 1 x.toNat 0
  | .xgetW64 d a l u x => word5 0x26000000 d.toNat 16 a.toNat 9 l.toNat 4 u.toNat 1 x.toNat 0
  | .xputW8 d s l u => word4 0x28000000 d.toNat 18 s.toNat 9 l.toNat 4 u.toNat 1
  | .xputW16 d s l u => word4 0x2A000000 d.toNat 18 s.toNat 9 l.toNat 4 u.toNat 1
  | .xputW32 d s l u => word4 0x2C000000 d.toNat 18 s.toNat 9 l.toNat 4 u.toNat 1
  | .xputW64 d s l u => word4 0x2E000000 d.toNat 18 s.toNat 9 l.toNat 4 u.toNat 1
  | .xballot d a x => word3 0x30000000 d.toNat 16 a.toNat 9 x.toNat 0
  | .srcp d a x h => word4 0x02000000 d.toNat 18 a.toNat 11 x.toNat 3 h.toNat 1
  | .srsqrt d a x h => word4 0x04000000 d.toNat 18 a.toNat 11 x.toNat 3 h.toNat 1
  | .ssqrt d a x h => word4 0x06000000 d.toNat 18 a.toNat 11 x.toNat 3 h.toNat 1
  | .sexp2 d a x h => word4 0x08000000 d.toNat 18 a.toNat 11 x.toNat 3 h.toNat 1
  | .slog2 d a x h => word4 0x0A000000 d.toNat 18 a.toNat 11 x.toNat 3 h.toNat 1
  | .sexp d a x h => word4 0x0C000000 d.toNat 18 a.toNat 11 x.toNat 3 h.toNat 1
  | .ssinpi d a x h => word4 0x0E000000 d.toNat 18 a.toNat 11 x.toNat 3 h.toNat 1
  | .scospi d a x h => word4 0x10000000 d.toNat 18 a.toNat 11 x.toNat 3 h.toNat 1
  | .stanh d a x h => word4 0x12000000 d.toNat 18 a.toNat 11 x.toNat 3 h.toNat 1
  | .ssigm d a x h => word4 0x14000000 d.toNat 18 a.toNat 11 x.toNat 3 h.toNat 1
  | .sladd d a b x y w => word6 0x02000000 d.toNat 18 a.toNat 11 b.toNat 4 x.toNat 3 y.toNat 2 w.toNat 0
  | .slsub d a b x y w => word6 0x04000000 d.toNat 18 a.toNat 11 b.toNat 4 x.toNat 3 y.toNat 2 w.toNat 0
  | .slmul d a b x y w => word6 0x06000000 d.toNat 18 a.toNat 11 b.toNat 4 x.toNat 3 y.toNat 2 w.toNat 0
  | .sldiv d a b x y w => word6 0x08000000 d.toNat 18 a.toNat 11 b.toNat 4 x.toNat 3 y.toNat 2 w.toNat 0
  | .slrcp d a x w => word4 0x0A000000 d.toNat 18 a.toNat 11 x.toNat 3 w.toNat 0
  | .slneg d a x w => word4 0x0C000000 d.toNat 18 a.toNat 11 x.toNat 3 w.toNat 0
  | .slabs d a x w => word4 0x0E000000 d.toNat 18 a.toNat 11 x.toNat 3 w.toNat 0
  | .slexp d a x w => word4 0x10000000 d.toNat 18 a.toNat 11 x.toNat 3 w.toNat 0
  | .sllog d a x w => word4 0x12000000 d.toNat 18 a.toNat 11 x.toNat 3 w.toNat 0
  | .slmin d a b x y w => word6 0x14000000 d.toNat 18 a.toNat 11 b.toNat 4 x.toNat 3 y.toNat 2 w.toNat 0
  | .slmax d a b x y w => word6 0x16000000 d.toNat 18 a.toNat 11 b.toNat 4 x.toNat 3 y.toNat 2 w.toNat 0
  | .slceq d a b x y w => word6 0x18000000 d.toNat 18 a.toNat 11 b.toNat 4 x.toNat 3 y.toNat 2 w.toNat 0
  | .slclt d a b x y w => word6 0x1A000000 d.toNat 18 a.toNat 11 b.toNat 4 x.toNat 3 y.toNat 2 w.toNat 0
  | .slsqrt d a x w => word4 0x1C000000 d.toNat 18 a.toNat 11 x.toNat 3 w.toNat 0
  | .slcvtSlF32 d a x => word3 0x20000002 d.toNat 18 a.toNat 11 x.toNat 3
  | .slcvtF32Sl d a x => word3 0x22000002 d.toNat 18 a.toNat 11 x.toNat 3
  | .slcvtSlF64 d a x => word3 0x24000002 d.toNat 18 a.toNat 11 x.toNat 3
  | .slcvtF64Sl d a x => word3 0x26000002 d.toNat 18 a.toNat 11 x.toNat 3
  | .slcvtSl16Sl32 d a x => word3 0x28000002 d.toNat 18 a.toNat 11 x.toNat 3
  | .slcvtSl32Sl16 d a x => word3 0x2A000002 d.toNat 18 a.toNat 11 x.toNat 3
  | .sllvl d a x w => word4 0x2C000000 d.toNat 18 a.toNat 11 x.toNat 3 w.toNat 0
  | .vld d s o v f => word5 0x02000000 d.toNat 18 s.toNat 9 o.toNat 2 v.toNat 1 f.toNat 0
  | .vst d s o v f => word5 0x04000000 d.toNat 18 s.toNat 9 o.toNat 2 v.toNat 1 f.toNat 0
  | .vldu d s i f => word4 0x06000000 d.toNat 18 s.toNat 9 i.toNat 1 f.toNat 0
  | .vstu d s i f => word4 0x08000000 d.toNat 18 s.toNat 9 i.toNat 1 f.toNat 0
  | .vlds d s o v f => word5 0x0A000000 d.toNat 18 s.toNat 9 o.toNat 2 v.toNat 1 f.toNat 0
  | .vsts d s o v f => word5 0x0C000000 d.toNat 18 s.toNat 9 o.toNat 2 v.toNat 1 f.toNat 0
  | .vldsu d s i f => word4 0x0E000000 d.toNat 18 s.toNat 9 i.toNat 1 f.toNat 0
  | .vstsu d s i f => word4 0x10000000 d.toNat 18 s.toNat 9 i.toNat 1 f.toNat 0
  | .sld d s i f => word4 0x12000000 d.toNat 16 s.toNat 7 i.toNat 1 f.toNat 0
  | .sst d s i f => word4 0x14000000 d.toNat 16 s.toNat 7 i.toNat 1 f.toNat 0
  | .sldw d s i f => word4 0x16000000 d.toNat 16 s.toNat 7 i.toNat 1 f.toNat 0
  | .vpop d q f => word3 0x18000000 d.toNat 18 q.toNat 16 f.toNat 0
  | .fld p s r f => word4 0x1A000000 p.toNat 23 s.toNat 13 r.toNat 4 f.toNat 0
  | .fst p s r f => word4 0x1C000000 p.toNat 23 s.toNat 13 r.toNat 4 f.toNat 0
  | .fldb p s r f => word4 0x1E000000 p.toNat 23 s.toNat 13 r.toNat 4 f.toNat 0
  | .flda p s r f => word4 0x20000000 p.toNat 23 s.toNat 13 r.toNat 4 f.toNat 0
  | .famo p s r f => word4 0x22000000 p.toNat 23 s.toNat 13 r.toNat 4 f.toNat 0
  | .vstb d s t f => word4 0x24000000 d.toNat 18 s.toNat 9 t.toNat 3 f.toNat 0
  | .bar d b o f => word4 0x02000000 d.toNat 18 b.toNat 9 o.toNat 6 f.toNat 0
  | .barinit s b f => word3 0x04000000 s.toNat 16 b.toNat 7 f.toNat 0
  | .barsig b f => word2 0x06000000 b.toNat 7 f.toNat 0
  | .barwait b f => word2 0x08000000 b.toNat 7 f.toNat 0
  | .gbar s b f => word3 0x0A000000 s.toNat 16 b.toNat 7 f.toNat 0
  | .qpush s q f => word3 0x0C000000 s.toNat 16 q.toNat 10 f.toNat 0
  | .qpop s q f => word3 0x0E000000 s.toNat 16 q.toNat 10 f.toNat 0
  | .qtry s q f => word3 0x10000000 s.toNat 16 q.toNat 10 f.toNat 0
  | .qallow s q f => word3 0x12000000 s.toNat 16 q.toNat 10 f.toNat 0
  | .ringpub g s f => word3 0x14000000 g.toNat 12 s.toNat 3 f.toNat 0
  | .ringwait d g s f => word4 0x16000000 d.toNat 16 g.toNat 12 s.toNat 3 f.toNat 0
  | .ringadv d g s f => word4 0x18000000 d.toNat 16 g.toNat 12 s.toNat 3 f.toNat 0
  | .aadd d a c w x f => word6 0x20000000 d.toNat 18 a.toNat 11 c.toNat 6 w.toNat 5 x.toNat 4 f.toNat 0
  | .aand d a c w x f => word6 0x22000000 d.toNat 18 a.toNat 11 c.toNat 6 w.toNat 5 x.toNat 4 f.toNat 0
  | .aor d a c w x f => word6 0x24000000 d.toNat 18 a.toNat 11 c.toNat 6 w.toNat 5 x.toNat 4 f.toNat 0
  | .axor d a c w x f => word6 0x26000000 d.toNat 18 a.toNat 11 c.toNat 6 w.toNat 5 x.toNat 4 f.toNat 0
  | .amin d a c w x f => word6 0x28000000 d.toNat 18 a.toNat 11 c.toNat 6 w.toNat 5 x.toNat 4 f.toNat 0
  | .amax d a c w x f => word6 0x2A000000 d.toNat 18 a.toNat 11 c.toNat 6 w.toNat 5 x.toNat 4 f.toNat 0
  | .aswap d a c w x f => word6 0x2C000000 d.toNat 18 a.toNat 11 c.toNat 6 w.toNat 5 x.toNat 4 f.toNat 0
  | .acas d a c w x f => word6 0x2E000000 d.toNat 18 a.toNat 11 c.toNat 6 w.toNat 5 x.toNat 4 f.toNat 0
  | .redadd d a c w x f => word6 0x30000000 d.toNat 18 a.toNat 11 c.toNat 6 w.toNat 5 x.toNat 4 f.toNat 0
  | .redmin d a c w x f => word6 0x32000000 d.toNat 18 a.toNat 11 c.toNat 6 w.toNat 5 x.toNat 4 f.toNat 0
  | .redmax d a c w x f => word6 0x34000000 d.toNat 18 a.toNat 11 c.toNat 6 w.toNat 5 x.toNat 4 f.toNat 0
  | .fredadd d a c w x f => word6 0x36000000 d.toNat 18 a.toNat 11 c.toNat 6 w.toNat 5 x.toNat 4 f.toNat 0
  | .fence c k f => word3 0x40000000 c.toNat 20 k.toNat 18 f.toNat 0
  | .qfence c k q f => word4 0x42000000 c.toNat 20 k.toNat 18 q.toNat 10 f.toNat 0
  | .mbrd d m f => word3 0x44000000 d.toNat 16 m.toNat 12 f.toNat 0
  | .mbwr d m f => word3 0x46000000 d.toNat 16 m.toNat 12 f.toNat 0
  | .mbtry d m f => word3 0x48000000 d.toNat 16 m.toNat 12 f.toNat 0
  | .mma a b c h u => word5 0x02000000 a.toNat 18 b.toNat 11 c.toNat 4 h.toNat 1 u.toNat 0
  | .mmaz a b c h u => word5 0x04000000 a.toNat 18 b.toNat 11 c.toNat 4 h.toNat 1 u.toNat 0
  | .mset a => word1 0x06000000 a.toNat 18
  | .mzero s c => word2 0x08000000 s.toNat 16 c.toNat 0
  | .mpar s => word1 0x0A000000 s.toNat 16
  | .mdrain s b c => word3 0x0C000000 s.toNat 16 b.toNat 7 c.toNat 0
  | .mdrainv s c => word2 0x0E000000 s.toNat 16 c.toNat 0
  | .msoft s b c => word3 0x10000000 s.toNat 16 b.toNat 7 c.toNat 0
  | .mside s b c => word3 0x12000000 s.toNat 16 b.toNat 7 c.toNat 0
  | .macq s b c => word3 0x14000000 s.toNat 16 b.toNat 7 c.toNat 0
  | .mrel s c => word2 0x16000000 s.toNat 16 c.toNat 0
  | .mrelf s c => word2 0x18000000 s.toNat 16 c.toNat 0
  | .mred s b c => word3 0x1A000000 s.toNat 16 b.toNat 7 c.toNat 0
  | .cpy t s a => word3 0x02000000 t.toNat 16 s.toNat 7 a.toNat 0
  | .gath t s a => word3 0x04000000 t.toNat 16 s.toNat 7 a.toNat 0
  | .scat t s a => word3 0x06000000 t.toNat 16 s.toNat 7 a.toNat 0
  | .chain t s a => word3 0x08000000 t.toNat 16 s.toNat 7 a.toNat 0
  | .ringsub t s a => word3 0x0A000000 t.toNat 16 s.toNat 7 a.toNat 0
  | .unsub t s => word2 0x0C000000 t.toNat 16 s.toNat 7
  | .pull t s a => word3 0x0E000000 t.toNat 16 s.toNat 7 a.toNat 0
  | .tlook t s => word2 0x10000000 t.toNat 16 s.toNat 7
  | .tfill t s a => word3 0x12000000 t.toNat 16 s.toNat 7 a.toNat 0
  | .tevict t a => word2 0x14000000 t.toNat 16 a.toNat 0
  | .tinval t a => word2 0x16000000 t.toNat 16 a.toNat 0
  | .coll t s a => word3 0x18000000 t.toNat 16 s.toNat 7 a.toNat 0
  | .oldu t s a => word3 0x1A000000 t.toNat 16 s.toNat 7 a.toNat 0
  | .oldg t s a => word3 0x1C000000 t.toNat 16 s.toNat 7 a.toNat 0
  | .bput r k b l f => word5 0x02000000 r.toNat 18 k.toNat 11 b.toNat 2 l.toNat 1 f.toNat 0
  | .bputl r b f => word3 0x04000000 r.toNat 18 b.toNat 2 f.toNat 0
  | .bcount d s => word2 0x06000000 d.toNat 16 s.toNat 7
  | .bcounts d s a => word3 0x08000000 d.toNat 16 s.toNat 7 a.toNat 0
  | .bnew d s a => word3 0x0A000000 d.toNat 16 s.toNat 7 a.toNat 0
  | .bgrow d s a => word3 0x0C000000 d.toNat 16 s.toNat 7 a.toNat 0
  | .bfree d s => word2 0x0E000000 d.toNat 16 s.toNat 7
  | .bseal d s => word2 0x10000000 d.toNat 16 s.toNat 7
  | .biter d s a => word3 0x12000000 d.toNat 16 s.toNat 7 a.toNat 0
  | .bnext r k b f => word4 0x14000000 r.toNat 18 k.toNat 11 b.toNat 2 f.toNat 0
  | .bwrite r k b l f => word5 0x16000000 r.toNat 18 k.toNat 11 b.toNat 2 l.toNat 1 f.toNat 0
  | .bdrain d s a => word3 0x18000000 d.toNat 16 s.toNat 7 a.toNat 0
  | .spawn s b c => word3 0x02000000 s.toNat 16 b.toNat 7 c.toNat 0
  | .spawnr s b c => word3 0x04000000 s.toNat 16 b.toNat 7 c.toNat 0
  | .rtake s b => word2 0x06000000 s.toNat 16 b.toNat 7
  | .launch s b c => word3 0x08000000 s.toNat 16 b.toNat 7 c.toNat 0
  | .tcbdec s b => word2 0x0A000000 s.toNat 16 b.toNat 7
  | .eplan s b => word2 0x0C000000 s.toNat 16 b.toNat 7
  | .wphase s => word1 0x0E000000 s.toNat 16
  | .tself s b => word2 0x10000000 s.toNat 16 b.toNat 7
  | .fcont s b c => word3 0x12000000 s.toNat 16 b.toNat 7 c.toNat 0
  | .uncorrectableLoadTrap => 0
  | .load _ _ => 0
  | .drain _ _ => 0
  | .apply _ _ => 0
  | .atomic _ _ => 0
  | .publish _ => 0
  | .engineOpStart _ _ => 0
  | .engineOpComplete _ _ => 0
  | .subscriptionAccept _ => 0
  | .loaderPublish _ _ => 0
  | .storerStore _ _ => 0
  | .oqEntryArrive _ _ => 0
  | .rdPacket _ _ _ => 0
  | .wrPacket _ _ => 0
  | .atmPacket _ _ _ => 0
  | .memoryReply _ _ _ => 0
  | .perBankRefresh _ _ _ => 0
  | .refreshComplete _ _ _ => 0
  | .patrolScrub _ _ => 0
  | .lanternGateRow _ => 0
  | .launchDoorbell _ _ _ => 0
  | .launchAccept => 0
  | .piecePlace _ => 0
  | .pieceSplit _ => 0
  | .gangStarve _ => 0
  | .crPop _ _ => 0
  | .groupLeave => 0
  | .schedAgingBoost _ => 0
  | .scoreboardSquash _ _ => 0
  | .preemption _ _ => 0
  | .preemptSave _ => 0
  | .unitResume _ _ => 0
  | .wphaseSpill _ => 0
  | .storageEccError _ _ _ _ _ => 0
  | .aaeLastingFault _ _ => 0
  | .rollback _ => 0
  | .flitCrcError _ => 0
  | .portRetrain _ => 0
  | .remoteTimeout _ _ => 0
  | .fabricDeliver _ => 0
  | .hostAccess _ => 0
  | .thermalHalt _ => 0
  | .thermalResume _ => 0
  | .powerLimitThrottle _ => 0
  | .bringUp _ => 0
  | .firmwareSwap _ => 0
  | .summary _ _ => 0
  | .ctxset _ _ _ => 0
  | .inval _ _ _ _ _ => 0
  | .resolve _ _ _ => 0
  | .preempt _ _ => 0
  | .routebind _ _ _ _ => 0
  | .clrsuspect _ _ => 0
  | .domain _ _ _ _ => 0
  | .route _ _ _ => 0
  | .fwload _ _ _ => 0
  | .attest _ _ _ => 0
  | .wreset _ => 0
  | .scrub _ _ _ => 0
  | .aaefence _ _ _ => 0
  | .corestat _ _ => 0
  | .placementHomeApply _ => 0
  | .matrixWordComplete _ _ _ => 0
  | .retrainComplete _ _ => 0

/-- The four bytes of a word, lowest address first (00, R2). -/
def wordBytes (w : W32) : List Byte :=
  [w.extractLsb' 0 8, w.extractLsb' 8 8, w.extractLsb' 16 8, w.extractLsb' 24 8]

/-- Four bytes as a word, lowest address first. -/
def bytesWord : List Byte → Option W32
  | [b0, b1, b2, b3] => some (b3 ++ b2 ++ b1 ++ b0)
  | _ => none

/-- The first class, in the order of their numbers, in which the word is an instruction. -/
noncomputable def firstClass (w : W32) : Nat → Nat → Option (Nat × Instr)
  | 0, _ => none
  | fuel + 1, cls =>
    match decodeWord cls w with
    | .ok i => some (cls, i)
    | .error _ => firstClass w fuel (cls + 1)

/-- The class and the instruction that the bits of a table row stand for.  A word alone does not say its class (02,
R13): with 64 bits the first word is the header and names it; with one word the lowest class in which the word is an
instruction is taken, and a word that is an instruction of no class is read as a header. -/
noncomputable def tableWord (nbits w : Nat) : Option (Nat × Instr) :=
  if nbits ≤ 32 then
    match firstClass (BitVec.ofNat 32 w) 14 0 with
    | some r => some r
    | none =>
      match decodeHeader (BitVec.ofNat 32 w) with
      | .ok i => some (14, i)
      | .error _ => none
  else
    match decodeWord (w / 2 ^ 28 % 2 ^ 4) (BitVec.ofNat 32 (w / 2 ^ 32)) with
    | .ok i => some (w / 2 ^ 28 % 2 ^ 4, i)
    | .error _ => none

/-- The instruction read from the bits of a table row: its bytes are laid out as the hardware stores them and read back. -/
noncomputable def decodeTableWord (nbits w : Nat) : Option Instr :=
  match bytesWord (wordBytes (BitVec.ofNat 32 w)) with
  | some lo => (tableWord nbits (w / 2 ^ 32 * 2 ^ 32 + lo.toNat)).map (·.2)
  | none => none

end Sys2Proof
end

