-- ==== Sys2Proof/Config.lean ====
section
/-! DEFINITION. What an implementation fixes and the spec leaves open: free values, constants without a body. -/

namespace Sys2Proof.Config

/-- Which of the fitting places of a pool or a frame area an allocation takes (05, R92; 17, R290; log 8): any number, by
the index of the free value. -/
opaque pick : Nat → Nat

/-- Which of several values that the spec leaves open to one read it takes, old or new (02, R40; 06, R104; 15, R265; log
82): any number, by the index of the free value and what is read. -/
opaque choice : Nat → Nat → Nat

/-- Which of the values within its error bound a transcendental result takes (11, R214; log 7): any number, by the
operation and its operand. -/
opaque within : Nat → Nat → Nat

/-- A value the spec does not state, by the index of the free value (log 4). -/
opaque freeWord : Nat → BitVec 64

/-- The dword of another package that a word's own read of a descriptor, table, record or clause returns, by the index of
the free value and the address (log 15). -/
opaque remoteWord : Nat → Nat → BitVec 64

/-- Whether such a read completes as uncorrectable (21, R378; log 15). -/
opaque remoteBad : Nat → Nat → Bool

/-- Whether the driver has a save area for a unit, by the index of the free value (20, R359; log 17). -/
opaque saveRoom : Nat → Bool

/-- The compute cycles that pass in a step (00, R3; log 6). -/
opaque cycles : Nat → Nat

/-- Whether an ML-DSA-44 signature over a digest verifies under the fused vendor key of a KEYID (03, R63; 22, R383; log 12). -/
opaque verifies : BitVec 64 → BitVec 256 → List (BitVec 8) → Bool

/-- The bytes of the ML-DSA-44 signature the identity key makes over a digest, by the index of the free value (22, R384; log
12). -/
opaque signed : Nat → BitVec 256 → Nat → BitVec 8

/-- The fused minimum version, and the versions the boot ROM finds: the Keep, Lanterns 0 to 3 (22, R383, R386; log 12). -/
opaque minVersion : Nat
opaque bootVersion : Nat → Nat

/-- The digests of the images the boot ROM finds (22, R384, R386; log 12). -/
opaque bootDigest : Nat → BitVec 256

/-- Whether the boot ROM fences the AAE of a core: its self-test, or the fused repair map (07, R141; log 12). -/
opaque aaeBad : Nat → Bool

/-- The bytes of an attestation report that the package's serial and keys fix, by byte (22, R384; log 12). -/
opaque reportByte : Nat → BitVec 8

end Sys2Proof.Config
end

