-- ==== Sys2Proof/Machine/Kv.lean ====
section
/-! DEFINITION. Sparse tables in one canonical form, and the 32 lane values of a vector name. -/

namespace Sys2Proof.Machine

/-- A table by number, keys rising, no entry equal to the default (what an unlisted key reads as). -/
abbrev Kv (α : Type) := List (Nat × α)

/-- What the table holds at `k`; `d` where it lists nothing. -/
def kvGet {α : Type} (d : α) : Kv α → Nat → α
  | [], _ => d
  | (k', v) :: t, k => if k = k' then v else kvGet d t k

/-- `k` given the value `v`, in place or at its place in the order. -/
def kvInsert {α : Type} : Kv α → Nat → α → Kv α
  | [], k, v => [(k, v)]
  | (k', v') :: t, k, v =>
    if k = k' then (k, v) :: t else if k < k' then (k, v) :: (k', v') :: t else (k', v') :: kvInsert t k v

/-- The table without `k`. -/
def kvErase {α : Type} : Kv α → Nat → Kv α
  | [], _ => []
  | (k', v') :: t, k => if k = k' then kvErase t k else (k', v') :: kvErase t k

/-- `k` given the value `v`; the default removes the entry. -/
def kvPut {α : Type} [DecidableEq α] (d : α) (t : Kv α) (k : Nat) (v : α) : Kv α :=
  if v = d then kvErase t k else kvInsert t k v

/-- Keys above `lo` rise and no value is the default. -/
def kvSortedFrom {α : Type} [DecidableEq α] (d : α) : Nat → Kv α → Bool
  | _, [] => true
  | lo, (k, v) :: t => decide (lo ≤ k) && decide (v ≠ d) && kvSortedFrom d (k + 1) t

/-- The canonical form: equal tables are equal lists. -/
def kvWf {α : Type} [DecidableEq α] (d : α) (t : Kv α) : Bool := kvSortedFrom d 0 t

/-- The value of lane `l` (08, R146); 0 beyond the 32 lanes. -/
def lane (v : Lanes) (l : Nat) : W64 := v.toList.getD l 0

/-- The lane values given by a function of the lane number. -/
def tab (f : Nat → W64) : Lanes := ⟨((List.range 32).map f).toArray, by simp⟩

/-- Zero in every lane. -/
def zeroLanes : Lanes := tab fun _ => 0

/-- Lane `l` is in the mask. -/
def inMask (m : Mask) (l : Nat) : Bool := m.getLsbD l

/-- The mask of the lanes that meet a condition. -/
def maskOf (f : Nat → Bool) : Mask :=
  BitVec.ofNat 32 ((List.range 32).foldr (fun l n => 2 * n + (if f l then 1 else 0)) 0)

/-- The lanes of a mask, ascending. -/
def lanesOf (m : Mask) : List Nat := (List.range 32).filter (inMask m)

/-- `u` in the lanes of the mask, `v` in the others (08, R148). -/
def merge (m : Mask) (u v : Lanes) : Lanes := tab fun l => if inMask m l then lane u l else lane v l

/-- Element `k` of a list given the value `x`. -/
def listSet {α : Type} : List α → Nat → α → List α
  | [], _, _ => []
  | _ :: t, 0, x => x :: t
  | h :: t, k + 1, x => h :: listSet t k x

end Sys2Proof.Machine
end

