-- ==== Sys2Proof/Machine/State.lean ====
section
/-! DEFINITION. The state of the package: everything the spec gives the machine, as plain data, and its reset. -/

namespace Sys2Proof.Machine

/-- Why the machine stops.  Every fault of spec/ is a trap, taken as a next state, and no step of the model stops. -/
inductive Fault where
  | neverRaised  -- raised by no step; safe, nothing is claimed of a stop
  deriving DecidableEq, Repr

/-- Why an instruction has no meaning here. -/
inductive Refusal where
  | notModelled (mnemonic : String)  -- raised only by an arm of exec that has no meaning yet; safe
  deriving DecidableEq, Repr

/-! ## A slice of a group -/

/-- Five counters, one per agent (15, R258, R259). -/
structure Stamp where
  a0 : Nat
  a1 : Nat
  a2 : Nat
  a3 : Nat
  a4 : Nat
  deriving DecidableEq, Repr

/-- Which stream a slice runs (02, R20): a group's lanes, its access slice, the Keep's firmware or a Lantern's. -/
inductive SliceKind where
  | execute
  | access
  | keep
  | lantern (die : Nat)
  deriving DecidableEq, Repr

/-- A fetched clause (02, R11, R39): address, header, words, the index of the word that issues next (0 the header) and
EXEC (16, R272). -/
structure Clause where
  addr  : W64
  hdr   : W32
  words : List W32
  idx   : Nat
  exec  : Mask
  deriving DecidableEq, Repr

/-- The repeat in progress (02, R32, R35): issue `k` of `n`, and the three steps. -/
structure Rep where
  k : Nat
  n : Nat
  d : Int
  a : Int
  b : Int
  deriving DecidableEq, Repr

/-- The bytes an access reaches: physical memory, a slot of a memory frame that a load reads at its home (17, R297), a
scratchpad byte of a team (06, R107), a slot of a frame kept in a core's frame area (17, R291). -/
inductive Target where
  | mem (pa : Nat) (hc : Bool)
  | home (pa : Nat)
  | spad (team : Nat) (off : Nat)
  | slot (frame : Nat) (slot : Nat)
  deriving DecidableEq, Repr

/-- How far one access has come. -/
inductive AccState where
  | waiting            -- not performed; a store still in the store buffer
  | sent (w : Nat)     -- a store or atomic whose write has the number `w`
  | asked              -- a request in a fabric channel
  | done               -- performed
  | bad                -- answered with uncorrectable data
  deriving DecidableEq, Repr

/-- One access of one lane (06, R110): lane, address as the program formed it, target, bytes, data and second operand
(the new value of acas), loaded or old value, progress. -/
structure Access where
  lane : Nat
  va   : W64
  tgt  : Target
  size : Nat
  data : W64
  new  : W64
  got  : W64
  st   : AccState
  deriving DecidableEq, Repr

/-- Where a loaded value goes: a vector name in the lanes of EXEC, a scalar register, one value to every lane of EXEC, or
nowhere. -/
inductive Dest where
  | vec (d : Nat)
  | scal (d : Nat)
  | bcast (d : Nat)
  | nowhere
  deriving DecidableEq, Repr

/-- The members of the AT format (14, R252). -/
inductive AtomicOp where
  | add | and | or | xor | min | max | swap | cas | fadd
  deriving DecidableEq, Repr

/-- The bag word an outstanding bag operation belongs to (05, R84). -/
inductive BagWord where
  | put | putl | next | write | count | counts | new | grow | free | seal | iter | drain
  deriving DecidableEq, Repr

/-- What an outstanding operation is, beside its accesses. -/
inductive OpKind where
  | load (d : Dest)
  | store
  | atomic (op : AtomicOp) (w64 : Bool) (d : Dest) (agents : BitVec 5) (sys : Bool)  -- `agents` of R266; `sys`: sg4
  | fence (rel acq : Bool) (agents : BitVec 5) (sys : Bool) (queues : BitVec 8)      -- 15, R267
  | engine (q : Nat) (tok : Nat)                                                     -- an ASYNC word (07, R128)
  | opq (q : Nat) (tok : Nat)                                                        -- oldu, oldg (07, R143)
  | matrix (d n : Nat)                                                               -- an MTX word in flight that writes names d to d + n - 1 (13, R237)
  | bag (b : BagWord) (d rec key : Nat) (bag : W64) (aux : W64)                      -- at its placement home (05, R79)
  | task (d : Dest)                                                                  -- a launch word until its packet is accepted (18, R325)
  | publish (f : Nat)                                                                -- an fpub until PUBLISH of its frame (15, R264)
  | leave (f : Nat)                                                                  -- an fexit until its copy-out is written and its frame left (17, R298)
  deriving DecidableEq, Repr

/-- An outstanding operation of a slice: its number, its place in program order, its flag, the EXEC and the address of
its word, its accesses in order. -/
structure Op where
  id   : Nat
  seq  : Nat
  kind : OpKind
  flag : Option Nat
  exec : Mask
  word : W64
  acc  : List Access
  clk  : Stamp         -- the die's clock at issue (15, R260, ATOMIC); of a bag operation once its releases are complete (05, R96)
  fl   : W64           -- sticky flags raised so far, set at completion (08, R165)
  deriving DecidableEq, Repr

/-- A write of the slice that its own loads still see (15, R260): place in program order, location, bytes, data, and
the number of the stamped write, none while it stands in the store buffer. -/
structure OwnWrite where
  seq  : Nat
  op   : Nat
  x    : Nat
  mask : BitVec 8
  data : W64
  w    : Option Nat
  deriving DecidableEq, Repr

/-- Handler mode (16, R286; 20, R345, R351, R352): the cause, the recorded EXEC, the lanes reported, the handler PC, the
reported clause and word, the saved repeat and narrowed EXEC, the faulted load and the lanes of bad data, the replacements. -/
structure Handler where
  cause  : Nat
  exec   : Mask
  mask   : Mask
  pc     : W64
  clause : W64
  word   : Nat
  rep    : Option Rep
  only   : Option Mask
  load   : Option Op
  bad    : Mask
  repl   : Option Lanes
  deriving DecidableEq, Repr

/-- Why a slice is descheduled (16, R276). -/
inductive Wait where
  | mbRead (m : Nat) (sd : Nat)
  | mbWrite (m : Nat) (v : W64)
  | opQueue (q : Nat)
  | barrier (b : Nat) (arrived : Bool)
  | released (v : W64)      -- its barrier has released with this result
  | tileQueue (q : Nat)
  | ring (r : Nat)
  | gbar (b : Nat) (phase : Nat)
  | wphase
  | engine (q : Nat)
  | bag (op : Nat)
  | task (op : Nat)
  | fence (op : Nat)
  | matrix (op : Nat)     -- a redundant word until its comparisons are done (13, R238)
  | register
  | preempted
  | keep                 -- the Keep holds the slice: a translation fault waits for its answer (20, R349)
  deriving DecidableEq, Repr

/-- A slice of a group: 512 scalar registers, flags, PC, clause, repeat, handler, wait, outstanding operations. -/
structure Slice where
  kind    : SliceKind
  s       : Kv W64
  flags   : Kv Nat
  pc      : W64
  clause  : Option Clause
  rep     : Option Rep
  only    : Option Mask         -- the lanes a resumed bag word is narrowed to (16, R287; 05, R88)
  handler : Option Handler
  wait    : Option Wait
  ended   : Bool
  stopped : Bool                -- pre-emption stops it at its next clause boundary (20, R356)
  pending : List Nat            -- token registers pending (07, R126)
  nextSeq : Nat
  ops     : List Op
  own     : List OwnWrite
  held    : Option Nat          -- the flag on which the word that waits counts (19, R332)
  behind  : List (Nat × Nat × Nat)   -- writes of completed engine operations: queue, place in program order, write (15, R267)
  turn    : Nat                 -- of an access slice: the step in which the AAE issued from it last (07, R140)
  yielded : Bool                -- a clause with YLD has ended: it takes its place at the back when the next step begins (16, R277)
  after   : Bool                -- its clause is fetched again to go on after the word at its index (16, R287)
  blocked : Bool                -- asked to stop, it has come to a word that cannot issue, and rests there (20, R356)
  deriving DecidableEq, Repr

/-! ## A group -/

/-- A vector name (08, R147). -/
inductive VName where
  | unmapped
  | mapped (x : Lanes)
  | queue (depth : Nat) (entries : List Lanes)
  deriving DecidableEq, Repr

/-- A collector latch: the name it holds, and whether the register is freed when it is released (08, R157, R159).
Its value is the register's current value (R158). -/
structure Latch where
  name : Nat
  free : Bool
  deriving DecidableEq, Repr

/-- An entry of an operand queue (07, R143). -/
structure OqEntry where
  op      : Nat           -- the operation that fills it
  base    : W64           -- SDESC
  idx     : Option W64    -- VA of the index block of oldg
  ssp     : Bool
  started : Bool          -- its lanes have been checked
  arrived : Bool
  cause   : Nat           -- of a failed entry, with the address
  addr    : W64
  data    : Lanes
  told    : Bool          -- a vpop has trapped on the failed entry
  again   : Bool          -- a handler has returned since: it is loaded again
  deriving DecidableEq, Repr

/-- The A-operand latch of a core as its owning group has it (13, R236): first name, H, format word and the captured
registers. -/
structure ALatch where
  va  : Nat
  h   : Nat
  fmt : W64
  a   : List Lanes
  deriving DecidableEq, Repr

/-- What a group runs (18, R329). -/
inductive TaskKind where
  | team | spawned | continuation | tile
  deriving DecidableEq, Repr

structure Group where
  id      : Nat
  team    : Nat            -- key of the team
  gidx    : Nat
  quarter : Nat
  ctx     : Nat
  tcb     : Nat
  coupled : Bool
  v       : Kv VName
  latchA  : Option Latch
  latchB  : Option Latch
  alatch  : Option ALatch
  pcv     : Lanes
  park    : Mask
  fflg    : W64
  slflg   : W64
  latacc  : W64
  mfmt    : W64
  epi     : Option (List Byte)
  mb      : Kv (Option W64)
  oq      : Kv (List OqEntry)
  d       : Kv W64
  holds   : BitVec 4
  axd     : Kv W64
  kin     : List Nat       -- the static chain of the frame whose record it runs: other clusters' frames too (17, R302)
  base    : Nat
  grow    : Nat
  prio    : Nat
  issued  : Nat            -- when it issued last (16, R277)
  skipped : Nat
  boosted : Bool
  task    : TaskKind
  slot    : Option Nat
  since   : Nat
  exit    : Option (W64 × W64)   -- s3 and s4 when the execute slice exited (07, R145)
  gone    : Option Nat           -- it has left its quarter of this core, and operations of it go on (16, R275)
  companion : Option Slice
  deriving DecidableEq, Repr

/-- A group with the one of its slices that is meant. -/
structure Resident where
  g  : Group
  sl : Slice
  deriving DecidableEq, Repr

/-! ## Teams, clusters, frames, launches -/

/-- A named barrier (19, R333). -/
structure Barrier where
  pay   : W64
  rel   : Mask
  arr   : Mask
  sig   : Mask             -- the arrivals made by barsig, among `arr`
  phase : W32
  op    : Nat
  exp   : Nat
  cnt   : Nat
  deriving DecidableEq, Repr

/-- A tile queue (19, R339): entries in order, send allowance. -/
structure TileQueue where
  items : List W64
  allow : Nat
  poppers : List Nat       -- groups waiting to pop, first come first
  pushers : List Nat
  deriving DecidableEq, Repr

/-- A ring (07, R137, R138; 19, R341). -/
structure Ring where
  basel   : Nat
  cln     : Nat
  ncell   : Nat
  ncons   : Nat
  counter : Nat
  cursors : Kv Nat
  seqs    : Kv W64          -- sequence word of each cell
  claimed : Kv Nat          -- item of each cell claimed by the team
  storers : List Nat        -- cursors held by storers
  deriving DecidableEq, Repr

structure Team where
  tcb    : Nat
  tidx   : Nat
  core   : Nat
  cluster : Nat
  cidx   : Nat
  groups : Nat
  scrl   : Nat
  nbars  : Nat
  ntqs   : Nat
  rings  : BitVec 16
  isTask : Bool            -- a task team (18, R316)
  mem    : List Host.Cell  -- scratchpad bytes by offset in the team's lines
  tags   : Kv W64
  bars   : Kv Barrier
  tqs    : Kv TileQueue
  ringst : Kv (Option Ring)
  wph    : Mask            -- groups waiting in wphase
  left   : Nat             -- groups that have left
  ended  : Bool
  stop   : Nat             -- why the Keep pre-empts it (20, R355): 0 not, 1 gang, 2 translation fault, 3 phase, 4 host, 5 AAE
  placed : Nat             -- when it was placed last (19, R343)
  deriving DecidableEq, Repr

/-- A continuation record (18, R315). -/
structure ContRec where
  join  : W64
  frame : W64
  code  : W64
  prio  : Nat
  kind  : Nat
  deriving DecidableEq, Repr

structure Cluster where
  tcb     : Nat
  clid    : Nat
  origin  : Nat            -- package core of cluster core 0
  width   : Nat
  height  : Nat
  lo      : Nat
  hi      : Nat
  taken   : Nat
  crqs    : Kv (List ContRec)   -- by priority class
  ended   : Bool
  deriving DecidableEq, Repr

/-- Who owns a frame and has not left it (17, R289, R293). -/
inductive Owner where
  | grid (tcb : Nat)
  | cluster (k : Nat)
  | team (k : Nat)
  | group (id : Nat)
  | nobody
  deriving DecidableEq, Repr

/-- A frame (17, R289-R293); `slots` hold the values of a frame in a core's frame area, a memory frame's are in memory. -/
structure Frame where
  handle  : W64
  ctx     : Nat
  tcb     : Nat
  cluster : Nat
  core    : Nat
  size    : Nat
  slots   : Kv W64
  count   : Nat
  owner   : Owner
  link    : Option Nat
  saved   : Option (Kv W64)
  cont    : Option ContRec
  buf     : List (Nat × Nat × W64)     -- frame, slot, value, oldest first
  piece   : Option Nat                 -- GRAIN of the piece in slots 0 and 1
  grid    : Bool                       -- the piece is its cluster's (18, R309)
  join    : Option Nat
  combine : Option Nat
  born    : Option ContRec             -- the record it was made with: code and priority (18, R323)
  deriving DecidableEq, Repr

/-- States of a task control block (18, R304). -/
inductive TcbState where
  | free | waiting | ready | running | retired
  deriving DecidableEq, Repr

/-- The kernel record, as far as the machine uses it (03, R59). -/
structure Kernel where
  entry  : W64
  aentry : W64
  groups : Nat
  base   : Nat
  grow   : Nat
  scrl   : Nat
  bars   : Nat
  tqs    : Nat
  rings  : BitVec 16
  frm    : List Nat        -- FRM0..FRM3
  detached : Bool
  cores  : Bool            -- co-resident, KFLAGS bit 1
  deriving DecidableEq, Repr

/-- A translation-fault record that waits for its answer (20, R349). -/
structure XFault where
  va   : W64
  kind : Nat
  core : Nat
  deriving DecidableEq, Repr

/-- A task control block (18, R304). -/
structure Tcb where
  st      : TcbState
  ctx     : Nat
  packet  : BitVec 512
  kernel  : Kernel
  preds   : Nat
  manual  : Nat
  succs   : List Nat
  size    : Nat            -- grid size read first (R308)
  sizeRead : Bool
  pieces  : List (Nat × Nat)   -- unplaced pieces, lowest first
  tiles   : List ContRec       -- the launch's tile queue
  wdone   : Nat                -- contributions to the current phase (18, R328)
  waited  : Bool               -- the grid has issued wphase
  readyAt : Nat
  queue   : Option Nat         -- launch queue it came from
  parent  : Option Nat         -- the launch whose `launch` word sent it (18, R325)
  replays : Nat
  unprot  : Bool
  failed  : Bool
  rejected : Bool
  xfault  : Option XFault
  starved : List (Nat × Nat)   -- the pieces of it that have waited their threshold (18, R314)
  rolling : Bool               -- a containment event calls for its rollback (21, R365)
  why     : Nat × Nat × W64    -- SOURCE, core (0xFFFF none) and AUX of that event (21, R366)
  reduced : List (Nat × Int × Nat)  -- TCB, change of its count, units taken off MANUAL: what rollback takes back (21, R370)
  deriving DecidableEq, Repr

/-! ## Cores -/

/-- An accumulator row (13, R230): columns, running maximum and sum, status bits NV OF UF NX. -/
structure Row where
  c  : List W32
  m  : W32
  l  : W32
  st : BitVec 4
  deriving DecidableEq, Repr

/-- What a matrix word in flight does. -/
inductive MatOp where
  | mma (zero : Bool)
  | mzero
  | mdrainv
  | msoft
  | mside (write : Bool)
  | mrelf
  | mred
  deriving DecidableEq, Repr

/-- A matrix word in flight (13, R237): the number of its operation, its rows, the rows it names second, its vector name,
the registers captured at issue (the A operand and its metadata, or the side pairs of mside), the first byte of the B
tile and its bytes as they stood at issue and as they were written since, the format, SCALE of msoft. -/
structure MatJob where
  id    : Nat
  op    : MatOp
  row   : Nat
  n     : Nat
  row2  : Nat
  n2    : Nat
  d     : Nat
  a     : List Lanes
  tile  : Nat
  b     : List Byte
  mid   : List (Nat × Byte)
  fmt   : W64
  scale : W32
  grp   : Nat
  team  : Nat
  deriving DecidableEq, Repr

/-- An operation in an engine queue (07, R118, R120): its number, member code, descriptor and its VA, control word, the
address, VA or line of members without one, who issued it, the operations of the slice that must be complete first (AFTS);
then how far it is: started, number of elements, the element before which all are performed and those performed beyond it,
the element that waits for remote data, the op words and bound entries of `chain`, remote data that has come (none: bad),
repeated indices served (index, value), scratchpad bytes on their way (team, place, byte), its writes, remote writes not yet
acknowledged (dword, element, address), the first failure with its element and address, whether FAULTVA is written, the
result, flags, bounds to count a hit. -/
structure EngOp where
  id    : Nat
  code  : Nat
  desc  : List Byte
  dva   : W64
  ctrl  : W64
  addr  : W64
  line  : Nat
  grp   : Nat
  slice : SliceKind
  team  : Nat
  core  : Nat
  ctx   : Nat
  tcb   : Nat
  afts  : List Nat
  started : Bool
  total : Nat
  next  : Nat
  ahead : List Nat
  asks  : Option Nat
  codes : List W64
  tbs   : List (List W64)
  got   : List (Nat × Option W64)
  served : List (Nat × Nat)
  out   : List (Nat × Nat × Byte)
  writes : List Nat
  remote : List (Nat × Nat × W64)
  cause : Nat
  fail  : Nat
  fva   : W64
  told  : Bool
  value : Nat
  fflg  : W64
  hits  : List Nat
  deriving DecidableEq, Repr

structure Core where
  eq      : Kv (List EngOp)
  rows    : Kv Row
  owner   : Kv (Option Nat)     -- accumulator block, team
  inUse   : Kv Bool             -- accumulator block: written by a matrix word and not drained since (13, R239)
  drains  : List (Nat × Nat × Nat)   -- drains: operation, first row, rows (13, R239)
  alatch  : Option Nat          -- the group that has the A-operand latch (13, R236)
  mjobs   : List MatJob
  ctrs    : Kv Nat              -- matrix transient, matrix lasting, squashes, storage corrected
  suspect : Bool
  fenced  : Bool                -- its AAE (07, R141)
  toFence : Bool                -- a fence that takes effect once no coupled team is there (07, R141)
  deriving DecidableEq, Repr

/-- A pre-empted unit in its save area (20, R357): launch, order of the saves, save reason, clusters, teams, groups with
all their registers and queues; accumulator blocks (core, block, team, in-use mark), rows (core, row, value), engine
operations removed (core, queue, operation). -/
structure Saved where
  tcb      : Nat
  order    : Nat
  why      : Nat
  clusters : List (Nat × Cluster)
  teams    : List (Nat × Team)
  groups   : List Resident
  blocks   : List (Nat × Nat × Nat × Bool)
  rows     : List (Nat × Nat × Row)
  ops      : List (Nat × Nat × EngOp)
  deriving DecidableEq, Repr

/-! ## Memory -/

/-- The views M_0 to M_3 of the dies and M_4 of the Rolyr-H agent (15, R258). -/
structure Views where
  d0 : List Host.Cell
  d1 : List Host.Cell
  d2 : List Host.Cell
  d3 : List Host.Cell
  h  : List Host.Cell
  deriving DecidableEq, Repr

/-- A stamped write on its way (15, R259, R260): stamping agent, stamp, location, bytes, data, the agents that have
applied it, its place in the home order (0 before), the launch it is attributed to. -/
structure PWrite where
  id   : Nat
  by'  : Nat
  t    : Stamp
  x    : Nat
  mask : BitVec 8
  data : W64
  at'  : BitVec 5
  ord  : Nat
  tcb  : Option Nat
  deriving DecidableEq, Repr

/-- What a fabric channel carries (15, R269). -/
inductive ChanMsg where
  | write (x : Nat) (mask : BitVec 8) (data : W64) (grp op : Nat)
  | load (x : Nat) (grp op part : Nat)
  | atomic (x : Nat) (grp op : Nat)
  | mirror (x : Nat) (data : W64) (tcb : Option Nat)    -- the Keep's write to the mirror ring, for a launch that has retired or is to be accepted (22, R380)
  deriving DecidableEq, Repr

/-- A fabric channel: source die, destination package, its messages in order. -/
structure Chan where
  die : Nat
  pkg : Nat
  q   : List ChanMsg
  deriving DecidableEq, Repr

/-- A burst marked poisoned, its bytes written since, and the stamped writes that have written them at its home (04, R74). -/
structure Poison where
  burst   : Nat
  written : BitVec 256
  by'     : List Nat
  deriving DecidableEq, Repr

/-- A cached translation (06, R104, R105): core, the quarter whose cache holds it (none: the core's), context, first VA and
size of what it maps, the cause of a walk that failed then (0: it found a leaf), the leaf entry as it was, the entries of
the walk. -/
structure TlbEntry where
  core : Nat
  quarter : Option Nat
  ctx  : Nat
  va   : Nat
  size : Nat
  cause : Nat
  leaf : W64
  path : List Nat
  deriving DecidableEq, Repr

/-- A kept copy of a scope-table entry (15, R265). -/
structure ScopeCopy where
  ctx : Nat
  n   : Nat
  raw : BitVec 256
  deriving DecidableEq, Repr

/-- A line held in a Belfry's SRAM (14, R248): its base address, when it was used last, its uncorrectable words, and the
writes that have made words good again. -/
structure BelfryLine where
  die  : Nat
  line : Nat
  used : Nat
  bad  : BitVec 8      -- its dwords that are uncorrectable (R248, R255)
  healed : List (Nat × Nat)   -- dword of the line, number of the stamped write
  deriving DecidableEq, Repr

/-- A request a Cupola has performed and not yet answered (04, R66, R68): status 0 good, 1 corrected, 2 uncorrectable. -/
structure Reply where
  die    : Nat
  tag    : Nat
  status : Nat
  mask   : BitVec 8
  data   : List Byte
  deriving DecidableEq, Repr

/-- What a packet asks (04, R66); an ATM packet names the opcode of its AT member. -/
inductive Request where
  | rd | wr | atm (op : Nat)
  deriving DecidableEq, Repr

/-- A request that has arrived and waits for its bank, with what the correction code will find (04, R67, R69, R74). -/
structure Queued where
  kind : Request
  p    : Packet
  ecc  : EccOutcome
  deriving DecidableEq, Repr

/-- A Cupola (04, R66-R75). -/
structure Cupola where
  scrubEn : Bool
  pmin    : Nat
  passes  : Nat
  pos     : Nat
  ctrs    : Kv Nat                    -- corrected, transient, lasting, poisoned-burst reads
  log     : List (Nat × Nat × Bool)   -- stack offset, cycle, by scrub; newest first, at most 64
  owed    : Kv Nat                    -- by bank number pch * 32 + bank
  busy    : List Nat                  -- banks that refresh now
  forced  : List Nat                  -- pseudo-channels in a forced all-bank refresh
  active  : List Nat                  -- banks accessed in the last 2.0 us
  queue   : List Queued               -- in order of arrival
  replies : List Reply
  deriving DecidableEq, Repr

/-- A loader or a storer in a Cupola (07, R137-R139): its slot once accepted, team, ring, cursor of a storer, descriptor and
its VA, tiles published or items stored, who issued it and the operation of its word; for the item in progress its number in
the ring, the remote data that has come (none: bad), the bytes of a tile on their way to its cell; an item of a storer sent
and not yet counted; its writes, remote writes not yet acknowledged (dword, address), its failure, the address FAULTVA is to
receive. -/
structure Streamer where
  id     : Nat
  stack  : Nat
  slot   : Option Nat
  storer : Bool
  team   : Nat
  ring   : Nat
  cons   : Nat
  desc   : List Byte
  dva    : W64
  next   : Nat
  ctx    : Nat
  tcb    : Nat
  op     : Nat
  item   : Option Nat
  got    : List (Nat × Option W64)
  out    : Option (List (Nat × Nat × Byte))
  sent   : Bool
  writes : List Nat
  remote : List (Nat × W64)
  cause  : Nat
  fva    : Option W64
  deriving DecidableEq, Repr

/-! ## Bags -/

/-- An iteration (05, R83, R89, R94): its handle, context, bag (by the physical address of the descriptor), share, entry
of the placement home's table, cursor, snapshot count, and the launch that opened it. -/
structure Iter where
  handle : W64
  ctx    : Nat
  bag    : Nat
  share  : Nat
  entry  : Nat
  pos    : Nat
  last   : Nat
  tcb    : Nat
  deriving DecidableEq, Repr

/-- What a placement home keeps of a bag beside the descriptor and the counts in memory (05, R76-R79): virtual and
physical address of the descriptor, context, the rows of each share in index order (a row of one DRAM bank as its eight
256-byte columns, VA and physical address each, 04, R65), and the spans of the pool it takes. -/
structure Bag where
  va    : W64
  pa    : Nat
  ctx   : Nat
  rows  : Kv (List (List (Nat × Nat)))
  spans : List (Nat × Nat)
  deriving DecidableEq, Repr

/-! ## The package -/

structure CtxState where
  r      : CtxRec
  heads  : Kv Nat
  tails  : Kv Nat
  comps  : Kv Nat
  lastQ  : Nat                -- queue served last (22, R373)
  parents : List (Nat × Nat × Nat × Nat)   -- queue, position, parent launch, launch operation (18, R325)
  gholder : Option Nat        -- the launch that holds the grid-barrier counters (19, R342)
  garr   : Kv Nat             -- arrivals at a counter
  gphase : Kv Nat
  frmTop : List (Nat × Nat)
  tskTop : Nat
  declared : List ((W64 × W64) × Option W64)   -- bags its objects declare, with their descriptors (03, R60)
  deriving DecidableEq, Repr

structure Lantern where
  desc  : Option (Nat × Nat)     -- context, descriptor PA
  rows  : List (List W32)        -- gate queue, oldest first
  n     : Nat                    -- rows taken since the binding
  stop  : Bool
  feeds : List (Nat × List (List W32))   -- rows of drains (by operation) that have still to enter the queue (18, R318)
  owed  : Option (List Nat)      -- a row's writes, which ROUTED counts when they are complete (18, R319)
  pad   : List Host.Cell         -- its 256 KiB scratchpad (00, R1), which no rule reads or writes
  deriving DecidableEq, Repr

structure Port where
  state    : Nat                 -- down, training, up, degraded
  lanes    : Nat
  retrains : Nat
  replays  : Nat                 -- consecutive flits replayed (22, R377)
  transient : Nat                -- flits replayed, a 32-bit count that saturates (22, R377; 21, R363)
  deriving DecidableEq, Repr

/-- A management command of the ring (22, R374), by its operands; one outside the table by its OPC. -/
inductive Command where
  | summary (pa : Nat)
  | ctxset (ctx : Nat) (r : CtxRec)
  | inval (ctx : Nat) (va : BitVec 64) (len kind : Nat)
  | resolve (tcb ans : Nat)
  | preempt (tcb : Nat)
  | routebind (die ctx pa : Nat)
  | clrsuspect (core : Nat)
  | domain (own peer ring : Nat)
  | route (pkg : Nat) (ports : BitVec 64)
  | fwload (pa target : Nat)
  | attest (nonce report : Nat)
  | wreset
  | scrub (stack : Nat) (value : BitVec 64)
  | aaefence (core v : Nat)
  | corestat (pa : Nat)
  | bad (opc : Nat)
  deriving DecidableEq, Repr

/-- A response of the management channel (22, R374). -/
structure Resp where
  result : Nat
  tag    : BitVec 32
  status : Nat
  opc    : Nat
  deriving DecidableEq, Repr

/-- A copy-on-write snapshot (21, R367): launch, 64 KiB block, its bytes then, and its place in time. -/
structure Snap where
  tcb   : Nat
  block : Nat
  cells : List Host.Cell
  poison : List Poison
  time  : Nat
  deriving DecidableEq, Repr

/-- A reserved region (18, R314). -/
structure Reservation where
  die    : Nat
  tcb    : Nat
  lo     : Nat             -- of the piece that starves
  origin : Nat
  width  : Nat
  height : Nat
  deriving DecidableEq, Repr

/-- What comes next: the order of the agents' steps is the environment's (15, R260), held as plain data. -/
inductive Turn where
  | select (grp : Nat) (k : SliceKind)      -- a slice becomes the selected one
  | choose (core quarter : Nat)             -- the quarter picks a group by R277, whose next word issues
  | aae (core : Nat)                        -- the AAE takes the next ready access slice in turn (07, R140)
  | event (i : Instr)                       -- a step of an agent
  | cacheFill (core : Nat) (quarter : Option Nat) (ctx : Nat) (va : W64)   -- a translation is cached (06, R105)
  | cacheDrop (core : Nat) (quarter : Option Nat) (ctx : Nat) (va : W64)
  | scopeFill (ctx n : Nat)                 -- a scope-table entry is kept (15, R265)
  | codeKeep (tcb : Nat) (pa : Nat)         -- an instruction word is kept for a launch (02, R40)
  | hostSpan (base size : Nat)              -- the driver sets the valid offsets of host memory (06, R102)
  | spadByte (core q k : Nat)               -- a byte an engine has on its way reaches its scratchpad (02, R18)
  | tileByte (stream k : Nat)               -- the same of a loader
  | badCommand (tag : BitVec 32) (opc : Nat)  -- a management command outside the table, or with a reserved byte set (22, R374)
  | command                                 -- the Keep takes the next command that waits in the management ring (22, R374)
  | goodFlit (port : Nat)                   -- a flit of a Rolyr-S port passes its CRC (22, R377)
  | prefetch                                -- the next sequential clause of the selected slice is fetched (24, R392)
  | mirrorReplay (ctx queue pa : Nat)       -- the Keep of a spare replays a mirrored packet (22, R381)
  | issue                                   -- the selected slice's next word issues
  | pass                                    -- compute cycles pass
  deriving DecidableEq, Repr

structure State where
  cur     : Resident                 -- the selected slice and its group
  others  : List Resident
  teams   : List (Nat × Team)
  clusters : List (Nat × Cluster)
  frames  : List (Nat × Frame)
  tcbs    : List (Nat × Tcb)
  saved   : List (Nat × Saved)
  cores   : Kv Core
  views   : Views
  clk     : Kv Stamp                 -- V_e
  nst     : Kv Nat                   -- N_e
  writes  : List PWrite
  chans   : List Chan
  poison  : List Poison
  tlb     : List TlbEntry
  scopes  : List ScopeCopy
  icache  : List (Nat × Nat × W32)   -- instruction words kept: launch, physical address, word (02, R40)
  belfry  : List BelfryLine
  cups    : Kv Cupola
  streams : List Streamer
  bags    : List Bag
  iters   : List Iter
  bagUndo : List (Nat × Nat × Option Bag)   -- launch, descriptor, the bag before the launch changed it; newest first (05, R98)
  ctxs    : List (Nat × CtxState)
  lanterns : Kv Lantern
  resv    : List Reservation
  roomAt  : Kv (Option Nat)          -- core: since when it has had room, none where it has none (18, R310)
  snaps   : List Snap
  writers : List (Nat × Nat × Nat)   -- launch (4096: one that has retired), block, time: who wrote which block (21, R369)
  mgmt    : List (BitVec 256)        -- entries of the host's management queue, oldest first
  resp    : List Resp
  ring    : Nat × Nat                -- management ring head and tail
  pend    : Option (BitVec 32 × Nat × Nat)   -- a command that has not answered: TAG, OPC, launch or core
  cmds    : List (BitVec 32 × Command)       -- commands that wait in the management ring behind it, oldest first
  lastCtx : Nat                      -- context served last (22, R373)
  compl   : List (Nat × Nat × Nat)   -- completion records written: context, queue, record
  mirrored : List (BitVec 512 × Bool)  -- mirror ring: packets and completion records sent
  mirrorSent : Option (Nat × Nat × Option W64)  -- the packet sent there and not yet accepted: context, queue, a failed write's address (22, R380)
  ports   : Kv Port
  hlink   : Port
  routes  : Kv (BitVec 64)
  domain  : Nat
  hostSpan : Nat × Nat               -- first valid offset of host memory and their number (06, R102)
  mirror  : Option (Nat × Nat)
  fwver   : Kv Nat                   -- Keep 0, Lanterns 1 to 4
  fwdig   : Kv (BitVec 256)          -- digests of their images (22, R384)
  fwpend  : List (Nat × Nat × Nat × BitVec 256)   -- accepted: target, image PA, version, digest
  halted  : List Nat                 -- dies in thermal halt
  mhz     : Kv Nat                   -- compute clock of a die
  kstate  : Nat                      -- booting, running, draining, halted
  cycle   : W64
  tick    : Nat                      -- the model's own: index of the next free value
  nextId  : Nat                      -- the model's own: number of the next object
  agenda  : List Turn                -- the model's own: the order of steps to come
  deriving DecidableEq, Repr

/-! ## Defaults and reset -/

def Stamp.zero : Stamp := ⟨0, 0, 0, 0, 0⟩

/-- A cleared accumulator row (13, R239). -/
def Row.cleared : Row := ⟨List.replicate 128 0, 0xFF800000#32, 0x40000000#32, 0⟩

/-- A core on which nothing has run. -/
def Core.idle : Core :=
  { eq := [], rows := [], owner := [], inUse := [], drains := [], alatch := none, mjobs := [], ctrs := [], suspect := false, fenced := false,
    toFence := false }

/-- A barrier at team start, `exp` the team's number of groups (19, R333). -/
def Barrier.start (exp : Nat) : Barrier :=
  { pay := 0, rel := 0, arr := 0, sig := 0, phase := 0, op := 0, exp := exp, cnt := 0 }

def TileQueue.empty : TileQueue := ⟨[], 0, [], []⟩

/-- A Cupola before bring-up (04, R71, R75). -/
def Cupola.idle : Cupola :=
  { scrubEn := false, pmin := 1440, passes := 0, pos := 0, ctrs := [], log := [], owed := [], busy := [], forced := [],
    active := [], queue := [], replies := [] }

def Lantern.idle : Lantern := ⟨none, [], 0, false, [], none, []⟩

/-- A port that is down, with its four lanes (22, R375, R377). -/
def Port.down : Port := ⟨0, 0, 0, 0, 0⟩

/-- A slice that runs nothing. -/
def Slice.idle (k : SliceKind) : Slice :=
  { kind := k, s := [], flags := [], pc := ones64, clause := none, rep := none, only := none, handler := none, wait := none,
    ended := false, stopped := false, pending := [], nextSeq := 0, ops := [], own := [], held := none, behind := [], turn := 0, yielded := false, after := false, blocked := false }

/-- A group that is not resident: every lane exited (16, R271), every name unmapped (08, R147). -/
def Group.idle : Group :=
  { id := 0, team := 0, gidx := 0, quarter := 0, ctx := 0, tcb := 0, coupled := false, v := [], latchA := none,
    latchB := none, alatch := none, pcv := tab fun _ => ones64, park := 0, fflg := 0, slflg := 0, latacc := 0, mfmt := 0, epi := none,
    mb := [], oq := [], d := [], holds := 0, axd := [], kin := [], base := 96, grow := 0, prio := 0, issued := 0, skipped := 0,
    boosted := false, task := .team, slot := none, since := 0, exit := none, gone := none, companion := none }

/-- The machine right after reset: bring-up has not run (22, R386), no group is resident, no context is defined. -/
def State.reset : State :=
  { cur := ⟨Group.idle, Slice.idle .execute⟩, others := [], teams := [], clusters := [], frames := [], tcbs := [],
    saved := [], cores := [], views := ⟨[], [], [], [], []⟩, clk := [], nst := [], writes := [], chans := [],
    poison := [], tlb := [], scopes := [], icache := [], belfry := [], cups := [], streams := [], bags := [],
    iters := [], bagUndo := [], ctxs := [], lanterns := [], resv := [], roomAt := [], snaps := [], writers := [], mgmt := [], resp := [],
    ring := (0, 0), pend := none, cmds := [], lastCtx := 0, compl := [], mirrored := [], mirrorSent := none, ports := [], hlink := Port.down, routes := [], domain := 0,
    hostSpan := (0, 0), mirror := none, fwver := [], fwdig := [], fwpend := [], halted := [], mhz := [], kstate := 0, cycle := 0, tick := 0, nextId := 1,
    agenda := [] }

end Sys2Proof.Machine
end

