-- ==== Sys2Proof/Machine/Mem.lean ====
section
/-! DEFINITION. Bytes, locations, views and translation (00, 04, 06, 15). -/

namespace Sys2Proof.Machine

/-! ## Bytes -/

/-- What a byte of physical memory that nothing has written reads as: 0 (DESIGN CHOICE, log 3; unsafe). -/
def unlisted : Byte := 0

/-- One byte. -/
def readByte (m : List Host.Cell) (a : Nat) : Byte := kvGet unlisted m a

/-- One byte written; the canonical form is kept. -/
def writeByte (m : List Host.Cell) (a : Nat) (b : Byte) : List Host.Cell := kvPut unlisted m a b

/-- The canonical form of a memory: addresses strictly rising, no entry that reads as an unlisted byte. -/
def memWf (m : List Host.Cell) : Bool := kvWf unlisted m

/-- `n` bytes from `a` up. -/
def readBytes (m : List Host.Cell) (a : Nat) : Nat → List Byte
  | 0 => []
  | n + 1 => readByte m a :: readBytes m (a + 1) n

/-- Bytes written from `a` up. -/
def writeBytes (m : List Host.Cell) (a : Nat) : List Byte → List Host.Cell
  | [] => m
  | b :: t => writeBytes (writeByte m a b) (a + 1) t

/-- Bytes as a number, lowest address first (00, R2). -/
def leNat : List Byte → Nat
  | [] => 0
  | b :: t => b.toNat + 256 * leNat t

/-- A number as `n` bytes, lowest address first. -/
def leBytes : Nat → Nat → List Byte
  | 0, _ => []
  | n + 1, x => BitVec.ofNat 8 x :: leBytes n (x / 256)

/-- The eight bytes of a dword. -/
def dwordBytes (v : W64) : List Byte := leBytes 8 v.toNat

/-- The dword at `x`. -/
def readDword (m : List Host.Cell) (x : Nat) : W64 := BitVec.ofNat 64 (leNat (readBytes m x 8))

/-- The bytes of a dword that the mask covers, written (15, R261). -/
def writeMasked (m : List Host.Cell) (x : Nat) (mask : BitVec 8) (bs : List Byte) : Nat → List Host.Cell
  | 0 => m
  | n + 1 =>
    let m' := writeMasked m x mask bs n
    if mask.getLsbD n then writeByte m' (x + n) (bs.getD n 0) else m'

/-- The dword at `x` written under a byte mask. -/
def writeDword (m : List Host.Cell) (x : Nat) (mask : BitVec 8) (v : W64) : List Host.Cell :=
  writeMasked m x mask (dwordBytes v) 8

/-- `w` in the bytes of the mask, `v` in the others. -/
def overlay (mask : BitVec 8) (w v : W64) : W64 :=
  BitVec.ofNat 64 (leNat ((List.range 8).map fun n =>
    if mask.getLsbD n then (dwordBytes w).getD n 0 else (dwordBytes v).getD n 0))

/-! ## Views, clocks -/

def Views.get (v : Views) (e : Nat) : List Host.Cell :=
  if e = 0 then v.d0 else if e = 1 then v.d1 else if e = 2 then v.d2 else if e = 3 then v.d3 else v.h

def Views.set (v : Views) (e : Nat) (m : List Host.Cell) : Views :=
  if e = 0 then { v with d0 := m } else if e = 1 then { v with d1 := m } else if e = 2 then { v with d2 := m }
  else if e = 3 then { v with d3 := m } else { v with h := m }

/-- The same change at every agent at once. -/
def Views.all (v : Views) (f : List Host.Cell → List Host.Cell) : Views :=
  ⟨f v.d0, f v.d1, f v.d2, f v.d3, f v.h⟩

def Stamp.get (t : Stamp) (e : Nat) : Nat :=
  if e = 0 then t.a0 else if e = 1 then t.a1 else if e = 2 then t.a2 else if e = 3 then t.a3 else t.a4

def Stamp.set (t : Stamp) (e n : Nat) : Stamp :=
  if e = 0 then { t with a0 := n } else if e = 1 then { t with a1 := n } else if e = 2 then { t with a2 := n }
  else if e = 3 then { t with a3 := n } else { t with a4 := n }

/-- Every entry of `t` is at most that of `u` (15, R259). -/
def Stamp.le (t u : Stamp) : Bool :=
  decide (t.a0 ≤ u.a0) && decide (t.a1 ≤ u.a1) && decide (t.a2 ≤ u.a2) && decide (t.a3 ≤ u.a3) && decide (t.a4 ≤ u.a4)

/-- The clock V_e. -/
def State.clock (s : State) (e : Nat) : Stamp := kvGet Stamp.zero s.clk e

/-- The stamp counter N_e. -/
def State.stampNo (s : State) (e : Nat) : Nat := kvGet 0 s.nst e

/-! ## Physical addresses (06, R102; 04, R65) -/

def regionOf (pa : Nat) : Nat := pa / 2 ^ 40

/-- Bytes of the package's DRAM (04, R65). -/
def dramBytes : Nat := 768 * 10 ^ 9

/-- The address with the package's own number served as region 0x000 (06, R102). -/
def State.ownRegion (s : State) (pa : Nat) : Nat :=
  if regionOf pa = s.domain + 1 then pa - (s.domain + 1) * 2 ^ 40 else pa

/-- The address lies in a region and at an offset that exist; the driver sets those of host memory (06, R102; log 82). -/
def State.paValid (s : State) (pa : Nat) : Bool :=
  if regionOf pa = 0xFFF then
    decide (s.hostSpan.1 ≤ pa % 2 ^ 40) && decide (pa % 2 ^ 40 < s.hostSpan.1 + s.hostSpan.2)
  else decide (regionOf pa ≤ 0x900) && decide (pa % 2 ^ 40 < dramBytes)

/-- The stack of an address of this package's DRAM. -/
def stackOf (pa : Nat) : Nat := pa / 4096 % 12

/-- The agent that is home of an address here: a die, 4 for host memory; none for another package (06, R102). -/
def homeOf (pa : Nat) : Option Nat :=
  if regionOf pa = 0 then some (stackOf pa / 3) else if regionOf pa = 0xFFF then some 4 else none

/-- The destination package of a remote address. -/
def pkgOf (pa : Nat) : Nat := regionOf pa - 1

/-- Stack offset of an address (04, R65). -/
def stackOff (pa : Nat) : Nat := pa / 4096 / 12 * 4096 + pa % 4096

/-- The address at an offset of a stack (04, R65). -/
def paOfStack (stack o : Nat) : Nat := (o / 4096 * 12 + stack) * 4096 + o % 4096

/-- The bank, pseudo-channel times 32 plus bank, of an address within its stack (04, R65). -/
def bankOf (pa : Nat) : Nat := stackOff pa / 256 % 32 * 32 + stackOff pa / 256 / 32 % 32

/-- The burst that holds an address. -/
def burstOf (pa : Nat) : Nat := pa / 256 * 256

/-- The Belfry line that holds an address (14, R248). -/
def State.heldLine (s : State) (pa : Nat) : Option BelfryLine := s.belfry.find? fun b => b.line == pa / 64 * 64

/-- Write `w` has been applied at agent `e`, at its home where it has its place in the home order; a write that has left the
list has been applied at every agent. -/
def State.appliedAt (s : State) (w e : Nat) : Bool :=
  match s.writes.find? fun p => p.id == w with
  | some p => p.at'.getLsbD e || (p.ord != 0 && homeOf p.x == some e)
  | none => true

/-- The burst of `pa` is poisoned in DRAM, as agent `e` has it: a read that comes before one of the writes that make its 256
bytes good, at the agent as at the home, still finds it so (04, R74). -/
def State.burstBad (s : State) (e pa : Nat) : Bool :=
  s.poison.any fun p => p.burst == burstOf pa && (p.written != BitVec.allOnes 256 || p.by'.any fun w => !s.appliedAt w e)

/-- The data at `pa` that agent `e` reads are uncorrectable: in the SRAM, where the line is held there and served from it
(14, R248), else in a poisoned burst (04, R74). -/
def State.poisonedAt (s : State) (e pa : Nat) : Bool :=
  match s.heldLine pa with
  | some b => b.bad.getLsbD (pa % 64 / 8) || b.healed.any fun h => h.1 == pa % 64 / 8 && !s.appliedAt h.2 e
  | none => s.burstBad e pa

/-- The same at the home of `pa`. -/
def State.poisoned (s : State) (pa : Nat) : Bool := s.poisonedAt ((homeOf pa).getD 0) pa

/-- A whole dword of a held line written is good again, by write `w` where a stamped one did. -/
def mendLine (l : List BelfryLine) (x : Nat) (mask : BitVec 8) (w : Option Nat) : List BelfryLine :=
  if mask ≠ BitVec.allOnes 8 then l
  else l.map fun b =>
    if b.line = x / 64 * 64 ∧ b.bad.getLsbD (x % 64 / 8) then
      { b with bad := b.bad &&& ~~~(BitVec.ofNat 8 (2 ^ (x % 64 / 8))), healed := b.healed ++ w.toList.map fun w => (x % 64 / 8, w) }
    else b

/-- Bytes `a` to `a + n - 1` of a burst marked written, by write `w` where a stamped one did; the poison goes when all 256
are (04, R74). -/
def poisonWrite (l : List Poison) (pa n : Nat) (w : Option Nat) : List Poison :=
  (l.map fun p =>
    if p.burst = burstOf pa ∧ p.written ≠ BitVec.allOnes 256 then
      { p with written := p.written ||| BitVec.ofNat 256 ((2 ^ n - 1) * 2 ^ (pa % 256)), by' := p.by' ++ w.toList.filter fun w => !p.by'.contains w }
    else p).filter fun p => p.written != BitVec.allOnes 256 || p.by' != []

/-- The bytes of a dword that a mask covers, marked written. -/
def poisonMask (l : List Poison) (x : Nat) (mask : BitVec 8) (w : Option Nat) : List Poison :=
  (List.range 8).foldl (fun l n => if mask.getLsbD n then poisonWrite l (x + n) 1 w else l) l

/-- The route to another package is down (22, R378). -/
def State.routeDown (s : State) (pkg : Nat) : Bool := kvGet 0 s.routes pkg == 0

/-- A read of `pa` by agent `e` finds uncorrectable data: a poisoned burst, or a remote read that completes so (21, R378;
log 15). -/
def State.unreadableAt (s : State) (e pa : Nat) : Bool :=
  s.poisonedAt e pa || ((homeOf pa).isNone && (s.routeDown (pkgOf pa) || Config.remoteBad s.tick (pa / 8 * 8)))

/-- The same of a read at the home. -/
def State.unreadable (s : State) (pa : Nat) : Bool := s.unreadableAt ((homeOf pa).getD 0) pa

/-- A dword as agent `e` sees it; of another package a free value (log 15). -/
def State.seen (s : State) (e x : Nat) : W64 :=
  if (homeOf x).isNone then Config.remoteWord s.tick x else readDword (s.views.get e) x

/-- A table's value at the home agent. -/
def State.homeDword (s : State) (pa : Nat) : W64 := s.seen ((homeOf pa).getD 0) pa

/-! ## Lists of numbered records -/

def alFind {α : Type} : List (Nat × α) → Nat → Option α
  | [], _ => none
  | (k', v) :: t, k => if k = k' then some v else alFind t k

/-- The record `k` changed where it exists. -/
def alMod {α : Type} (l : List (Nat × α)) (k : Nat) (f : α → α) : List (Nat × α) :=
  l.map fun p => if p.1 = k then (p.1, f p.2) else p

/-! ## Who issues -/

def State.team? (s : State) : Option Team := alFind s.teams s.cur.g.team

/-- The package core of the selected slice; 0 for a stream of the Keep. -/
def State.coreNo (s : State) : Nat :=
  match s.cur.sl.kind with
  | .keep => 0
  | .lantern d => d * 48
  | _ => match s.team? with
    | some t => t.core
    | none => s.cur.g.gone.getD 0

/-- The die of the selected slice. -/
def State.die (s : State) : Nat := s.coreNo / 48

def State.ctx? (s : State) : Option CtxState := alFind s.ctxs s.cur.g.ctx

/-! ## Translation (06, R99-R105) -/

/-- What an access does to its page (06, R103). -/
inductive Need where
  | read | write | both | fetch
  deriving DecidableEq, Repr

/-- A translation: physical address, HC and POOL bits of the leaf, the entries the walk passed (the leaf last). -/
structure Trans where
  pa   : Nat
  hc   : Bool
  pool : Bool
  path : List Nat
  deriving DecidableEq, Repr

/-- The levels: lowest VA bit of the index, entries, a leaf may stand here, a leaf must (06, R100). -/
def walkLevels : List (Nat × Nat × Bool × Bool) :=
  [(48, 256, false, false), (39, 512, false, false), (30, 512, true, false), (21, 512, true, false), (16, 32, true, true)]

/-- The entry's reserved bits are zero (06, R101). -/
def entryOk (e : W64) : Bool := e.toNat / 2 ^ 52 == 0 && e.toNat / 2 ^ 9 % 8 == 0

/-- PFN as an address. -/
def entryPfn (e : W64) : Nat := e.toNat / 2 ^ 12 % 2 ^ 40 * 2 ^ 12

/-- A context's table base: a table address carries bits [51:12] only (06, R100). -/
def tableBase (n : Nat) : Nat := n / 2 ^ 12 % 2 ^ 40 * 2 ^ 12

/-- The walk from a table at `base`: the leaf, its page size as a power of two, the entries passed, or the cause. -/
def State.walk (s : State) (va : Nat) : List (Nat × Nat × Bool × Bool) → Nat → List Nat → Except Nat (W64 × Nat × List Nat)
  | [], _, _ => .error 0x07
  | (sh, cnt, may, must) :: rest, base, path =>
    let pa := s.ownRegion base + 8 * (va / 2 ^ sh % cnt)
    if !s.paValid pa then .error 0x08
    else if s.unreadable pa then .error 0x0A
    else
      let e := s.homeDword pa
      if !e.getLsbD 0 || !entryOk e then .error 0x07
      else if e.getLsbD 1 then
        if !may || entryPfn e % 2 ^ sh != 0 then .error 0x07 else .ok (e, sh, path ++ [pa])
      else if must then .error 0x07
      else s.walk va rest (entryPfn e) (path ++ [pa])

/-- The permission of a leaf for an access; `poolOk` for the placement homes, which alone write POOL pages (05, R76). -/
def permOk (e : W64) (n : Need) (poolOk : Bool) : Bool :=
  match n with
  | .read => e.getLsbD 2
  | .write => e.getLsbD 3 && (poolOk || !e.getLsbD 6)
  | .both => e.getLsbD 2 && e.getLsbD 3 && (poolOk || !e.getLsbD 6)
  | .fetch => e.getLsbD 4

def Need.writes : Need → Bool
  | .write => true
  | .both => true
  | _ => false

/-- The entry is in the core's cache or the quarter's, and maps the address (06, R105). -/
def TlbEntry.holds (t : TlbEntry) (core : Nat) (q : Option Nat) (ctx va : Nat) : Bool :=
  t.core == core && (t.quarter.isNone || t.quarter == q) && t.ctx == ctx && decide (t.va ≤ va) && decide (va < t.va + t.size)

/-- The walk that an entry stands for: the cause of a failed one; else leaf, size, and the entries whose A and D the access
sets still: none where the leaf has A, and D for a write (06, R101, R104). -/
def TlbEntry.result (t : TlbEntry) (n : Need) : Except Nat (W64 × Nat × List Nat) :=
  if t.cause ≠ 0 then .error t.cause
  else .ok (t.leaf, t.size.log2, if t.leaf.getLsbD 7 && (t.leaf.getLsbD 8 || !n.writes) then [] else t.path)

/-- The cached entry by which an address is translated, none for a walk: which of the entries held, or the table's, is free
for each translation until an invalidation (06, R104; log 82); lanes that share a page share it (R105). -/
def State.cached (s : State) (core : Nat) (q : Option Nat) (ctx va : Nat) : Option TlbEntry :=
  let l := s.tlb.filter fun t => t.holds core q ctx va
  match l with
  | [] => none
  | t :: _ => l[Config.choice s.tick t.va % (l.length + 1)]?

/-- The physical address of a VA in a context, or the cause of R103 (or 0x0A for an unreadable table entry, 20, R354). -/
def State.translateAs (s : State) (core : Nat) (q : Option Nat) (ctx : Nat) (va : W64) (n : Need) (poolOk : Bool) :
    Except Nat Trans :=
  if va.toNat / 2 ^ 56 ≠ 0 then .error 0x07
  else
    match alFind s.ctxs ctx with
    | none => .error 0x07
    | some c =>
      let r : Except Nat (W64 × Nat × List Nat) := match s.cached core q ctx va.toNat with
        | some t => t.result n
        | none => s.walk va.toNat walkLevels (tableBase c.r.table) []
      match r with
      | .error e => .error e
      | .ok (e, sh, path) =>
        let pa := s.ownRegion (entryPfn e + va.toNat % 2 ^ sh)
        if !permOk e n poolOk || !s.paValid pa then .error 0x08
        else .ok ⟨pa, e.getLsbD 5, e.getLsbD 6, path⟩

/-- The translation of a core's engine or of the Keep: no quarter's cache is asked. -/
def State.translateIn (s : State) (core ctx : Nat) (va : W64) (n : Need) (poolOk : Bool) : Except Nat Trans :=
  s.translateAs core none ctx va n poolOk

/-- The quarter whose translation cache the selected slice asks; a quarter runs execute slices. -/
def State.quarter? (s : State) : Option Nat := if s.cur.sl.kind = .execute then some s.cur.g.quarter else none

/-- The translation of the selected slice's access. -/
def State.translate (s : State) (va : W64) (n : Need) : Except Nat Trans :=
  s.translateAs s.coreNo s.quarter? s.cur.g.ctx va n false

/-- One byte at every agent's view: the walker's update of an entry is one atomic step (06, R103; log 10). -/
def setBitAll (v : Views) (pa : Nat) (bit : Byte) : Views :=
  v.all fun m => writeByte m pa (readByte m pa ||| bit)

/-- A in every entry passed, D in the leaf of a write (06, R101). -/
def State.markWalk (s : State) (path : List Nat) (n : Need) : State :=
  let v := path.foldl (fun v pa => setBitAll v pa 0x80) s.views
  let v := match path.getLast? with
    | some pa => if n.writes then setBitAll v (pa + 1) 0x01 else v
    | none => v
  { s with views := v }

/-- The walks of several accesses marked, in order. -/
def State.markAll (s : State) (l : List (List Nat)) (n : Need) : State := l.foldl (fun s p => s.markWalk p n) s

/-! ## Reads by the machinery itself -/

/-- A location as a slice reads it (15, R260, R261): each byte from the youngest of the slice's own writes before `seq`
that are still visible to it and cover that byte, otherwise from the view `v`. -/
def ownOver (own : List OwnWrite) (seq x : Nat) (v : W64) : W64 :=
  own.foldl (fun v w => if w.x = x ∧ w.seq < seq then overlay w.mask w.data v else v) v

/-- The own writes before `seq` that a load still sees cover every byte of an access. -/
def ownCovers (own : List OwnWrite) (seq x : Nat) (mask : BitVec 8) : Bool :=
  (own.foldl (fun m w => if w.x = x ∧ w.seq < seq then m ||| w.mask else m) 0) &&& mask == mask

/-- The burst of `pa` is good again for a reader whose own writes have a part in it (04, R74): its 256 bytes have been
written at home, and each of those writes is applied at agent `e` or is the reader's own, before `seq`, and visible to it. -/
def State.ownMends (s : State) (e : Nat) (own : List OwnWrite) (seq pa : Nat) : Bool :=
  (homeOf pa).isSome && (s.heldLine pa).isNone && s.poison.all fun p => p.burst != burstOf pa ||
    (p.written == BitVec.allOnes 256 && p.by'.all fun w => s.appliedAt w e || own.any fun o => o.w == some w && decide (o.seq < seq))

/-- The reader's own writes make uncorrectable data at `pa` readable: they cover the access, or make its burst good. -/
def State.ownGives (s : State) (e : Nat) (own : List OwnWrite) (seq pa : Nat) (mask : BitVec 8) : Bool :=
  ownCovers own seq (pa / 8 * 8) mask || s.ownMends e own seq pa

/-- A write of the slice at its place in program order. -/
def enterOwn (l : List OwnWrite) (w : OwnWrite) : List OwnWrite :=
  (l.filter fun v => decide (v.seq ≤ w.seq)) ++ w :: l.filter fun v => decide (w.seq < v.seq)

/-- The slice's own writes that its loads on die `d` still see (15, R260). -/
def State.visible (s : State) (d : Nat) (own : List OwnWrite) : List OwnWrite :=
  own.filter fun o => match o.w with
    | some w => !s.appliedAt w d
    | none => true

/-- A load's or a fetching atomic's access has its value, good or bad. -/
def AccState.performed : AccState → Bool
  | .done => true
  | .bad => true
  | .sent _ => true
  | _ => false

/-- The location of a memory access. -/
def Access.loc (a : Access) : Option Nat :=
  match a.tgt with
  | .mem pa _ => some (pa / 8 * 8)
  | .home pa => some (pa / 8 * 8)
  | _ => none

/-- Every earlier acquire of the slice has completed (15, R260, LOAD). -/
def Slice.acquired (x : Slice) (seq : Nat) : Bool :=
  x.ops.all fun o => !(decide (o.seq < seq)) || match o.kind with
    | .fence _ acq _ _ _ => !acq
    | _ => true

/-- Every earlier load and atomic of the slice to location `loc` has been performed (15, R260, LOAD); an `oldu` or `oldg` that
has not started may name it. -/
def Slice.earlierAt (x : Slice) (seq loc : Nat) : Bool :=
  x.ops.all fun o => !(decide (o.seq < seq)) || match o.kind with
    | .load _ => o.acc.all fun a => a.loc != some loc || a.st.performed
    | .opq _ _ => o.acc != [] && o.acc.all fun a => a.loc != some loc || a.st.performed
    | .atomic _ _ _ _ _ => o.acc.all fun a => a.loc != some loc || a.st.performed
    | _ => true

/-- A dword at a VA as the selected slice's die sees it at a place in its program order: value and address, or a cause
(uncorrectable data 0x0A). -/
def State.lookVa (s : State) (seq : Nat) (va : W64) : Except Nat (W64 × Trans) :=
  match s.translate va .read with
  | .error e => .error e
  | .ok t =>
    let own := s.visible s.die s.cur.sl.own
    if s.unreadableAt s.die t.pa && !s.ownGives s.die own seq t.pa (BitVec.allOnes 8) then .error 0x0A
    else .ok (ownOver own seq (t.pa / 8 * 8) (s.seen s.die (t.pa / 8 * 8)), t)

/-- The cause that stands for a read a word may not perform yet: no trap has it. -/
def notYet : Nat := 0

/-- A read of a dword by the word at a place in program order, by the rules of LOAD: it waits (`notYet`) for the slice's
earlier acquires, and its earlier loads and atomics of the location (15, R257, R260). -/
def State.readVa (s : State) (seq : Nat) (va : W64) : Except Nat (W64 × Trans) :=
  match s.lookVa seq va with
  | .error e => .error e
  | .ok (v, t) =>
    if s.cur.sl.acquired seq && s.cur.sl.earlierAt seq (t.pa / 8 * 8) then .ok (v, t) else .error notYet

/-- `n` dwords from a VA up at a place in program order, with the walks passed; at the first failure its cause and
address. -/
def State.readVasAt (s : State) (seq : Nat) (va : W64) : Nat → Except (Nat × W64) (List W64 × List (List Nat))
  | 0 => .ok ([], [])
  | n + 1 =>
    match s.readVa seq va with
    | .error e => .error (e, va)
    | .ok (v, t) =>
      match s.readVasAt seq (va + 8) n with
      | .error e => .error e
      | .ok (vs, ps) => .ok (v :: vs, t.path :: ps)

/-- The word that stands to issue reads `n` dwords. -/
def State.readVas (s : State) (va : W64) (n : Nat) : Except (Nat × W64) (List W64 × List (List Nat)) :=
  s.readVasAt s.cur.sl.nextSeq va n

end Sys2Proof.Machine
end

