-- ==== Sys2Proof/Machine/Keep.lean ====
section
/-! DEFINITION. What the Keep and the frames' home cores do in one step: stamps, records, retirement of frames and
launches, and the stop of a launch (15, 17, 18, 20, 21). -/

namespace Sys2Proof.Machine

/-! ## Cores (01, R5) -/

def State.core (s : State) (n : Nat) : Core := kvGet Core.idle s.cores n

def State.modCore (s : State) (n : Nat) (f : Core → Core) : State :=
  { s with cores := kvPut Core.idle s.cores n (f (s.core n)) }

/-! ## Stamped writes (15, R259, R260) -/

/-- A write stamped by agent `d`, applied nowhere yet. -/
def State.stampWrite (s : State) (d x : Nat) (mask : BitVec 8) (v : W64) (tcb : Option Nat) : State :=
  { s with
    nst := kvPut 0 s.nst d (s.stampNo d + 1)
    writes := s.writes ++ [{ id := s.nextId, by' := d, t := (s.clock d).set d (s.stampNo d + 1), x := x, mask := mask,
                             data := v, at' := 0, ord := 0, tcb := tcb }]
    nextId := s.nextId + 1 }

/-- The home has applied every write it has stamped: the condition under which it stamps and applies one at once. -/
def State.homeReady (s : State) (h : Nat) : Bool := (s.clock h).get h == s.stampNo h

/-- A write the home stamps and applies at once (15, R260, ATOMIC; R269). -/
def State.stampApply (s : State) (h x : Nat) (mask : BitVec 8) (v : W64) (tcb : Option Nat) : State :=
  { s with
    nst := kvPut 0 s.nst h (s.stampNo h + 1)
    clk := kvPut Stamp.zero s.clk h ((s.clock h).set h (s.stampNo h + 1))
    views := s.views.set h (writeDword (s.views.get h) x mask v)
    poison := poisonMask s.poison x mask (some s.nextId)
    belfry := mendLine s.belfry x mask (some s.nextId)
    writes := s.writes ++ [{ id := s.nextId, by' := h, t := (s.clock h).set h (s.stampNo h + 1), x := x, mask := mask,
                             data := v, at' := BitVec.ofNat 5 (2 ^ h), ord := s.nextId, tcb := tcb }]
    nextId := s.nextId + 1 }

/-- A write of the machinery that its home performs at once, in the home order (15, R260, R264): the home stamps and applies
it.  Where the home has still to apply what it stamped before, the write takes its place in the home order now, and the
home's clock follows with APPLY. -/
def State.homePut (s : State) (h x : Nat) (mask : BitVec 8) (v : W64) (tcb : Option Nat) : State :=
  if s.homeReady h then s.stampApply h x mask v tcb
  else
    { s with
      nst := kvPut 0 s.nst h (s.stampNo h + 1)
      views := s.views.set h (writeDword (s.views.get h) x mask v)
      poison := poisonMask s.poison x mask (some s.nextId)
      belfry := mendLine s.belfry x mask (some s.nextId)
      writes := s.writes ++ [{ id := s.nextId, by' := h, t := (s.clock h).set h (s.stampNo h + 1), x := x, mask := mask,
                               data := v, at' := 0, ord := s.nextId, tcb := tcb }]
      nextId := s.nextId + 1 }

/-- Bytes the Keep or the driver's side writes to physical memory, seen by every agent at once (log 11); bytes of a
poisoned burst count as written (04, R74). -/
def State.keepWrite (s : State) (pa : Nat) (bs : List Byte) : State :=
  { s with views := s.views.all fun m => writeBytes m pa bs
           poison := (List.range bs.length).foldl (fun l n => poisonWrite l (pa + n) 1 none) s.poison }

/-! ## The Cupolas' counters (04, R75) -/

/-- One of the four saturating counters (R75): corrected, transient, lasting, poisoned-burst reads. -/
def Cupola.count (c : Cupola) (k : Nat) : Cupola :=
  { c with ctrs := kvPut 0 c.ctrs k (if kvGet 0 c.ctrs k < 2 ^ 32 - 1 then kvGet 0 c.ctrs k + 1 else 2 ^ 32 - 1) }

/-- The Cupola of a stack. -/
def State.cup (s : State) (k : Nat) : Cupola := kvGet Cupola.idle s.cups k

def State.modCup (s : State) (k : Nat) (f : Cupola → Cupola) : State := { s with cups := kvPut Cupola.idle s.cups k (f (s.cup k)) }

/-- The bank is active (04, R69). -/
def Cupola.touch (c : Cupola) (b : Nat) : Cupola := if c.active.contains b then c else { c with active := c.active ++ [b] }

/-- Requests of a die outstanding at a stack: each holds a tag (04, R66). -/
def Cupola.tagsUsed (c : Cupola) (die : Nat) : Nat :=
  (c.queue.filter fun q => q.p.die == die).length + (c.replies.filter fun r => r.die == die).length

/-- A request of a die for `pa` may go to its stack and be performed there now: a tag is free (04, R66) and the bank does not
refresh (R69). -/
def State.dramReady (s : State) (die pa : Nat) : Bool :=
  regionOf pa != 0 || (decide ((s.cup (stackOf pa)).tagsUsed die < 1024) && !(s.cup (stackOf pa)).busy.contains (bankOf pa))

/-- An access of the bank of `pa` (04, R69). -/
def State.touchBank (s : State) (pa : Nat) : State :=
  if regionOf pa = 0 then s.modCup (stackOf pa) (·.touch (bankOf pa)) else s

/-- A load of `pa` misses in its die's L2, so that it is a request to the Cupola (04, R66): the spec gives no rule for what
the L2 holds, and each access is either (log 58). -/
def State.missesL2 (s : State) (pa : Nat) : Bool := Config.choice s.tick (pa / 64) % 2 == 1

/-- A read by agent `e` has met the poisoned burst of `pa` at its stack. -/
def State.poisonReadAt (s : State) (e pa : Nat) : State :=
  if regionOf pa = 0 ∧ (s.heldLine pa).isNone ∧ s.poisonedAt e pa then s.modCup (stackOf pa) (·.count 3) else s

/-- The same of a read at the home. -/
def State.poisonRead (s : State) (pa : Nat) : State := s.poisonReadAt ((homeOf pa).getD 0) pa

/-- The table entry at which a walk meets uncorrectable data. -/
def State.walkBad (s : State) (va : Nat) : List (Nat × Nat × Bool × Bool) → Nat → Option Nat
  | [], _ => none
  | (sh, cnt, _, _) :: rest, base =>
    let pa := s.ownRegion base + 8 * (va / 2 ^ sh % cnt)
    if !s.paValid pa then none
    else if s.unreadable pa then some pa
    else
      let e := s.homeDword pa
      if !e.getLsbD 0 || !entryOk e || e.getLsbD 1 then none else s.walkBad va rest (entryPfn e)

/-- The physical address that a read of a VA for a core reaches: the datum's, or that of the table entry its walk cannot
read; none where the translation fails otherwise. -/
def State.readPa (s : State) (core : Nat) (q : Option Nat) (ctx : Nat) (va : W64) (n : Need) : Option Nat :=
  match s.translateAs core q ctx va n true with
  | .ok t => some t.pa
  | .error _ => match alFind s.ctxs ctx with
    | some c => s.walkBad va.toNat walkLevels (tableBase c.r.table)
    | none => none

/-- A read of a VA by agent `e` for a core has met uncorrectable data: the Cupola of the poisoned burst counts it (R75). -/
def State.countBad (s : State) (e core : Nat) (q : Option Nat) (ctx : Nat) (va : W64) (n : Need) : State :=
  match s.readPa core q ctx va n with
  | some pa => s.poisonReadAt e pa
  | none => s

/-! ## Records of the management queue (21, R366, R398) -/

def coreField (c : Option Nat) : Nat := c.getD 0xFFFF

/-- An event record. -/
def eventRecord (aux cycle : W64) (core tcb : Option Nat) (ctx : Option Nat) (action cls source : Nat) : BitVec 256 :=
  BitVec.ofNat 256 (aux.toNat * 2 ^ 192 + cycle.toNat * 2 ^ 128 + coreField core * 2 ^ 112 + coreField tcb * 2 ^ 96
    + ctx.getD 0xFFFF_FFFF * 2 ^ 64 + action * 2 ^ 48 + cls * 2 ^ 40 + source * 2 ^ 32)

def State.post (s : State) (l : List (BitVec 256)) : State := { s with mgmt := s.mgmt ++ l }

/-- An event of a launch logged. -/
def State.logEvent (s : State) (aux : W64) (core tcb : Option Nat) (action cls source : Nat) : State :=
  let ctx := match tcb with
    | some t => (alFind s.tcbs t).map (·.ctx)
    | none => none
  s.post [eventRecord aux s.cycle core tcb ctx action cls source]

/-! ## Snapshots (21, R367, R368) -/

def blockOf (pa : Nat) : Nat := pa / 65536 * 65536

/-- The cells of `n` bytes from `b` up. -/
def cellsIn (m : List Host.Cell) (b n : Nat) : List Host.Cell :=
  m.filter fun c => decide (b ≤ c.1) && decide (c.1 < b + n)

/-- A 64 KiB block at the homes of its sixteen 4 KiB parts (04, R65). -/
def State.blockCells (s : State) (b : Nat) : List Host.Cell :=
  ((List.range 16).map fun i =>
    cellsIn (s.views.get ((homeOf (b + 4096 * i)).getD 0)) (b + 4096 * i) 4096).flatten

/-- Slots of the snapshot pool in use by a context. -/
def State.snapsUsed (s : State) (ctx : Nat) : Nat :=
  (s.snaps.filter fun p => match alFind s.tcbs p.tcb with
    | some t => t.ctx == ctx
    | none => false).length

/-- Before the first write of launch `t` to the block of `pa` is applied at its home, the block is copied; with the pool
empty the launch goes on unprotected, which is logged (R366-R368; the CLASS and SOURCE of the record: DESIGN CHOICE, log
94).  Host memory and other packages are not copied. -/
def State.snapshot (s : State) (t : Option Nat) (pa : Nat) : State :=
  match t with
  | none => s
  | some l =>
    match alFind s.tcbs l with
    | none => s
    | some tc =>
      if regionOf pa ≠ 0 ∨ tc.st ≠ .running then s
      else
        let s := { s with writers := s.writers ++ [(l, blockOf pa, s.nextId)], nextId := s.nextId + 1 }
        if tc.unprot || s.snaps.any (fun p => p.tcb == l && p.block == blockOf pa) then s
        else
          let slots := match alFind s.ctxs tc.ctx with
            | some c => c.r.snpPool.size / 65536
            | none => 0
          if s.snapsUsed tc.ctx < slots then
            { s with snaps := s.snaps ++ [{ tcb := l, block := blockOf pa,
                                            cells := s.blockCells (blockOf pa),
                                            poison := s.poison.filter fun p => blockOf p.burst == blockOf pa && p.written != BitVec.allOnes 256,
                                            time := s.nextId }], nextId := s.nextId + 1 }
          else
            { s.logEvent (BitVec.ofNat 64 (blockOf pa)) none (some l) 5 3 0 with
              snaps := s.snaps.filter (fun p => p.tcb != l)
              tcbs := alMod s.tcbs l fun t => { t with unprot := true } }

/-! ## Translation-fault and fault records (21, R398) -/

/-- A translation-fault record. -/
def xfaultRecord (va cycle : W64) (core tcb ctx kind : Nat) : BitVec 256 :=
  BitVec.ofNat 256 (va.toNat * 2 ^ 192 + cycle.toNat * 2 ^ 128 + core * 2 ^ 112 + tcb * 2 ^ 96 + ctx * 2 ^ 64
    + kind * 2 ^ 32 + 1 * 2 ^ 24)

/-- The four entries of a fault record; `r` gives s504 to s510. -/
def faultRecord (teamReg groupReg cycle : W64) (core tcb ctx slice : Nat) (r : Nat → W64) : List (BitVec 256) :=
  [ BitVec.ofNat 256 (teamReg.toNat * 2 ^ 192 + cycle.toNat * 2 ^ 128 + core * 2 ^ 112 + tcb * 2 ^ 96 + ctx * 2 ^ 64
      + groupReg.toNat % 2 ^ 32 * 2 ^ 32 + 2 * 2 ^ 24 + slice * 2 ^ 16),
    BitVec.ofNat 256 ((r 506).toNat * 2 ^ 192 + (r 505).toNat * 2 ^ 128 + (r 504).toNat * 2 ^ 64 + 3 * 2 ^ 24),
    BitVec.ofNat 256 ((r 509).toNat * 2 ^ 192 + (r 508).toNat * 2 ^ 128 + (r 507).toNat * 2 ^ 64 + 3 * 2 ^ 24),
    BitVec.ofNat 256 ((r 510).toNat * 2 ^ 192 + 3 * 2 ^ 24) ]

/-- The context of a launch asks for corrected and transient errors to be logged (R365). -/
def State.logsCorrected (s : State) (tcb : Nat) : Bool :=
  match alFind s.tcbs tcb with
  | some t => match alFind s.ctxs t.ctx with
    | some c => c.r.logCorrected
    | none => false
  | none => false

/-- A corrected or transient error of a DRAM burst or a link, which belong to no one launch: logged where the policy of some
context asks for it (R365; DESIGN CHOICE, log 59). -/
def State.logShared (s : State) (aux cls source : Nat) : State :=
  if s.ctxs.any fun c => c.2.r.logCorrected then s.logEvent (BitVec.ofNat 64 aux) none none 0 cls source else s

/-- A corrected or transient error: logged where the context of the launch concerned asks for it (R365). -/
def State.logRepaired (s : State) (aux : W64) (core : Nat) (tcb : Option Nat) (cls source : Nat) : State :=
  match tcb with
  | none => s
  | some t => if s.logsCorrected t then s.logEvent aux (some core) (some t) 0 cls source else s

/-! ## Packet fields (18, R305) -/

/-- Bytes `lo` up of a launch packet, as a number of `n` bytes. -/
def pkt (p : BitVec 512) (lo n : Nat) : Nat := p.toNat / 2 ^ (8 * lo) % 2 ^ (8 * n)

def pktPrio (p : BitVec 512) : Nat := pkt p 36 1
def pktGrain (p : BitVec 512) : Nat := pkt p 32 4
def pktWidth (p : BitVec 512) : Nat := pkt p 48 1 % 16
def pktHeight (p : BitVec 512) : Nat := pkt p 48 1 / 16
/-- Teams of a cluster (R306). -/
def pktC (p : BitVec 512) : Nat := pktWidth p * pktHeight p
def pktParam (p : BitVec 512) : Nat := pkt p 8 8
def pktCring (p : BitVec 512) : Nat := pkt p 16 8

/-! ## The mirror ring (22, R380) -/

/-- A message joins the channel of a die and a package (15, R269). -/
def State.sendFrom (s : State) (die pkg : Nat) (m : ChanMsg) : State :=
  if s.chans.any fun c => c.die == die && c.pkg == pkg then
    { s with chans := s.chans.map fun c => if c.die = die ∧ c.pkg = pkg then { c with q := c.q ++ [m] } else c }
  else { s with chans := s.chans ++ [⟨die, pkg, [m]⟩] }

/-- A remote request of an engine operation, loader or storer is on its way. -/
def State.asking (s : State) (id : Nat) : Bool :=
  s.chans.any fun c => c.q.any fun m => match m with
    | .load _ g op _ => g == 0 && op == id
    | _ => false

/-- A packet, or a completion record, written to the next 64 bytes of the mirror ring in the peer's memory (22, R380; the
ring's layout is a DESIGN CHOICE, log 93). -/
def State.mirrorEntry (s : State) (b : BitVec 512) (record : Bool) (tcb : Option Nat) : State :=
  match s.mirror with
  | none => s
  | some (p, r) =>
    let x := (p + 1) * 2 ^ 40 + (r + 64 * s.mirrored.length) % 2 ^ 40
    (List.range (if record then 2 else 8)).foldl
      (fun s k => s.sendFrom 0 p (.mirror (x + 8 * k) (BitVec.ofNat 64 (b.toNat / 2 ^ (64 * k))) tcb))
      { s with mirrored := s.mirrored ++ [(b, record)] }

/-- The Keep's writes to the mirror ring have not all been acknowledged. -/
def State.mirrorOut (s : State) : Bool := s.chans.any fun c => c.q.any fun m => match m with
  | .mirror _ _ _ => true
  | _ => false

/-- A write to the mirror ring has failed: a containment event of its launch, which does not run (22, R378, R380; log 93). -/
def State.mirrorLost (s : State) (x : Nat) (tcb : Option Nat) : State :=
  match tcb with
  | some i => s.logEvent (BitVec.ofNat 64 x) none (some i) 0 2 7
  | none => { s with mirrorSent := s.mirrorSent.map fun m => (m.1, m.2.1, some (m.2.2.getD (BitVec.ofNat 64 x))) }

/-! ## Retirement of launches (18, R304, R307; 22, R373) -/

/-- A predecessor of `t` has retired; at 0 a waiting TCB is ready. -/
def decPreds (now : Nat) (t : Tcb) : Tcb :=
  if t.st = .waiting then
    if t.preds ≤ 1 then { t with preds := 0, st := .ready, readyAt := now } else { t with preds := t.preds - 1 }
  else t

/-- The completion record of R373. -/
def complRecord (i : Nat) (t : Tcb) : Nat :=
  i + (if t.rejected then 2 else if t.failed then 1 else 0) * 2 ^ 16 + (if t.unprot then 2 ^ 24 else 0) + t.replays * 2 ^ 25

/-- Successors decremented in list order: one that becomes ready does so after those before it. -/
def decSuccs (now : Nat) (l : List (Nat × Tcb)) : List Nat → List (Nat × Tcb)
  | [] => l
  | j :: t => decSuccs (now + 1) (alMod l j (decPreds now)) t

/-- TCB `i` retires: successors are decremented in list order, then the completion record is written, of a mirrored packet
to the mirror ring too (22, R380); its snapshots go back to the pool and the grid-barrier counters it held are released. -/
def State.retire (s : State) (i : Nat) (failed : Bool) : State :=
  match alFind s.tcbs i with
  | none => s
  | some t =>
    let t := { t with st := .retired, failed := t.failed || failed }
    let tcbs := decSuccs s.nextId (alMod s.tcbs i fun _ => { t with succs := [] }) t.succs
    let rec' := complRecord i t
    let s := { s with
      tcbs := tcbs
      nextId := s.nextId + t.succs.length + 1
      snaps := s.snaps.filter fun p => p.tcb != i
      writers := (s.writers.map fun w => if w.1 = i then (4096, w.2) else w).filter fun w =>
        s.snaps.any fun p => p.tcb != i && p.block == w.2.1 && decide (p.time < w.2.2)
      bagUndo := s.bagUndo.filter fun b => b.1 != i
      iters := s.iters.map fun q => if q.tcb = i then { q with tcb := 4096 } else q
      saved := s.saved.filter fun p => p.2.tcb != i
      resv := s.resv.filter fun r => r.tcb != i
      ctxs := alMod s.ctxs t.ctx fun c => if c.gholder = some i then { c with gholder := none, garr := [], gphase := [] } else c }
    let s := if s.mirrored.contains (t.packet, false) && !t.rejected then s.mirrorEntry (BitVec.ofNat 512 rec') true (some i) else s
    match t.queue with
    | none => s
    | some q =>
      match alFind s.ctxs t.ctx with
      | none => s
      | some c =>
        let n := kvGet 0 c.comps q
        let qr := c.r.queues.getD q ⟨0, 0, 0⟩
        let s := { s with
          compl := s.compl ++ [(t.ctx, q, rec')]
          ctxs := alMod s.ctxs t.ctx fun c => { c with comps := kvPut 0 c.comps q (n + 1) } }
        s.keepWrite (s.ownRegion (qr.comp + 16 * (n % (if qr.cap = 0 then 1 else qr.cap)))) (leBytes 16 rec')

/-! ## Stopping the groups of a launch -/

def Slice.raise (x : Slice) (f : Option Nat) : Slice :=
  match f with
  | some n => { x with flags := kvPut 0 x.flags n (kvGet 0 x.flags n + 1) }
  | none => x

def Slice.lower (x : Slice) (f : Option Nat) : Slice :=
  match f with
  | some n => { x with flags := kvPut 0 x.flags n (kvGet 0 x.flags n - 1) }
  | none => x

/-- A word waits: the first time it counts on its flag (19, R332). -/
def Slice.setWait (x : Slice) (f : Option Nat) (w : Wait) : Slice :=
  if x.wait.isSome then { x with wait := some w } else { x.raise f with wait := some w, held := f }

/-- The wait of a word ends, and its flag falls. -/
def Slice.clearWait (x : Slice) : Slice := { x.lower x.held with wait := none, held := none }

/-- The flag of a load that is held until a handler ends. -/
def Slice.heldLoad (x : Slice) : Option Nat := x.handler.bind fun h => h.load.bind (·.flag)

/-- A slice that issues nothing more; what it has issued completes, the word that waits and a load held for a handler do
not, and count on no flag (20, R349). -/
def Slice.halt (x : Slice) : Slice :=
  { x.clearWait.lower x.heldLoad with pc := ones64, clause := none, rep := none, only := none, handler := none, ended := true }

/-- A group stopped at its issue boundary: every lane exited, both slices halted. -/
def Resident.halt (r : Resident) : Resident :=
  { g := { r.g with pcv := tab fun _ => ones64, park := 0, latchA := none, latchB := none, alatch := none,
                    companion := r.g.companion.map Slice.halt }
    sl := r.sl.halt }

/-- Every group of a launch stopped. -/
def State.haltLaunch (s : State) (t : Nat) : State :=
  let f := fun r : Resident => if r.g.tcb = t ∧ r.g.id ≠ 0 then r.halt else r
  { s with cur := f s.cur, others := s.others.map f }

/-- The accumulator blocks of a team freed and cleared (13, R239). -/
def Core.freeTeam (c : Core) (team : Nat) : Core :=
  let mine := (List.range 128).filter fun b => kvGet none c.owner b == some team
  { c with
    owner := mine.foldl (fun o b => kvPut none o b none) c.owner
    inUse := mine.foldl (fun o b => kvPut false o b false) c.inUse
    drains := c.drains.filter fun d => !mine.contains (d.2.1 / 8)
    rows := c.rows.filter fun r => !mine.contains (r.1 / 8) }

/-- Groups of launch `t` are resident. -/
def State.occupied (s : State) (t : Nat) : Bool := (s.cur :: s.others).any fun r => r.g.id != 0 && r.g.tcb == t

/-- What a launch that failed has left, once its groups have gone: its clusters, teams, frames, streams, accumulator blocks
and engine operations. -/
def State.sweep (s : State) (t : Nat) : State :=
  let dead := match alFind s.tcbs t with
    | some c => c.st == .retired && c.failed
    | none => true
  if s.occupied t ∨ !dead then s
  else
    let mine := (s.teams.filter fun p => p.2.tcb == t).map (·.1)
    { s with
      clusters := s.clusters.filter fun p => p.2.tcb != t
      teams := s.teams.filter fun p => p.2.tcb != t
      frames := s.frames.filter fun p => p.2.tcb != t
      streams := s.streams.filter fun x => x.tcb != t
      cores := s.cores.map fun c =>
        (c.1, { mine.foldl Core.freeTeam c.2 with eq := c.2.eq.map fun q => (q.1, q.2.filter fun o => !mine.contains o.team) }) }

/-- The launch fails: its groups stop, nothing more of it is placed, and its TCB retires failed, at once where it does not
run, else once its groups have left and its writes are applied (20, R349; 18, R307). -/
def State.failLaunch (s : State) (t : Nat) : State :=
  match alFind s.tcbs t with
  | none => s
  | some c =>
    if c.st ≠ .running then s.retire t true
    else { s.haltLaunch t with
      tcbs := alMod s.tcbs t fun c => { c with failed := true, rolling := true, pieces := [], tiles := [] }
      saved := s.saved.filter fun p => p.2.tcb != t
      resv := s.resv.filter fun r => r.tcb != t }

/-- A containment event calls for a rollback: the launch's groups stop; the step ROLLBACK follows once they have drained
(21, R365, R370). -/
def State.askRollback (s : State) (t : Nat) (why : Nat × Nat × W64) : State :=
  { s.haltLaunch t with
    tcbs := alMod s.tcbs t fun t => if t.st = .running ∧ !t.rolling then { t with rolling := true, why := why } else t }

/-! ## Identity registers (08, R164) -/

def State.groupReg (s : State) : W64 := BitVec.ofNat 64 (s.cur.g.quarter * 2 ^ 8 + s.cur.g.gidx)

def State.teamReg (s : State) : W64 :=
  match s.team? with
  | some t => BitVec.ofNat 64 (s.coreNo * 2 ^ 40 + t.tidx % 2 ^ 32)
  | none => 0

def State.clusterReg (s : State) : W64 :=
  match s.team? with
  | some t => match alFind s.clusters t.cluster with
    | some c => BitVec.ofNat 64 (t.cidx * 2 ^ 32 + c.clid % 2 ^ 32)
    | none => 0
  | none => 0

def State.gridReg (s : State) : W64 := BitVec.ofNat 64 (s.cur.g.ctx % 2 ^ 16 * 2 ^ 32 + s.cur.g.tcb)

end Sys2Proof.Machine
end

