-- ==== Sys2Proof/Machine/Ops.lean ====
section
/-! DEFINITION. Registers, the position within a clause, taking an exception and returning from one, and the outcome of
a word (02, 08, 16, 20). -/

namespace Sys2Proof.Machine

/-! ## The outcome of a word -/

/-- What a word comes to: its effect, a precise trap with cause, lane mask and auxiliary value, or no issue yet. -/
inductive Res (α : Type) where
  | ok (a : α)
  | trap (cause : Nat) (mask : Mask) (aux : W64)
  | denied (cause : Nat) (mask : Mask) (aux : W64) (need : Need)   -- a trap of an access: what the access does (21, R398, KIND)
  | stall
  deriving DecidableEq, Repr

/-- A failed read of a word's own (00, R4): its cause, or the wait of a read that may not be performed yet. -/
def Res.fail (cause : Nat) (mask : Mask) (aux : W64) : Res α := if cause = notYet then .stall else .trap cause mask aux

def Res.bind {α β : Type} (r : Res α) (f : α → Res β) : Res β :=
  match r with
  | .ok a => f a
  | .trap c m x => .trap c m x
  | .denied c m x n => .denied c m x n
  | .stall => .stall

/-! ## Scalar registers (08, R160) -/

/-- s0 reads zero. -/
def Slice.rd (x : Slice) (n : Nat) : W64 := if n = 0 then 0 else kvGet 0 x.s n

/-- s0 ignores writes. -/
def Slice.wr (x : Slice) (n : Nat) (v : W64) : Slice := if n = 0 then x else { x with s := kvPut 0 x.s n v }

def State.rd (s : State) (n : Nat) : W64 := s.cur.sl.rd n

def State.setSl (s : State) (f : Slice → Slice) : State := { s with cur := { s.cur with sl := f s.cur.sl } }

def State.setG (s : State) (f : Group → Group) : State := { s with cur := { s.cur with g := f s.cur.g } }

/-- A word of the selected slice waits: it counts on its flag, and the slice is descheduled (16, R276; 19, R332). -/
def State.setWait (s : State) (f : Option Nat) (w : Wait) : State := s.setSl fun x => x.setWait f w

def State.clearWait (s : State) : State := s.setSl Slice.clearWait

def State.wr (s : State) (n : Nat) (v : W64) : State := s.setSl fun x => x.wr n v

/-- A stream of the Keep or a Lantern. -/
def Slice.ofKeep (x : Slice) : Bool :=
  match x.kind with
  | .keep => true
  | .lantern _ => true
  | _ => false

/-- The stream runs the scalar profile (02, R20). -/
def Slice.scalar (x : Slice) : Bool := x.kind != .execute

/-! ## Position within the clause (02, R11; 16, R272) -/

/-- EXEC; no lane where no clause is fetched. -/
def Resident.exec (r : Resident) : Mask :=
  match r.sl.clause with
  | some c => c.exec
  | none => 0

def State.exec' (s : State) : Mask := s.cur.exec

/-- EXEC of a bag word, narrowed where it is executed again (05, R88). -/
def State.wordExec (s : State) : Mask :=
  match s.cur.sl.only with
  | some m => s.cur.exec &&& m
  | none => s.cur.exec

def Clause.cls (c : Clause) : Nat := c.hdr.toNat / 2 ^ 28

def Clause.cnt (c : Clause) : Nat := c.hdr.toNat / 2 ^ 24 % 16

/-- The address of the next clause. -/
def Clause.next (c : Clause) : W64 := c.addr + BitVec.ofNat 64 (4 * (c.cnt + 1))

/-- The address of the word that issues. -/
def Clause.wordAddr (c : Clause) : W64 := c.addr + BitVec.ofNat 64 (4 * c.idx)

/-- The word itself; the header at index 0. -/
def Clause.word (c : Clause) : W32 := if c.idx = 0 then c.hdr else c.words.getD (c.idx - 1) 0

def Resident.wordAddr (r : Resident) : W64 :=
  match r.sl.clause with
  | some c => c.wordAddr
  | none => r.sl.pc

def Resident.nextAddr (r : Resident) : W64 :=
  match r.sl.clause with
  | some c => c.next
  | none => r.sl.pc

/-- The word as an auxiliary value (20, R346, cause 0x02 and the default of cause 0x13). -/
def State.wordAux (s : State) : W64 :=
  match s.cur.sl.clause with
  | some c => BitVec.ofNat 64 c.word.toNat
  | none => 0

/-- The flag that a selector of the header names; none for 15 (02, R16, R17). -/
def Resident.flagSel (r : Resident) (fs : Nat) : Option Nat :=
  match r.sl.clause with
  | none => none
  | some c =>
    let f := if fs = 0 then c.hdr.toNat / 2 ^ 8 % 16 else c.hdr.toNat / 2 ^ 4 % 16
    if f ≤ 11 then some f else none

/-- The number of lanes that are active (16, R271). -/
def activeMask (pcv : Lanes) (park : Mask) : Mask := maskOf fun l => lane pcv l != ones64 && !inMask park l

/-- The least PC over a mask's lanes; all ones over none. -/
def minPc (pcv : Lanes) (m : Mask) : W64 :=
  (lanesOf m).foldl (fun x l => if lane pcv l < x then lane pcv l else x) ones64

/-- The rejoin test at a clause end (16, R273); `exempt` are the lanes parked by the clause just ended. -/
def rejoin (pcv : Lanes) (park exempt : Mask) : Mask :=
  let act := activeMask pcv park
  if act = 0 then 0
  else maskOf fun l => inMask park l && (inMask exempt l || decide (minPc pcv act < lane pcv l))

/-- A clause with YLD = 1 ends (02, R12; 16, R277). -/
def Resident.clauseEnds (r : Resident) : Slice :=
  match r.sl.clause with
  | some c => { r.sl with clause := none, rep := none, only := none, yielded := r.sl.yielded || c.hdr.getLsbD 3 }
  | none => { r.sl with rep := none, only := none }

/-- The end of a clause: each lane of EXEC takes the address that `tgt` gives it, lanes of `newPark` park there, and the
rejoin test is made; in handler mode the handler PC moves instead (16, R272, R273; 20, R347; 07, R140). -/
def Resident.endClause (r : Resident) (tgt : Nat → W64) (newPark : Mask) : Resident :=
  match r.sl.handler with
  | some h =>
    { r with sl := { r.clauseEnds with handler := some { h with pc := tgt ((lanesOf r.exec).headD 0) } } }
  | none =>
    if r.sl.scalar then { r with sl := { r.clauseEnds with pc := tgt 0 } }
    else
      let pcv := merge r.exec (tab tgt) r.g.pcv
      let park := (r.g.park &&& ~~~r.exec) ||| newPark
      { g := { r.g with pcv := pcv, park := rejoin pcv park newPark }
        sl := r.clauseEnds }

/-- The word has issued: the next issue of its repeat, the next word, or the end of the clause (02, R11, R32). -/
def Resident.advance (r : Resident) : Resident :=
  match r.sl.clause with
  | none => r
  | some c =>
    match r.sl.rep with
    | some p =>
      if p.k + 1 < p.n then { r with sl := { r.sl with only := none, rep := some { p with k := p.k + 1 } } }
      else if c.idx < c.cnt then { r with sl := { r.sl with only := none, rep := none, clause := some { c with idx := c.idx + 1 } } }
      else r.endClause (fun _ => c.next) 0
    | none =>
      if c.idx < c.cnt then { r with sl := { r.sl with only := none, clause := some { c with idx := c.idx + 1 } } }
      else r.endClause (fun _ => c.next) 0

def State.advance (s : State) : State := { s with cur := s.cur.advance }

/-- A branch-type word sends each lane of EXEC to its target at the end of the clause (16, R279, R280). -/
def State.branch (s : State) (tgt : Nat → W64) : State := { s with cur := s.cur.endClause tgt 0 }

/-! ## Collector latches (08, R157, R159) -/

/-- Releasing a latch frees the register whose freeing waited for it. -/
def releaseLatch (v : Kv VName) (l : Option Latch) : Kv VName :=
  match l with
  | some x => if x.free then kvPut VName.unmapped v x.name .unmapped else v
  | none => v

def Group.releaseLatches (g : Group) : Group :=
  { g with v := releaseLatch (releaseLatch g.v g.latchA) g.latchB, latchA := none, latchB := none, alatch := none }

/-! ## Taking an exception (16, R286; 20, R345, R346, R349) -/

/-- What a trap reports: cause, s508, s509, s504, clause and word for s506 and s507, the EXEC to record, for a deferred
0x0A the load and its bad lanes, and the kind of access for a translation-fault record. -/
structure TrapInfo where
  cause  : Nat
  mask   : Mask
  aux    : W64
  faulty : W64
  clause : W64
  word   : Nat
  exec   : Mask
  load   : Option Op
  bad    : Mask
  need   : Need
  deriving DecidableEq, Repr

/-- A handler is installed in the context (R345). -/
def State.handlerOn (s : State) : Bool :=
  match s.ctx? with
  | some c => c.r.trapTab != 0
  | none => false

/-- The handler of a cause: the trap table's entry, none where it is zero, no multiple of 4 or unreadable (R286). -/
def State.handlerFor (s : State) (cause : Nat) : Option W64 :=
  match s.ctx? with
  | none => none
  | some c =>
    if c.r.trapTab = 0 then none
    else
      match s.lookVa s.cur.sl.nextSeq (c.r.trapTab + BitVec.ofNat 64 (8 * cause)) with
      | .error _ => none
      | .ok (e, _) => if e = 0 ∨ e.toNat % 4 ≠ 0 then none else some e

/-- The walk of the trap table's entry marked (06, R101), or its uncorrectable data counted (04, R75). -/
def State.markHandler (s : State) (cause : Nat) : State :=
  match s.ctx? with
  | none => s
  | some c =>
    if c.r.trapTab = 0 then s
    else
      match s.lookVa s.cur.sl.nextSeq (c.r.trapTab + BitVec.ofNat 64 (8 * cause)) with
      | .error e => if e = 0x0A then s.countBad s.die s.coreNo s.quarter? s.cur.g.ctx (c.r.trapTab + BitVec.ofNat 64 (8 * cause)) .read else s
      | .ok (_, t) => s.markWalk t.path .read

def Need.code : Need → Nat
  | .read => 0
  | .write => 1
  | .both => 2
  | .fetch => 3

/-- The values s504 to s510 that entry writes. -/
def State.report (s : State) (t : TrapInfo) (n : Nat) : W64 :=
  if n = 504 then (if t.cause = 0x0A then t.faulty else 0)
  else if n = 505 then BitVec.ofNat 64 t.cause
  else if n = 506 then t.clause
  else if n = 507 then BitVec.ofNat 64 t.word
  else if n = 508 then t.mask.setWidth 64
  else if n = 509 then t.aux
  else s.rd 511

/-- The physical address of the first uncorrectable data of an operation; 0 where it has none. -/
def Op.badPa (o : Op) : W64 :=
  match o.acc.find? fun a => a.st == .bad with
  | some a => match a.tgt with
    | .mem pa _ => BitVec.ofNat 64 pa
    | .home pa => BitVec.ofNat 64 pa
    | _ => 0
  | none => 0

/-- The physical address of a datum that a trap of cause 0x0A reports: of the load's, or of what the word read itself (21,
R366, AUX). -/
def State.badPa (s : State) (t : TrapInfo) : W64 :=
  match t.load with
  | some o => o.badPa
  | none => BitVec.ofNat 64 ((s.readPa s.coreNo s.quarter? s.cur.g.ctx t.aux t.need).getD 0)

/-- The Keep's action on a trap without a handler (R349): a rollback, a translation-fault record and a wait for its
answer, or a fault record and a failed launch.  A stream of the Keep or a Lantern has no launch: it stops. -/
def State.keepActs (s : State) (t : TrapInfo) : State :=
  match s.cur.sl.kind with
  | .keep => s.setSl fun x => { x with wait := some .keep }
  | .lantern _ => s.setSl fun x => { x with wait := some .keep }
  | _ =>
    if t.cause = 0x0A then s.askRollback s.cur.g.tcb (0, s.coreNo, s.badPa t)
    else if t.cause = 0x07 ∧ s.cur.sl.handler = none then
      let s' := s.post [xfaultRecord t.aux s.cycle s.coreNo s.cur.g.tcb s.cur.g.ctx t.need.code]
      { (s'.setSl fun x => { x with wait := some .keep }) with
        tcbs := alMod s.tcbs s.cur.g.tcb fun c => { c with xfault := some ⟨t.aux, t.need.code, s.coreNo⟩ } }
    else
      (s.post (faultRecord s.teamReg s.groupReg s.cycle s.coreNo s.cur.g.tcb s.cur.g.ctx
        (if s.cur.sl.kind = .access then 1 else 0) (s.report t))).failLaunch s.cur.g.tcb

/-- The latches that a trap releases: the collector's and the matrix engine's (08, R157; 13, R236). -/
def State.letGoLatches (s : State) : State :=
  if s.cur.sl.kind = .execute then s.setG Group.releaseLatches else s

/-- Handler entry: s504 to s510 written, latches released, EXEC and repeat recorded, the handler PC at the entry. -/
def State.enterHandler (s : State) (t : TrapInfo) (entry : W64) : State :=
  let x := s.cur.sl
  let x := ((((((x.wr 504 (s.report t 504)).wr 505 (s.report t 505)).wr 506 (s.report t 506)).wr 507 (s.report t 507)).wr
    508 (s.report t 508)).wr 509 (s.report t 509)).wr 510 (s.report t 510)
  { s.letGoLatches with cur :=
      { g := s.letGoLatches.cur.g
        sl := { x with clause := none, rep := none, only := none, wait := none, after := false,
                       handler := some { cause := t.cause, exec := t.exec, mask := t.mask, pc := entry, clause := t.clause,
                                         word := t.word, rep := s.cur.sl.rep, only := s.cur.sl.only, load := t.load, bad := t.bad, repl := none } } } }

/-- Taking an exception, the one operation for every cause: with a handler, and outside handler mode, the handler is
entered; otherwise the Keep acts. -/
def State.takeTrap (s : State) (t : TrapInfo) : State :=
  if s.cur.sl.handler.isSome then s.letGoLatches.keepActs t
  else
    let r := s.markHandler t.cause
    match s.handlerFor t.cause with
    | some e => r.enterHandler t e
    | none => r.letGoLatches.keepActs t

/-- The lanes a trap of the word reports: of a narrowed word those it executes for (05, R88; 23, R389). -/
def State.trapMask (s : State) (mask : Mask) : Mask :=
  match s.cur.sl.only with
  | some m => mask &&& m
  | none => mask

/-- A precise trap at the word that stands to issue (00, R4), which waits no more; what it reports has been read before. -/
def State.trapTold (s : State) (cause : Nat) (mask : Mask) (aux : W64) (need : Need := .read) : State :=
  s.clearWait.takeTrap
             { cause := cause, mask := s.trapMask mask, aux := aux, faulty := s.cur.wordAddr
               clause := match s.cur.sl.clause with
                 | some c => c.addr
                 | none => s.cur.sl.pc
               word := match s.cur.sl.clause with
                 | some c => c.idx
                 | none => 0
               exec := s.exec', load := none, bad := 0, need := need }

/-- A precise trap at the word that stands to issue; where it has read uncorrectable data itself, the read is counted (04,
R75; R354). -/
def State.trap (s : State) (cause : Nat) (mask : Mask) (aux : W64) (need : Need := .read) : State :=
  (if cause = 0x0A then s.countBad s.die s.coreNo s.quarter? s.cur.g.ctx aux need else s).trapTold cause mask aux need

/-- The outcome of a word whose effect is a state: it issues and the position advances, it traps, or it waits. -/
def State.run (s : State) (r : Res State) : Host.Outcome State Fault Refusal :=
  match r with
  | .ok t => .next t.advance
  | .trap c m a => .next (s.trap c m a)
  | .denied c m a n => .next (s.trap c m a n)
  | .stall => .next s

/-- The outcome of a word that changes only the group and its slice. -/
def State.runCur (s : State) (r : Res Resident) : Host.Outcome State Fault Refusal :=
  match r with
  | .ok x => .next { s with cur := x.advance }
  | .trap c m a => .next (s.trap c m a)
  | .denied c m a n => .next (s.trap c m a n)
  | .stall => .next s

/-- The outcome of a branch-type word: where it does not trap it has set the PCs itself. -/
def State.runBranch (s : State) (r : Res State) : Host.Outcome State Fault Refusal :=
  match r with
  | .ok t => .next t
  | .trap c m a => .next (s.trap c m a)
  | .denied c m a n => .next (s.trap c m a n)
  | .stall => .next s

/-! ## Scalar destinations (20, R345) -/

/-- A destination reserved for trap handling: s496 to s510 outside handler mode while a handler is installed. -/
def State.reservedDest (s : State) (n : Nat) : Bool :=
  decide (496 ≤ n) && decide (n ≤ 510) && s.cur.sl.handler.isNone && s.handlerOn

/-- A scalar destination checked: cause 0x03 with its number (R345). -/
def State.destOk (s : State) (n : Nat) (r : Res α) : Res α :=
  if s.reservedDest n then .trap 0x03 s.exec' (BitVec.ofNat 64 n) else r

/-- A word that writes one scalar register. -/
def State.setReg (s : State) (n : Nat) (v : W64) : Res State := s.destOk n (.ok (s.wr n v))

/-! ## Fetching (02, R11, R39, R40) -/

/-- The word at a physical address at its home: what a store that has completed has left there. -/
def State.homeWord (s : State) (pa : Nat) : W32 :=
  BitVec.ofNat 32 ((s.homeDword (pa / 8 * 8)).toNat / 2 ^ (8 * (pa % 8)))

/-- The word at a physical address as a core fetches it: the word at its home, or one it held since the launch was ready,
each fetch by a free choice (R40; log 82). -/
def State.codeWord (s : State) (pa : Nat) : W32 :=
  let l := s.icache.filter fun e => e.1 == s.cur.g.tcb && e.2.1 == pa && !s.cur.sl.ofKeep
  match l with
  | [] => s.homeWord pa
  | _ => (l[Config.choice s.tick pa % (l.length + 1)]?.map (·.2.2)).getD (s.homeWord pa)

/-- A word of code at a VA, with the walk; the cause where it cannot be fetched. -/
def State.fetchWord (s : State) (va : W64) : Except Nat (W32 × List Nat) :=
  match s.translate va .fetch with
  | .error e => .error e
  | .ok t => if s.unreadable t.pa then .error 0x0A else .ok (s.codeWord t.pa, t.path)

/-- `n` words from a VA up; at the first failure its cause and address. -/
def State.fetchWords (s : State) (va : W64) : Nat → Except (Nat × W64) (List W32 × List (List Nat))
  | 0 => .ok ([], [])
  | n + 1 =>
    match s.fetchWord va with
    | .error e => .error (e, va)
    | .ok (w, p) =>
      match s.fetchWords (va + 4) n with
      | .error e => .error e
      | .ok (ws, ps) => .ok (w :: ws, p :: ps)

/-- A whole clause, header and CNT words (R39): header, words, walks. -/
def State.fetchClause (s : State) (va : W64) : Except (Nat × W64) (W32 × List W32 × List (List Nat)) :=
  match s.fetchWord va with
  | .error e => .error (e, va)
  | .ok (h, p) =>
    match s.fetchWords (va + 4) (h.toNat / 2 ^ 24 % 16) with
    | .error e => .error e
    | .ok (ws, ps) => .ok (h, ws, p :: ps)

/-- The header that stands for a clause that could not be fetched: 15 words, none of them there. -/
def absentHdr : W32 := 0x0F00_0000

/-- A clause stands in the buffer that could not be fetched: it is fetched again before anything issues. -/
def Clause.absent (c : Clause) : Bool := c.words.length != c.cnt

/-- The classes of a stream's profile (02, R20). -/
def SliceKind.allows (k : SliceKind) (cls : Nat) : Bool :=
  match k with
  | .execute => decide (cls < 14)
  | .access => cls == 0 || cls == 1 || cls == 2 || cls == 8 || cls == 9 || cls == 13 || cls == 12 || cls == 11
  | _ => cls == 0 || cls == 1 || cls == 2 || cls == 8 || cls == 9 || cls == 13 || cls == 12

/-- A header that R36 gives no trap, in a stream's profile. -/
def Clause.legal (c : Clause) (k : SliceKind) : Bool :=
  let h := c.hdr.toNat
  let flagOk := fun n : Nat => n != 12 && n != 13 && n != 14
  c.cnt != 0 && h % 8 == 0 && flagOk (h / 2 ^ 8 % 16) && flagOk (h / 2 ^ 4 % 16) && k.allows c.cls

/-- The clause at `va` placed in the slice's buffer with EXEC at a word index, or the trap of R39 at its header. -/
def State.loadClause (s : State) (va : W64) (exec : Mask) (idx : Nat) : State :=
  match s.fetchClause va with
  | .ok (h, ws, ps) =>
    (s.markAll ps .fetch).setSl fun x =>
      { x with clause := some { addr := va, hdr := h, words := ws, idx := idx, exec := exec } }
  | .error (c, a) =>
    ((if c = 0x0A then s.countBad s.die s.coreNo s.quarter? s.cur.g.ctx a .fetch else s).setSl fun x =>
        { x with clause := some { addr := va, hdr := absentHdr, words := [], idx := idx, exec := exec } }).takeTrap
      { cause := c, mask := exec, aux := a, faulty := va, clause := va, word := 0, exec := exec, load := none, bad := 0,
        need := .fetch }

/-! ## The selected slice -/

/-- The group seen from its other slice. -/
def Resident.swap (r : Resident) : Resident :=
  match r.g.companion with
  | some x => { g := { r.g with companion := some r.sl }, sl := x }
  | none => r

/-- Group `id` selected, from the slice `k` where it has that slice; where no group has the number, nothing changes. -/
def State.focus (s : State) (id : Nat) (k : SliceKind) : State :=
  let s := if s.cur.g.id = id then s else
    match s.others.find? fun r => r.g.id == id with
    | none => s
    | some r => { s with cur := r, others := s.others.filter (fun q => q.g.id != id) ++ (if s.cur.g.id = 0 then [] else [s.cur]) }
  if s.cur.g.id = id ∧ s.cur.sl.kind ≠ k ∧ s.cur.swap.sl.kind = k then { s with cur := s.cur.swap } else s

/-- A change made on another slice as if it were the selected one. -/
def State.onSlice (s : State) (id : Nat) (k : SliceKind) (f : State → State) : State :=
  let t := s.focus id k
  if t.cur.g.id = id ∧ t.cur.sl.kind = k then (f t).focus s.cur.g.id s.cur.sl.kind else s

/-! ## Return from exception (16, R287; 20, R353) -/

/-- The PCs of the recorded lanes at a clause address. -/
def State.sendLanes (s : State) (exec : Mask) (a : W64) : State :=
  if s.cur.sl.scalar then s.setSl fun x => { x with pc := a }
  else s.setG fun g => { g with pcv := merge exec (tab fun _ => a) g.pcv, park := g.park &&& ~~~exec }

/-- Handler mode left, s511 restored. -/
def State.leaveHandler (s : State) : State :=
  s.letGoLatches.setSl fun x => { x.wr 511 (x.rd 510) with handler := none, clause := none, rep := none }

/-- A clause that has been fetched again stands at a word: past its end the lanes go on at the next clause; a header with
no legal meaning is taken at the header, where it traps (02, R36). -/
def State.placeAt (s : State) (exec : Mask) (c : Clause) : State :=
  if !c.legal s.cur.sl.kind then s.setSl fun x => { x with clause := some { c with idx := 0 } }
  else if c.cnt < c.idx then s.sendLanes exec c.next |>.setSl fun x => { x with clause := none, rep := none }
  else s

/-- The slice goes on after the word of its clause at which it stands (R287). -/
def State.pastWord (s : State) (c : Clause) : State :=
  if c.idx < c.cnt then s.setSl fun x => { x with clause := some { c with idx := c.idx + 1 }, after := false }
  else { s with cur := (s.setSl fun x => { x with after := false }).cur.endClause (fun _ => c.next) 0 }

/-- Some lane has not exited (16, R271). -/
def Group.alive (g : Group) : Bool := (List.range 32).any fun l => lane g.pcv l != ones64

/-- A group whose last lane has exited has ended: s3 and s4 as they are, and its access slice is stopped (16, R275; 07, R140,
R145). -/
def State.groupEnd (s : State) : State :=
  if s.cur.g.alive ∨ s.cur.sl.scalar then s
  else s.setG fun g => { g with exit := some (s.rd 3, s.rd 4), companion := g.companion.map Slice.halt }

/-- The lanes and the place at which the handler's recorded word is resumed (R287), after handler mode is left. -/
def State.resumeAt (s : State) (h : Handler) (a : W64) (w : Nat) : State :=
  let s := s.sendLanes h.exec a
  if w = 0 then s
  else
    let same := a == h.clause && w == h.word
    let s := s.loadClause a h.exec w
    match s.cur.sl.handler, s.cur.sl.clause with
    | none, some c =>
      if c.absent then
        if same && (h.cause == 0x11 || h.cause == 0x12) then s.setSl fun x => { x with after := true }
        else if same then s.setSl fun x => { x with rep := h.rep, only := if h.cause = 0x0B then some h.mask else h.only }
        else s
      else if !c.legal s.cur.sl.kind || decide (c.cnt < w) then s.placeAt h.exec c
      else if same && (h.cause == 0x11 || h.cause == 0x12) then s.pastWord c
      else if same then
        s.setSl fun x => { x with rep := h.rep, only := if h.cause = 0x0B then some h.mask else h.only }
      else s
    | _, _ => s

end Sys2Proof.Machine
end

