-- ==== Sys2Proof/Machine/Operands.lean ====
section
/-! DEFINITION. Vector operands: reading, popping, last-read bits, latches, allocation, writing (08). -/

namespace Sys2Proof.Machine

/-- A source field: the name and its last-read bit (02, R26). -/
structure Src where
  n  : Nat
  lr : Bool
  deriving DecidableEq, Repr

def VName.isQueue : VName → Bool
  | .queue _ _ => true
  | _ => false

def Group.name (g : Group) (n : Nat) : VName := kvGet VName.unmapped g.v n

def Group.setName (g : Group) (n : Nat) (x : VName) : Group := { g with v := kvPut VName.unmapped g.v n x }

/-- The configured queue depth of a name (08, R152). -/
def VName.depth : VName → Nat
  | .queue d _ => d
  | _ => 0

/-- The value of a name that is no queue; an unmapped name reads zero (08, R148). -/
def Group.val (g : Group) (n : Nat) : Lanes :=
  match g.name n with
  | .mapped x => x
  | _ => zeroLanes

/-- A latch that holds the name is released by a write, push or pop of it (08, R157), the A-operand latch by that of any name
it covers (13, R236). -/
def Group.touch (g : Group) (n : Nat) : Group :=
  let a := if (g.latchA.map (·.name)) = some n then none else g.latchA
  let b := if (g.latchB.map (·.name)) = some n then none else g.latchB
  { g with latchA := a, latchB := b
           alatch := g.alatch.filter fun l => decide (n < l.va) || decide (l.va + l.a.length ≤ n) }

/-- One source read: a queue is popped; the failing name where it is empty (08, R153). -/
def Group.readSrc (g : Group) (n : Nat) : Except Nat (Lanes × Group) :=
  match g.name n with
  | .unmapped => .ok (zeroLanes, g)
  | .mapped x => .ok (x, g)
  | .queue _ [] => .error n
  | .queue d (e :: t) => .ok (e, (g.setName n (.queue d t)).touch n)

/-- The sources read in the order of the fields (08, R153). -/
def Group.readSrcs (g : Group) : List Src → Except Nat (List Lanes × Group)
  | [] => .ok ([], g)
  | x :: t =>
    match g.readSrc x.n with
    | .error e => .error e
    | .ok (v, g') =>
      match g'.readSrcs t with
      | .error e => .error e
      | .ok (vs, g'') => .ok (v :: vs, g'')

/-- A collector latch holds the name. -/
def Group.latched (g : Group) (n : Nat) : Bool := (g.latchA.map (·.name)) == some n || (g.latchB.map (·.name)) == some n

/-- The register of a latched name is to be freed when its latch is released (08, R159). -/
def Group.owe (g : Group) (n : Nat) : Group :=
  { g with latchA := g.latchA.map fun l => if l.name = n then { l with free := true } else l
           latchB := g.latchB.map fun l => if l.name = n then { l with free := true } else l }

/-- A latch holds the name, and its register is freed when the latch is released. -/
def Group.owed (g : Group) (n : Nat) : Bool :=
  (g.latchA.any fun l => l.name == n && l.free) || (g.latchB.any fun l => l.name == n && l.free)

/-- What a write of the name leaves in the lanes it does not write: the register's value, or zero where the write's release
of a latch frees the register and the name takes a new one (08, R148, R158, R159). -/
def Group.kept (g : Group) (n : Nat) : Lanes := if g.owed n then zeroLanes else g.val n

/-- A last-read bit after all reads: the name is unmapped, but for the destination, a queue, and a latched name, whose
freeing waits for the latch (08, R149, R159). -/
def Group.lastRead (g : Group) (dest : Option Nat) (x : Src) : Group :=
  if !x.lr || dest == some x.n then g
  else
    match g.name x.n with
    | .mapped _ => if g.latched x.n then g.owe x.n else g.setName x.n .unmapped
    | _ => g

/-- Physical registers a name holds. -/
def VName.regs : VName → Nat
  | .unmapped => 0
  | .mapped _ => 1
  | .queue _ es => es.length

/-- Physical registers a group holds in a bank (08, R146). -/
def Group.held (g : Group) (bank : Nat) : Nat :=
  g.v.foldl (fun n e => if e.1 % 6 = bank then n + e.2.regs else n) 0

/-- Registers of a bank that a group's holding or its reserve takes (08, R150). -/
def Group.taken (g : Group) (bank : Nat) : Nat := if g.held bank ≤ g.base then g.base else g.held bank

/-- The other groups of the selected group's quarter. -/
def State.mates (s : State) : List Group :=
  (s.others.filter fun r => r.g.quarter == s.cur.g.quarter && r.g.id != 0 &&
    ((alFind s.teams r.g.team).map (·.core)) == (s.team?.map (·.core))).map (·.g)

/-- The oldest of the quarter's groups: residency first, then the group index (08, R151). -/
def oldestOf : List Group → Group → Group
  | [], g => g
  | h :: t, g => oldestOf t (if h.since < g.since ∨ (h.since = g.since ∧ h.gidx < g.gidx) then h else g)

/-- A group's growth reserve in a bank (08, R151). -/
def Group.reserve (g : Group) (bank : Nat) : Nat := g.grow - (g.held bank - g.base)

/-- One more register for name `n` of the group as it stands: none to hold by BASE + GROW (cause 0x03), none to be had
(a stall), or granted (08, R150, R151). -/
def State.alloc (s : State) (g : Group) (n : Nat) : Res Unit :=
  let bank := n % 6
  if g.base + g.grow ≤ g.held bank then .trap 0x03 s.exec' (BitVec.ofNat 64 n)
  else if g.held bank < g.base then .ok ()
  else
    let used := (s.mates.map (·.taken bank)).foldl (· + ·) (g.taken bank)
    let old := oldestOf s.mates g
    let need := if old.id = g.id then 1 else 1 + old.reserve bank
    if used + need ≤ 96 then .ok () else .stall

/-- A destination that takes a register where the group holds BASE + GROW in its bank already (08, R150; cause 0x03). -/
def Group.full (g : Group) (n : Nat) : Bool :=
  (match g.name n with
    | .mapped _ => false
    | _ => true) && decide (g.base + g.grow ≤ g.held (n % 6))

/-- A vector result written in the lanes of a mask: in place, into a new register, or pushed: beyond the depth cause 0x05,
whether or not a register is to be had (08, R148, R153).  The write releases the latch that holds the name; a register that
this frees is replaced by a new one (08, R157-R159). -/
def State.writeName (s : State) (g : Group) (n : Nat) (m : Mask) (x : Lanes) : Res Group :=
  match g.name n with
  | .mapped _ => .ok ((g.setName n (.mapped (merge m x (g.kept n)))).touch n)
  | .unmapped => (s.alloc g n).bind fun _ => .ok ((g.setName n (.mapped (merge m x zeroLanes))).touch n)
  | .queue d es =>
    if d ≤ es.length ∧ !g.full n then .trap 0x05 s.exec' (BitVec.ofNat 64 n)
    else (s.alloc g n).bind fun _ => .ok ((g.setName n (.queue d (es ++ [merge m x zeroLanes]))).touch n)

/-- The group after the reads that can be made and the last-read bits, where a queue is empty. -/
def Group.drained (g : Group) (srcs : List Src) (dest : Option Nat) : Group :=
  srcs.foldl (fun g x => g.lastRead dest x) (srcs.foldl (fun g x => match g.readSrc x.n with
    | .ok (_, g') => g'
    | .error _ => g) g)

/-- The trap of an empty source queue `n` (08, R153): cause 0x03 of the destination comes first (02, R37; log 83). -/
def State.emptyTrap (s : State) (g : Group) (srcs : List Src) (dest : Option Nat) (n : Nat) : Res α :=
  match dest with
  | some d => if (g.drained srcs dest).full d then .trap 0x03 s.exec' (BitVec.ofNat 64 d) else .trap 0x04 s.exec' (BitVec.ofNat 64 n)
  | none => .trap 0x04 s.exec' (BitVec.ofNat 64 n)

/-- The sources of a word: vector names, or scalar registers in the scalar profile, where the one lane is lane 0
(02, R22); then the last-read bits. -/
def State.sources (s : State) (srcs : List Src) (dest : Option Nat) : Res (List Lanes × Group) :=
  if s.cur.sl.scalar then
    .ok (srcs.map (fun x => tab fun l => if l = 0 then s.rd x.n else 0), s.cur.g)
  else
    match s.cur.g.readSrcs srcs with
    | .error n => s.emptyTrap s.cur.g srcs dest n
    | .ok (vs, g) => .ok (vs, srcs.foldl (fun g x => g.lastRead dest x) g)

/-- A vector word: its sources, its result in the lanes of EXEC. -/
def State.vword (s : State) (d : Nat) (srcs : List Src) (f : List Lanes → Lanes) : Res Resident :=
  (s.sources srcs (some d)).bind fun (vs, g) =>
    (s.writeName g d s.exec' (f vs)).bind fun g => .ok { s.cur with g := g }

/-- A latch has been let go: a register whose freeing waited for it is freed, or waits for the other latch where that
holds it too (08, R159). -/
def Group.letGo (g : Group) (l : Option Latch) : Group :=
  match l with
  | some x => if !x.free then g else if g.latched x.name then g.owe x.name else g.setName x.name .unmapped
  | none => g

/-- Latch A, or B, goes on where the field names its register, and is let go before the reads otherwise (08, R157, rule 2). -/
def Group.keepA (g : Group) (n : Nat) : Group :=
  if (g.latchA.map (·.name)) = some n then g else ({ g with latchA := none } : Group).letGo g.latchA

def Group.keepB (g : Group) (n : Nat) : Group :=
  if (g.latchB.map (·.name)) = some n then g else ({ g with latchB := none } : Group).letGo g.latchB

/-- The latches before a VF word's reads: `a` and `b` are its fields VA and VB. -/
def Group.vfLatches (g : Group) (a : Nat) (b : Option Nat) : Group :=
  match b with
  | some n => (g.keepA a).keepB n
  | none => g.keepA a

/-- Latch A, or B, after the use of its field: held with the hold bit, otherwise released (08, R157, rule 1); a queue entry
is never held. -/
def Group.holdA (g : Group) (n : Nat) (hold : Bool) : Group :=
  if hold && !(g.name n).isQueue then { g with latchA := some ⟨n, g.latchA.any (·.free)⟩ }
  else ({ g with latchA := none } : Group).letGo g.latchA

def Group.holdB (g : Group) (n : Nat) (hold : Bool) : Group :=
  if hold && !(g.name n).isQueue then { g with latchB := some ⟨n, g.latchB.any (·.free)⟩ }
  else ({ g with latchB := none } : Group).letGo g.latchB

/-- A VF word: `a` with its last-read and hold bits in latch A, `b` in latch B where the word has it; `acc` where the
destination is read too.  Hold bits never change a value (08, R157-R159). -/
def State.vfword (s : State) (d : Nat) (a : Src) (ha : Bool) (b : Option (Src × Bool)) (acc : Bool)
    (f : List Lanes → Lanes × W64) : Res Resident :=
  let srcs := [a] ++ (match b with
    | some (x, _) => [x]
    | none => []) ++ (if acc then [⟨d, false⟩] else [])
  match (s.cur.g.vfLatches a.n (b.map (·.1.n))).readSrcs srcs with
  | .error n => s.emptyTrap (s.cur.g.vfLatches a.n (b.map (·.1.n))) srcs (some d) n
  | .ok (vs, g) =>
    let g := g.holdA a.n ha
    let g := match b with
      | some (x, hb) => g.holdB x.n hb
      | none => g
    let g := g.lastRead (some d) a
    let g := match b with
      | some (x, _) => g.lastRead (some d) x
      | none => g
    let r := f vs
    (s.writeName g d s.exec' r.1).bind fun g => .ok { s.cur with g := { g with fflg := g.fflg ||| r.2 } }

/-- Names `n` to `n + k - 1` exist and none is a configured queue (08, R154; cause 0x03). -/
def State.spanOk (s : State) (n k : Nat) (r : Res α) : Res α :=
  if 128 < n + k then .trap 0x03 s.exec' (BitVec.ofNat 64 (n + k - 1))
  else
    match (List.range k).find? fun i => !s.cur.sl.scalar && (s.cur.g.name (n + i)).isQueue with
    | some i => .trap 0x03 s.exec' (BitVec.ofNat 64 (n + i))
    | none => r

/-! ## Results that arrive later (08, R156; 06, R110) -/

/-- The newest entry of a list given the value `x`. -/
def setLast {α : Type} : List α → α → List α
  | [], _ => []
  | [_], x => [x]
  | h :: h' :: t, x => h :: setLast (h' :: t) x

/-- The register of a load is taken at issue and holds what it held; its value comes at completion. -/
def State.reserve (s : State) (g : Group) (d : Dest) : Res Group :=
  if s.cur.sl.scalar then .ok g
  else
    match d with
    | .vec n => s.writeName g n 0 zeroLanes
    | .bcast n => s.writeName g n 0 zeroLanes
    | _ => .ok g

/-- A result delivered to its destination in the lanes of `m`: the newest entry of a queue, the name, lane 0's value to a
scalar register, or nowhere.  The name is as it stands then: a `syswr` to its depth register in between, which no interlock
holds back, decides which of these it is (DESIGN CHOICE, log 102). -/
def Group.fill (g : Group) (n : Nat) (m : Mask) (x : Lanes) : Group :=
  match g.name n with
  | .queue k es => (g.setName n (.queue k (setLast es (merge m x zeroLanes)))).touch n
  | .mapped old => (g.setName n (.mapped (merge m x old))).touch n
  | .unmapped => (g.setName n (.mapped (merge m x zeroLanes))).touch n

def Resident.deliver (r : Resident) (d : Dest) (m : Mask) (x : Lanes) : Resident :=
  match d with
  | .nowhere => r
  | .scal n => { r with sl := r.sl.wr n (lane x 0) }
  | .vec n => if r.sl.scalar then { r with sl := r.sl.wr n (lane x 0) } else { r with g := r.g.fill n m x }
  | .bcast n => { r with g := r.g.fill n m (tab fun _ => lane x 0) }

/-- The address of the lowest lane of an operation whose data is uncorrectable. -/
def Op.badVa (o : Op) : W64 :=
  match o.acc.find? fun p => p.st == .bad with
  | some p => p.va
  | none => 0

/-- The values an operation's accesses have returned, by lane. -/
def gotLanes (l : List Access) : Lanes :=
  tab fun k => match l.find? fun a => a.lane == k with
    | some a => a.got
    | none => 0

end Sys2Proof.Machine
end

