-- ==== Sys2Proof/Machine/MemOps.lean ====
section
/-! DEFINITION. Issuing and completing the operations of a slice, and the checks of addresses (02, 06, 14, 15). -/

namespace Sys2Proof.Machine

/-! ## Flags and issue (02, R15-R17) -/

/-- The flag's count can rise (02, R15). -/
def State.flagFree (s : State) (f : Option Nat) : Bool :=
  match f with
  | some n => decide (kvGet 0 s.cur.sl.flags n < 63)
  | none => true

/-- The bytes of a location that an access covers. -/
def accMask (pa size : Nat) : BitVec 8 := BitVec.ofNat 8 ((2 ^ size - 1) * 2 ^ (pa % 8))

/-- A value of `size` bytes at its place in the dword. -/
def placed (pa : Nat) (v : W64) : W64 := v <<< (8 * (pa % 8))

/-- The part of a dword that an access of `size` bytes at `pa` names, zero-extended. -/
def picked (pa size : Nat) (v : W64) : W64 :=
  BitVec.ofNat 64 (v.toNat / 2 ^ (8 * (pa % 8)) % 2 ^ (8 * size))


/-- The entry of the store buffer for one access of a store (15, R260, ENTER). -/
def Access.enter (seq op : Nat) (a : Access) : List OwnWrite :=
  match a.tgt with
  | .mem pa _ => [{ seq := seq, op := op, x := pa / 8 * 8, mask := accMask pa a.size, data := placed pa a.data, w := none }]
  | _ => []

/-- The clock of a store that leaves die `d` now: what the die has applied, and every write it has stamped (15, R260). -/
def State.leaveClk (s : State) (d : Nat) : Stamp := (s.clock d).set d (s.stampNo d)

/-- The clock an operation has at issue: the die's; a bag operation is as a store that leaves now (05, R96). -/
def State.issueClk (s : State) (k : OpKind) : Stamp :=
  match k with
  | .bag _ _ _ _ _ _ => s.leaveClk s.die
  | _ => s.clock s.die

/-- The word's operation joins the slice's outstanding operations and counts on its flag; a store enters the store
buffer. -/
def State.issue (s : State) (k : OpKind) (f : Option Nat) (acc : List Access) : State :=
  let x := s.cur.sl
  let o : Op := { id := s.nextId, seq := x.nextSeq, kind := k, flag := f, exec := s.exec', word := s.cur.wordAddr,
                  acc := acc, clk := s.issueClk k, fl := 0 }
  { s with
    nextId := s.nextId + 1
    cur := { s.cur with sl := { x.raise f with
      nextSeq := x.nextSeq + 1
      ops := x.ops ++ [o]
      own := if k = .store then x.own ++ (acc.map (Access.enter x.nextSeq s.nextId)).flatten else x.own } } }

/-! ## Scratchpad addresses (06, R107) -/

/-- The team whose lines a scratchpad address names, and the byte of its lines; the cause where it names none. -/
def State.spadTarget (s : State) (team : Nat) (x : W64) (size : Nat) : Except Nat (Nat × Nat) :=
  let n := x.toNat
  if n % (size / 2) ≠ 0 then .error 0x09
  else if n / 2 ^ 24 ≠ 0 then .error 0x15
  else
    match alFind s.teams team with
    | none => .error 0x15
    | some t =>
      let c := n / 2 ^ 20 % 16
      let line := n / 2 ^ 10 % 1024
      let byte := line * 2048 + 2 * (n % 1024)
      if c = 15 then if t.scrl ≤ line then .error 0x15 else .ok (team, byte)
      else
        let cores := match alFind s.clusters t.cluster with
          | some k => k.width * k.height
          | none => 1
        if 12 ≤ c ∨ cores ≤ c then .error 0x15
        else
          match s.teams.find? fun p => p.2.cluster == t.cluster && p.2.cidx == c && !p.2.ended && !p.2.isTask with
          | none => .error 0x15
          | some (k, t') => if t'.scrl ≤ line then .error 0x15 else .ok (k, byte)

/-- The tag entry of a line after a load word has read it: AGE 0 in a clean or dirty line (06, R108). -/
def tagAfterLoad (t : W64) : W64 := if t.toNat / 2 ^ 63 = 1 then t &&& ~~~(0x3F00_0000_0000_0000#64) else t

/-- The tag entry of a line after a group's store: clean becomes dirty (06, R108). -/
def tagAfterStore (t : W64) : W64 := if t.toNat / 2 ^ 62 = 2 then t ||| 0xC000_0000_0000_0000#64 else t

def Team.tag (t : Team) (line : Nat) (f : W64 → W64) : Team := { t with tags := kvPut 0 t.tags line (f (kvGet 0 t.tags line)) }

/-- `n` scratchpad bytes of a team.  An access that was checked while the team stood and is performed after its end reads 0,
and a store then is lost (log 88). -/
def State.spadRead (s : State) (team off n : Nat) : List Byte :=
  match alFind s.teams team with
  | some t => readBytes t.mem off n
  | none => List.replicate n 0

/-- Bytes written to lines of a team while a matrix word reads its B tile there: each is one of the values the word may read
(13, R237). -/
def MatJob.written (j : MatJob) (team off : Nat) (bs : List Byte) : MatJob :=
  if j.team ≠ team ∨ j.b = [] then j
  else { j with mid := j.mid ++ ((List.range bs.length).zip bs).filterMap fun p =>
           if j.tile ≤ off + p.1 ∧ off + p.1 < j.tile + j.b.length then some (off + p.1 - j.tile, p.2) else none }

/-- The cores once the matrix words there know of bytes written to lines of a team. -/
def State.coresTold (s : State) (team off : Nat) (bs : List Byte) : Kv Core :=
  match alFind s.teams team with
  | some t => if (s.core t.core).mjobs = [] then s.cores
              else (s.modCore t.core fun c => { c with mjobs := c.mjobs.map fun j => j.written team off bs }).cores
  | none => s.cores

/-- Scratchpad bytes of a team written, tags left alone. -/
def State.spadWrite (s : State) (team off : Nat) (bs : List Byte) : State :=
  { s with
    teams := alMod s.teams team fun t => { t with mem := writeBytes t.mem off bs }
    cores := s.coresTold team off bs }

/-! ## Checks of the lanes of a word (06, R110, R111) -/

/-- One checked address: lane, address, and its target with the walk passed, or the cause it meets. -/
structure Checked where
  lane : Nat
  va   : W64
  res  : Except Nat (Target × List Nat)

/-- A virtual address of `size` bytes: alignment, then translation and protection. -/
def State.checkVa (s : State) (va : W64) (size : Nat) (n : Need) : Except Nat (Target × List Nat) :=
  if va.toNat % size ≠ 0 then .error 0x09
  else
    match s.translate va n with
    | .error c => .error c
    | .ok t => .ok (.mem t.pa t.hc, t.path)

def State.checkSpa (s : State) (x : W64) (size : Nat) : Except Nat (Target × List Nat) :=
  match s.spadTarget s.cur.g.team x size with
  | .error c => .error c
  | .ok (t, o) => .ok (.spad t o, [])

def Checked.meets (c : Checked) (k : Nat) : Bool :=
  match c.res with
  | .error e => e == k
  | .ok _ => false

/-- The order in which causes are taken; an unreadable table entry comes last (06, R111; 20, R354). -/
def causeOrder : List Nat := [0x09, 0x07, 0x08, 0x15, 0x0F, 0x0A]

/-- The first cause any lane meets, the lanes that meet it, the address of the lowest. -/
def firstCause (l : List Checked) : Option (Nat × Mask × W64) :=
  match causeOrder.find? fun k => l.any (·.meets k) with
  | none => none
  | some k =>
    some (k, maskOf (fun n => l.any fun c => c.lane == n && c.meets k),
          match l.find? (·.meets k) with
          | some c => c.va
          | none => 0)

/-- The accesses of checked lanes. -/
def accessesOf (l : List Checked) (size : Nat) (data new : Nat → W64) : List Access :=
  l.filterMap fun c => match c.res with
    | .ok (t, _) => some { lane := c.lane, va := c.va, tgt := t, size := size, data := data c.lane, new := new c.lane,
                           got := 0, st := .waiting }
    | .error _ => none

def pathsOf (l : List Checked) : List (List Nat) :=
  l.filterMap fun c => match c.res with
    | .ok (_, p) => some p
    | .error _ => none

/-- A misaligned lane traps before the causes that a word's entry defines (02, R37). -/
def State.alignFirst (l : List Checked) (r : Res α) : Res α :=
  match firstCause (l.filter (·.meets 0x09)) with
  | some (c, m, a) => .denied c m a .write
  | none => r

/-- A result's register taken (`reserve`): a full queue's 0x05 comes after a misaligned lane (02, R37). -/
def State.reserveAt (s : State) (g : Group) (d : Dest) (l : List Checked) : Res Group :=
  match s.reserve g d with
  | .trap 0x05 m a => State.alignFirst l (.trap 0x05 m a)
  | r => r

/-- A word that has checked its lanes: the trap of R111 (a scalar access reports EXEC, R116), or `k` on the state with
the walks marked. -/
def State.checkedWord (s : State) (l : List Checked) (n : Need) (scalarWord : Bool) (k : State → Res State) : Res State :=
  match firstCause l with
  | some (c, m, a) => .denied c (if scalarWord || c == 0x0A then s.exec' else m) a n
  | none => k (s.markAll (pathsOf l) n)

/-! ## Completion (02, R15; 06, R110; 14, R256; 15, R267) -/

def AccState.isDone : AccState → Bool
  | .done => true
  | _ => false


/-- The write of an access has been applied at its home. -/
def State.accHome (s : State) (a : Access) : Bool :=
  match a.st with
  | .done => true
  | .sent w =>
    match a.tgt with
    | .mem pa _ => s.appliedAt w ((homeOf pa).getD 4)
    | .home pa => s.appliedAt w ((homeOf pa).getD 4)
    | _ => true
  | _ => false

/-- Write `w` has been applied at every agent of a set. -/
def State.appliedAtAll (s : State) (w : Nat) (agents : BitVec 5) : Bool :=
  (List.range 5).all fun e => !agents.getLsbD e || s.appliedAt w e

/-- The operation writes memory, scratchpad or a bag: a member of E of R267. -/
def OpKind.writes : OpKind → Bool
  | .store => true
  | .atomic _ _ _ _ _ => true
  | .bag _ _ _ _ _ _ => true
  | _ => false

def OpKind.fetches : OpKind → Bool
  | .load _ => true
  | .opq _ _ => true
  | .atomic _ _ .nowhere _ _ => false
  | .atomic _ _ _ _ _ => true
  | _ => false

/-- Every access of the operation has drained or been performed (R267); an operand-queue load is when its entry has
arrived. -/
def Op.drained (o : Op) : Bool :=
  match o.kind with
  | .opq _ _ => false
  | _ => o.acc.all fun a => a.st.performed

/-- An access has drained, into a fabric channel included, or been performed; for a system scope the destination package
has answered it (R266, R269). -/
def Access.out (a : Access) (sys : Bool) : Bool := a.st.performed || (!sys && a.st == .asked)

/-- An own write to another package has drained into its channel. -/
def Slice.inChannel (x : Slice) (w : OwnWrite) : Bool :=
  (homeOf w.x).isNone && x.ops.all fun o => o.id != w.op || o.acc.all fun a => a.loc != some w.x || a.st != .waiting

/-- The release part of a fence is complete. -/
def State.releaseDone (s : State) (x : Slice) (seq : Nat) (agents : BitVec 5) (sys : Bool) (queues : BitVec 8) : Bool :=
  (x.ops.all fun o => !(decide (o.seq < seq)) || match o.kind with
    | .bag _ _ _ _ _ _ => false
    | .engine q _ => !queues.getLsbD q
    | k => !k.writes || o.acc.all (·.out sys)) &&
  (x.own.all fun w => !(decide (w.seq < seq)) || match w.w with
    | some i => s.appliedAtAll i agents
    | none => !sys && x.inChannel w) &&
  (x.behind.all fun b => !(decide (b.2.1 < seq)) || !queues.getLsbD b.1 || s.appliedAtAll b.2.2 agents)

/-- The acquire part of a fence is complete. -/
def acquireDone (x : Slice) (seq : Nat) : Bool :=
  x.ops.all fun o => !(decide (o.seq < seq)) || !o.kind.fetches || o.drained

/-- Rows of a drain have still to enter a gate queue (18, R318). -/
def State.feeding (s : State) (id : Nat) : Bool := s.lanterns.any fun l => l.2.feeds.any fun f => f.1 == id

/-- The operation has completed. -/
def State.opDone (s : State) (x : Slice) (o : Op) : Bool :=
  match o.kind with
  | .load _ => o.acc.all fun a => a.st.isDone || (x.ended && a.st == .bad)
  | .store => o.acc.all s.accHome && !s.feeding o.id
  | .atomic _ _ _ agents _ => o.acc.all fun a => match a.st with
      | .done => true
      | .bad => x.ended
      | .sent w => s.accHome a && s.appliedAtAll w agents
      | _ => false
  | .bag _ _ _ _ _ _ => o.acc != [] && o.acc.all fun a => a.st.isDone
  | .fence rel acq agents sys queues =>
    (!rel || s.releaseDone x o.seq agents sys queues) && (!acq || acquireDone x o.seq)
  | _ => false

/-- A fetching atomic's old values have all returned: its register can be written. -/
def Op.answered (o : Op) : Bool := o.acc.all fun a => a.st.performed && a.st != .bad

/-- The operation leaves the slice: its flag falls, its value is delivered, its sticky flags are set. -/
def Resident.complete (r : Resident) (o : Op) : Resident :=
  let r := { r with sl := { r.sl.lower o.flag with ops := r.sl.ops.filter fun p => p.id != o.id } }
  let r := { r with g := { r.g with fflg := r.g.fflg ||| o.fl } }
  match o.kind with
  | .load d => r.deliver d o.exec (gotLanes o.acc)
  | .atomic _ _ d _ _ => r.deliver d o.exec (gotLanes o.acc)
  | .bag _ d _ _ _ _ => { r with sl := r.sl.wr d ((o.acc.map (·.got)).headD 0) }
  | _ => r

/-- A fetching atomic whose old values have all returned: its register is written, before its write has spread as far as
its completion asks (14, R256). -/
def Resident.answer (r : Resident) (o : Op) : Resident :=
  match o.kind with
  | .atomic k w64 d agents sys =>
    if d = .nowhere ∨ !o.answered then r
    else
      ({ r with sl := { r.sl with ops := r.sl.ops.map fun p =>
          if p.id = o.id then { p with kind := .atomic k w64 .nowhere agents sys } else p } } : Resident).deliver d o.exec (gotLanes o.acc)
  | _ => r

/-- A release is complete: the bag operations behind it leave the die no earlier, as stores there would (05, R96). -/
def State.freeBags (s : State) (o : Op) (r : Resident) : Resident :=
  match o.kind with
  | .fence true _ _ _ _ =>
    { r with sl := { r.sl with ops := r.sl.ops.map fun p => match p.kind with
        | .bag _ _ _ _ _ _ => if o.seq < p.seq then { p with clk := s.leaveClk ({ s with cur := r } : State).die } else p
        | _ => p } }
  | _ => r

/-- Completed operations leave, in program order. -/
def State.settleOps (s : State) (r : Resident) : List Op → Resident
  | [] => r
  | o :: t => s.settleOps (if s.opDone r.sl o then s.freeBags o (r.complete o) else r.answer o) t

/-- A slice settled: completed operations leave, and its writes that every agent has applied are forgotten. -/
def State.settleRes (s : State) (r : Resident) : Resident :=
  let r := s.settleOps r r.sl.ops
  { r with sl := { r.sl with
      own := r.sl.own.filter fun o => match o.w with
        | some w => s.writes.any fun p => p.id == w
        | none => true
      behind := r.sl.behind.filter fun b => s.writes.any fun p => p.id == b.2.2 } }

/-- Both slices of a group settled. -/
def State.settleBoth (s : State) (r : Resident) : Resident :=
  let r := s.settleRes r
  match r.g.companion with
  | none => r
  | some x =>
    let q := s.settleRes { g := { r.g with companion := some r.sl }, sl := x }
    { g := { q.g with companion := some q.sl }, sl := r.sl }

/-- A group that has left its quarter, with nothing of it under way any more (16, R275). -/
def Resident.over (r : Resident) : Bool := r.g.gone.isSome && r.sl.ops == [] && r.g.companion.all fun x => x.ops == []

/-- Every slice settled after a step of an agent. -/
def State.settle (s : State) : State :=
  let r := s.settleBoth s.cur
  { s with cur := if r.over then ⟨Group.idle, Slice.idle .execute⟩ else r
           others := (s.others.map s.settleBoth).filter fun r => !r.over }

end Sys2Proof.Machine
end

