-- ==== Sys2Proof/Machine/Memory.lean ====
section
/-! DEFINITION. The MEM words but for the frame operands and vstb (06, R110-R116; 07, R144). -/

namespace Sys2Proof.Machine

/-- A word that is not in the scalar profile (02, R21). -/
def State.vectorOnly (s : State) (r : Res α) : Res α := if s.cur.sl.scalar then .trap 0x02 s.exec' s.wordAux else r

/-- A word that sets a flag waits while the flag's count is 63 (02, R15). -/
def State.flagged (s : State) (f : Option Nat) (r : Res α) : Res α := if s.flagFree f then r else .stall

/-- The per-lane offsets of the M format, sign-extended from 32 bits (R113). -/
def offOf (x : Lanes) (l : Nat) : W64 := ((lane x l).setWidth 32).signExtend 64

/-- The lanes of EXEC checked at their addresses. -/
def State.checkLanes (s : State) (spad : Bool) (n : Need) (a : Nat → W64) : List Checked :=
  (lanesOf s.exec').map fun l => ⟨l, a l, if spad then s.checkSpa (a l) 8 else s.checkVa (a l) 8 n⟩

/-- A vector load: destination taken, lanes checked, the loads outstanding (R110, R113). -/
def State.vload (s : State) (d : Nat) (g : Group) (spad : Bool) (f : Option Nat) (a : Nat → W64) : Res State :=
  let l := s.checkLanes spad .read a
  (s.reserveAt g (.vec d) l).bind fun g =>
    s.checkedWord l .read false fun s =>
      .ok ((s.setG fun _ => g).issue (.load (.vec d)) f (accessesOf l 8 (fun _ => 0) fun _ => 0))

/-- A vector store: lanes checked, the stores enter the store buffer in ascending lane order (R110, R112). -/
def State.vstore (s : State) (x : Lanes) (g : Group) (spad : Bool) (f : Option Nat) (a : Nat → W64) : Res State :=
  let l := s.checkLanes spad .write a
  s.checkedWord l .write false fun s =>
    .ok ((s.setG fun _ => g).issue .store f (accessesOf l 8 (lane x) fun _ => 0))

/-- The flag a MEM or SYNC word sets (02, R16). -/
def State.fsFlag (s : State) (f : BitVec 1) : Option Nat := s.cur.flagSel f.toNat

/-- vld and vlds (R113). -/
def State.loadOff (s : State) (spad : Bool) (d : BitVec 7) (b : BitVec 9) (o : BitVec 7) (v f : BitVec 1) : Res State :=
  s.vectorOnly (s.flagged (s.fsFlag f) ((s.sources [⟨o.toNat, v == 1⟩] (some d.toNat)).bind fun (vs, g) =>
    s.vload d.toNat g spad (s.fsFlag f) fun l => s.rd b.toNat + offOf (vs.getD 0 zeroLanes) l))

/-- The lanes of a per-lane store at the offsets of VOFF7; none where that name is an empty queue. -/
def State.offLanes (s : State) (spad : Bool) (b : BitVec 9) (o : BitVec 7) : List Checked :=
  match s.sources [⟨o.toNat, false⟩] none with
  | .ok (vs, _) => s.checkLanes spad .write fun l => s.rd b.toNat + offOf (vs.getD 0 zeroLanes) l
  | _ => []

/-- vst and vsts (R113).  Where VOFF7 and VD name one queue, VOFF7 takes the older entry (DESIGN CHOICE, log 83). -/
def State.storeOff (s : State) (spad : Bool) (d : BitVec 7) (b : BitVec 9) (o : BitVec 7) (v f : BitVec 1) : Res State :=
  s.vectorOnly (s.flagged (s.fsFlag f) (State.alignFirst (s.offLanes spad b o) (
    (s.sources [⟨o.toNat, v == 1⟩, ⟨d.toNat, false⟩] none).bind fun (vs, g) =>
      s.vstore (vs.getD 1 zeroLanes) g spad (s.fsFlag f) fun l => s.rd b.toNat + offOf (vs.getD 0 zeroLanes) l)))

/-- The address of lane `l` of a unit-stride block: 256 bytes at a VA, 128 units of two bytes at an SPA (R114). -/
def State.unitAddr (s : State) (spad : Bool) (b : BitVec 9) (i : BitVec 8) (l : Nat) : W64 :=
  if spad then s.rd b.toNat + BitVec.ofNat 64 (128 * i.toNat + 4 * l)
  else s.rd b.toNat + BitVec.ofNat 64 (256 * i.toNat + 8 * l)

def State.loadUnit (s : State) (spad : Bool) (d : BitVec 7) (b : BitVec 9) (i : BitVec 8) (f : BitVec 1) : Res State :=
  s.vectorOnly (s.flagged (s.fsFlag f) (s.vload d.toNat s.cur.g spad (s.fsFlag f) (s.unitAddr spad b i)))

def State.storeUnit (s : State) (spad : Bool) (d : BitVec 7) (b : BitVec 9) (i : BitVec 8) (f : BitVec 1) : Res State :=
  s.vectorOnly (s.flagged (s.fsFlag f) (State.alignFirst (s.checkLanes spad .write (s.unitAddr spad b i)) (
    (s.sources [⟨d.toNat, false⟩] none).bind fun (vs, g) =>
      s.vstore (vs.getD 0 zeroLanes) g spad (s.fsFlag f) (s.unitAddr spad b i))))

def execVld (d : BitVec 7) (b : BitVec 9) (o : BitVec 7) (v f : BitVec 1) (s : State) : Host.Outcome State Fault Refusal :=
  s.run (s.loadOff false d b o v f)

def execVst (d : BitVec 7) (b : BitVec 9) (o : BitVec 7) (v f : BitVec 1) (s : State) : Host.Outcome State Fault Refusal :=
  s.run (s.storeOff false d b o v f)

def execVlds (d : BitVec 7) (b : BitVec 9) (o : BitVec 7) (v f : BitVec 1) (s : State) : Host.Outcome State Fault Refusal :=
  s.run (s.loadOff true d b o v f)

def execVsts (d : BitVec 7) (b : BitVec 9) (o : BitVec 7) (v f : BitVec 1) (s : State) : Host.Outcome State Fault Refusal :=
  s.run (s.storeOff true d b o v f)

def execVldu (d : BitVec 7) (b : BitVec 9) (i : BitVec 8) (f : BitVec 1) (s : State) : Host.Outcome State Fault Refusal :=
  s.run (s.loadUnit false d b i f)

def execVstu (d : BitVec 7) (b : BitVec 9) (i : BitVec 8) (f : BitVec 1) (s : State) : Host.Outcome State Fault Refusal :=
  s.run (s.storeUnit false d b i f)

def execVldsu (d : BitVec 7) (b : BitVec 9) (i : BitVec 8) (f : BitVec 1) (s : State) : Host.Outcome State Fault Refusal :=
  s.run (s.loadUnit true d b i f)

def execVstsu (d : BitVec 7) (b : BitVec 9) (i : BitVec 8) (f : BitVec 1) (s : State) : Host.Outcome State Fault Refusal :=
  s.run (s.storeUnit true d b i f)

/-! ## Scalar accesses (R116): once for the slice, whatever EXEC holds -/

def State.scalarAddr (s : State) (b : BitVec 9) (i : BitVec 6) : W64 := s.rd b.toNat + BitVec.ofNat 64 (8 * i.toNat)

def State.scalarLoad (s : State) (d b : BitVec 9) (i : BitVec 6) (f : BitVec 1) (size : Nat) : Res State :=
  s.flagged (s.fsFlag f) (s.destOk d.toNat (
    let a := s.scalarAddr b i
    let l := [⟨0, a, s.checkVa a size .read⟩]
    s.checkedWord l .read true fun s =>
      .ok (s.issue (.load (.scal d.toNat)) (s.fsFlag f) (accessesOf l size (fun _ => 0) fun _ => 0))))

def execSld (d b : BitVec 9) (i : BitVec 6) (f : BitVec 1) (s : State) : Host.Outcome State Fault Refusal :=
  s.run (s.scalarLoad d b i f 8)

def execSldw (d b : BitVec 9) (i : BitVec 6) (f : BitVec 1) (s : State) : Host.Outcome State Fault Refusal :=
  s.run (s.scalarLoad d b i f 4)

def execSst (d b : BitVec 9) (i : BitVec 6) (f : BitVec 1) (s : State) : Host.Outcome State Fault Refusal :=
  s.run (s.flagged (s.fsFlag f) (
    let a := s.scalarAddr b i
    let l := [⟨0, a, s.checkVa a 8 .write⟩]
    s.checkedWord l .write true fun s' =>
      .ok (s'.issue .store (s'.fsFlag f) (accessesOf l 8 (fun _ => s.rd d.toNat) fun _ => 0))))

/-! ## vpop (07, R144) -/

/-- An access slice of the group still runs. -/
def Group.accessRuns (g : Group) : Bool :=
  match g.companion with
  | some x => x.kind == .access && !x.ended
  | none => false

/-- The lanes' addresses of an entry, and the walks of its index block: a unit-stride block, or the base plus the indices
of `oldg` (R143), read by the word at a place in program order. -/
def State.entryAddrs (s : State) (seq : Nat) (e : OqEntry) : Except (Nat × W64) (List W64 × List (List Nat)) :=
  match e.idx with
  | none => .ok ((List.range 32).map (fun l => e.base + BitVec.ofNat 64 ((if e.ssp then 4 else 8) * l)), [])
  | some va =>
    match s.readVasAt seq va 32 with
    | .ok (xs, ps) => .ok (xs.map (e.base + ·), ps)
    | .error c => .error c

/-- The lanes of an entry checked as those of vld or vlds. -/
def State.entryChecks (s : State) (e : OqEntry) (addrs : List W64) : List Checked :=
  (List.range 32).map fun k =>
    let a := addrs.getD k 0
    ⟨k, a, if e.ssp then s.checkSpa a 8 else s.checkVa a 8 .read⟩

/-- The value of a checked lane of an entry that is loaded again. -/
def State.entryValue (s : State) (c : Checked) : W64 :=
  match c.res with
  | .ok (.mem pa _, _) => ownOver (s.visible s.die s.cur.sl.own) s.cur.sl.nextSeq pa (s.seen s.die pa)
  | .ok (.spad t o, _) => BitVec.ofNat 64 (leNat (s.spadRead t o 8))
  | _ => 0

/-- The lane's data is uncorrectable, where the slice's own writes do not give it (15, R260). -/
def State.entryBad (s : State) (c : Checked) : Bool :=
  match c.res with
  | .ok (.mem pa _, _) => s.unreadableAt s.die pa &&
      !s.ownGives s.die (s.visible s.die s.cur.sl.own) s.cur.sl.nextSeq pa (BitVec.allOnes 8)
  | _ => false

/-- A failed entry loaded again from its recorded addresses (R144): the entry that results and the walks; none where it
may not be read yet. -/
def State.reload (s : State) (e : OqEntry) : Option (OqEntry × List (List Nat)) :=
  let e := { e with told := false, again := false }
  match s.entryAddrs s.cur.sl.nextSeq e with
  | .error (c, _) => if c = notYet then none else some ({ e with cause := c, addr := e.idx.getD 0 }, [])
  | .ok (addrs, ps) =>
    let l := s.entryChecks e addrs
    match firstCause l with
    | some (c, _, a) => some ({ e with cause := c, addr := a }, ps)
    | none =>
      let early := l.any fun c => match c.res with
        | .ok (.mem pa _, _) => !s.cur.sl.earlierAt s.cur.sl.nextSeq (pa / 8 * 8)
        | _ => false
      if !s.cur.sl.acquired s.cur.sl.nextSeq || early then none
      else
        match l.find? s.entryBad with
        | some c => some ({ e with cause := 0x0A, addr := c.va }, ps ++ pathsOf l)
        | none => some ({ e with cause := 0, data := tab fun k => s.entryValue (l.getD k ⟨k, 0, .error 0⟩) }, ps ++ pathsOf l)

/-- A word's flag can be raised; a word that waits counts on its flag already (02, R15). -/
def State.mayWait (s : State) (f : Option Nat) : Bool := s.cur.sl.wait.isSome || s.flagFree f

/-- The head entry of an operand queue popped, the rest of the queue left. -/
def State.popOq (s : State) (d q : Nat) (e : OqEntry) (rest : List OqEntry) : Res Resident :=
  (s.writeName s.cur.g d s.exec' e.data).bind fun g =>
    .ok { g := { g with oq := kvPut [] g.oq q rest }, sl := s.cur.sl.clearWait }

/-- vpop (R144).  Its destination's cause 0x03 comes first (02, R37).  A failed head traps and stays; after the handler's
return it is loaded again. -/
def execVpop (d : BitVec 7) (q : BitVec 2) (f : BitVec 1) (s : State) : Host.Outcome State Fault Refusal :=
  let fl := s.fsFlag f
  let n := q.toNat
  let put := fun (l : List OqEntry) => s.setG fun g => { g with oq := kvPut [] g.oq n l }
  if s.cur.sl.scalar then .next (s.trap 0x02 s.exec' s.wordAux)
  else if s.cur.g.full d.toNat then .next (s.trap 0x03 s.exec' (BitVec.ofNat 64 d.toNat))
  else if !s.mayWait fl then .next s
  else
    match kvGet [] s.cur.g.oq n with
    | [] => .next (if s.cur.g.accessRuns then s.setWait fl (.opQueue n)
        else s.clearWait.trap 0x13 s.exec' (BitVec.ofNat 64 n))
    | e :: t =>
      if !e.arrived then .next (s.setWait fl (.opQueue n))
      else if e.cause = 0 then s.runCur (s.popOq d.toNat n e t)
      else if !e.again then .next ((put ({ e with told := true } :: t)).trapTold e.cause s.exec' e.addr)
      else
        match s.reload e with
        | none => .next s
        | some (e, ps) =>
          let s := s.markAll ps .read
          if e.cause = 0 then s.runCur (s.popOq d.toNat n e t)
          else .next ((s.setG fun g => { g with oq := kvPut [] g.oq n ({ e with told := true } :: t) }).trap
            e.cause s.exec' e.addr)

end Sys2Proof.Machine
end

