-- ==== Sys2Proof/Machine/Ctrl.lean ====
section
/-! DEFINITION. The clause header, the repeat prefix and the CTRL words but for the frame members (02, 16, 20). -/

namespace Sys2Proof.Machine


/-- Every flag of a WAIT field is clear (02, R14). -/
def flagsClear (flags : Kv Nat) (w : Nat) : Bool :=
  (List.range 12).all fun n => w / 2 ^ n % 2 == 0 || kvGet 0 flags n == 0

/-- CLAUSE_HEADER (02, R12, R14, R20): the stream's profile, then the WAIT flags, tested once; then the first word. -/
def execClauseHeader (c n : BitVec 4) (w : BitVec 12) (a b : BitVec 4) (y : BitVec 1) (s : State) :
    Host.Outcome State Fault Refusal :=
  if !(Instr.clauseHeader c n w a b y).wf || !s.cur.sl.kind.allows c.toNat then .next (s.trap 0x01 s.exec' s.wordAux)
  else if flagsClear s.cur.sl.flags w.toNat then
    .next (s.setSl fun x => { x with clause := x.clause.map fun k => { k with idx := 1 } })
  else .next s

/-- RPT (02, R32): the prefix issues nothing; its target comes next as issue 0 of CNT6 + 1. -/
def execRpt (c : BitVec 6) (d a b : BitVec 4) (s : State) : Host.Outcome State Fault Refusal :=
  .next (s.setSl fun x =>
    { x with clause := x.clause.map fun k => { k with idx := k.idx + 1 }
             rep := some { k := 0, n := c.toNat + 1, d := d.toInt, a := a.toInt, b := b.toInt } })

/-! ## Branches (16, R279-R282) -/

/-- The word is the last of its clause (02, R29). -/
def State.lastWord (s : State) : Bool :=
  match s.cur.sl.clause with
  | some c => c.idx == c.cnt
  | none => true

/-- A branch-type word that stands elsewhere traps (02, R29). -/
def State.mustBeLast (s : State) (r : Res State) : Res State :=
  if s.lastWord then r else .trap 0x02 s.exec' s.wordAux

/-- P + 4 times the signed offset (02, R28). -/
def State.target (s : State) {n : Nat} (o : BitVec n) : W64 := s.cur.wordAddr + o.signExtend 64 * 4

def State.nextClause (s : State) : W64 := s.cur.nextAddr

/-- A scalar branch: every lane of EXEC the same way (R280). -/
def State.branchIf (s : State) (c : Bool) (t : W64) : Res State :=
  s.mustBeLast (.ok (s.branch fun _ => if c then t else s.nextClause))

def execBra (o : BitVec 25) (s : State) : Host.Outcome State Fault Refusal :=
  s.runBranch (s.branchIf true (s.target o))

def execBz (r : BitVec 9) (o : BitVec 16) (s : State) : Host.Outcome State Fault Refusal :=
  s.runBranch (s.branchIf (s.rd r.toNat == 0) (s.target o))

def execBnz (r : BitVec 9) (o : BitVec 16) (s : State) : Host.Outcome State Fault Refusal :=
  s.runBranch (s.branchIf (s.rd r.toNat != 0) (s.target o))

def execBneg (r : BitVec 9) (o : BitVec 16) (s : State) : Host.Outcome State Fault Refusal :=
  s.runBranch (s.branchIf (s.rd r.toNat).msb (s.target o))

def execBnneg (r : BitVec 9) (o : BitVec 16) (s : State) : Host.Outcome State Fault Refusal :=
  s.runBranch (s.branchIf (!(s.rd r.toNat).msb) (s.target o))

/-- A per-lane branch (R280); in handler mode the condition must agree in every recorded lane (20, R347).  Not in the
scalar profile (02, R21). -/
def State.branchLanes (s : State) (a : Nat) (lr : Bool) (cond : W64 → Bool) (t : W64) : Res State :=
  if s.cur.sl.scalar then .trap 0x02 s.exec' s.wordAux
  else
    s.mustBeLast ((s.sources [⟨a, lr⟩] none).bind fun (vs, g) =>
      let x := vs.getD 0 zeroLanes
      let s' := s.setG fun _ => g
      if s.cur.sl.handler.isSome then
        if (lanesOf s.exec').all fun l => cond (lane x l) then .ok (s'.branch fun _ => t)
        else if (lanesOf s.exec').all fun l => !cond (lane x l) then .ok (s'.branch fun _ => s.nextClause)
        else .trap 0x02 s.exec' s.wordAux
      else .ok (s'.branch fun l => if cond (lane x l) then t else s.nextClause))

def execBvz (a : BitVec 7) (x : BitVec 1) (o : BitVec 17) (s : State) : Host.Outcome State Fault Refusal :=
  s.runBranch (s.branchLanes a.toNat (x == 1) (· == 0) (s.target o))

def execBvnz (a : BitVec 7) (x : BitVec 1) (o : BitVec 17) (s : State) : Host.Outcome State Fault Refusal :=
  s.runBranch (s.branchLanes a.toNat (x == 1) (· != 0) (s.target o))

/-- A target computed from a register must be a multiple of 4 (02, R28; cause 0x09). -/
def State.aligned4 (s : State) (t : W64) (r : Res State) : Res State :=
  if t.toNat % 4 = 0 then r else .trap 0x09 s.exec' t

/-- call (R281). -/
def execCall (o : BitVec 25) (s : State) : Host.Outcome State Fault Refusal :=
  s.runBranch (s.mustBeLast (.ok ((s.wr 511 s.nextClause).branch fun _ => s.target o)))

/-- callr reads SA before it writes s511 (R281). -/
def execCallr (r : BitVec 9) (s : State) : Host.Outcome State Fault Refusal :=
  s.runBranch (s.mustBeLast (s.aligned4 (s.rd r.toNat)
    (.ok ((s.wr 511 s.nextClause).branch fun _ => s.rd r.toNat))))

def execJmpr (r : BitVec 9) (o : BitVec 16) (s : State) : Host.Outcome State Fault Refusal :=
  s.runBranch (s.mustBeLast (s.aligned4 (s.rd r.toNat + o.signExtend 64 * 4)
    (.ok (s.branch fun _ => s.rd r.toNat + o.signExtend 64 * 4))))

def execRet (s : State) : Host.Outcome State Fault Refusal :=
  s.runBranch (s.mustBeLast (s.aligned4 (s.rd 511) (.ok (s.branch fun _ => s.rd 511))))

/-- exit, vpark and yield trap in handler mode (20, R347). -/
def State.notInHandler (s : State) (r : Res State) : Res State :=
  if s.cur.sl.handler.isSome then .trap 0x02 s.exec' s.wordAux else r

/-- vpark: every lane of EXEC parks at the next clause, exempt from the rejoin test of this clause end (R273, R282). -/
def execVpark (s : State) : Host.Outcome State Fault Refusal :=
  s.runBranch (if s.cur.sl.scalar then .trap 0x02 s.exec' s.wordAux
    else s.mustBeLast (s.notInHandler (.ok { s with cur := s.cur.endClause (fun _ => s.nextClause) s.exec' })))

/-- yield: the group counts as having issued most recently in its class (R277, R282); an access slice goes behind the other
ready ones in the AAE's turn, and its group keeps its place (07, R142); `tick` numbers the steps. -/
def execYield (s : State) : Host.Outcome State Fault Refusal :=
  s.runBranch (s.mustBeLast (s.notInHandler
    (.ok ((if s.cur.sl.kind = .access then s.setSl fun x => { x with turn := s.tick }
           else s.setG fun g => { g with issued := s.tick }).branch fun _ => s.nextClause))))

/-! ## Traps and the return from one -/

/-- trap: cause 0x11 (R285). -/
def execTrap (r : BitVec 9) (i : BitVec 7) (s : State) : Host.Outcome State Fault Refusal :=
  .next (s.trap 0x11 s.exec' (BitVec.ofNat 64 (i.toNat * 2 ^ 56 + (s.rd r.toNat).toNat % 2 ^ 56)))

/-- brk: cause 0x12 (R285). -/
def execBrk (s : State) : Host.Outcome State Fault Refusal := .next (s.trap 0x12 s.exec' 0)

/-- The faulted load completes with its loaded values, replaced in the lanes of bad data, and its flag falls; of an atomic
the writes of the other lanes stay outstanding until its scope has them (20, R352, R353; 14, R256). -/
def Resident.completeLoad (r : Resident) (o : Op) (bad : Mask) (repl : Lanes) : Resident :=
  let size := match o.acc with
    | a :: _ => a.size
    | [] => 8
  let cut := fun v : W64 => if size = 4 then v &&& 0xFFFF_FFFF#64 else v
  let lanes := tab fun l => if inMask bad l then cut (lane repl l) else lane (gotLanes o.acc) l
  let one := tab fun _ => cut (lane repl ((lanesOf bad).headD 0))
  match o.kind with
  | .load d =>
    let r := { r with sl := r.sl.lower o.flag }
    match d with
    | .scal n => r.deliver (.scal n) o.exec one
    | .bcast n => r.deliver (.vec n) o.exec lanes
    | d => r.deliver d o.exec lanes
  | .atomic op w64 d agents sys =>
    let rest : Op := { o with kind := .atomic op w64 .nowhere agents sys
                              acc := o.acc.map fun a => if a.st = .bad then { a with st := .done } else a }
    { r with sl := { r.sl with ops := r.sl.ops ++ [rest] } }.deliver d o.exec (match d with
      | .scal _ => one
      | _ => lanes)
  | _ => r

/-- After the return from a handler, failed heads of operand queues are loaded again (07, R144). -/
def Group.heads (g : Group) : Group :=
  { g with oq := g.oq.map fun q => (q.1, q.2.map fun e => if e.told then { e with told := false, again := true } else e) }

/-- rfe (16, R287; 20, R353); lanes sent to a PC of all ones have exited. -/
def execRfe (s : State) : Host.Outcome State Fault Refusal :=
  match s.cur.sl.handler with
  | none => .next (s.trap 0x02 s.exec' s.wordAux)
  | some h =>
    if !s.lastWord then .next (s.trap 0x02 s.exec' s.wordAux)
    else
      let a := s.rd 506
      let w := (s.rd 507).toNat
      let s := s.setG Group.heads
      match h.load, h.repl with
      | some o, some x =>
        .next ({ s.leaveHandler with cur := s.leaveHandler.cur.completeLoad o h.bad x }.resumeAt h a w).groupEnd
      | some o, none => .next (s.leaveHandler.askRollback s.cur.g.tcb (0, s.coreNo, o.badPa))
      | none, _ => .next (s.leaveHandler.resumeAt h a w).groupEnd

/-- trpv (20, R352; 16, R288); its destination's cause 0x03 comes before 0x13 (02, R37). -/
def execTrpv (d a : BitVec 7) (x : BitVec 1) (s : State) : Host.Outcome State Fault Refusal :=
  s.runCur (
    if s.cur.sl.scalar then .trap 0x02 s.exec' s.wordAux
    else
      match s.cur.sl.handler with
      | none => .trap 0x02 s.exec' s.wordAux
      | some h =>
        match h.load with
        | none =>
          if (s.cur.g.drained [⟨a.toNat, x == 1⟩] (some d.toNat)).full d.toNat then .trap 0x03 s.exec' (BitVec.ofNat 64 d.toNat)
          else .trap 0x13 s.exec' (BitVec.ofNat 64 h.cause)
        | some o =>
          (s.sources [⟨a.toNat, x == 1⟩] (some d.toNat)).bind fun (vs, g) =>
            let got := tab fun l => if inMask o.exec l && !inMask h.bad l then lane (gotLanes o.acc) l else 0
            (s.writeName g d.toNat (BitVec.allOnes 32) got).bind fun g =>
              .ok { g := g, sl := { s.cur.sl with handler := some { h with repl := some (vs.getD 0 zeroLanes) } } })

/-! ## System registers (08, R163-R165; 16, R283) -/

/-- An outstanding operation, `mdrain` apart, that can still set fflg (08, R165). -/
def Op.setsFflg (o : Op) : Bool :=
  match o.kind with
  | .atomic .fadd _ _ _ _ => true
  | .engine q _ => q == 4 || q == 5
  | .matrix _ _ => true
  | _ => o.fl != 0

/-- An outstanding operation whose reply latacc counts: a MEM word, an atomic or reduction, a BAG or ASYNC word, `mdrain`
(04, R70). -/
def Op.isMemory (o : Op) : Bool :=
  match o.kind with
  | .fence _ _ _ _ _ => false
  | .task _ => false
  | .matrix _ _ => false
  | .publish _ => false
  | .leave _ => false
  | _ => true

/-- Every outstanding operation of the group, of both slices. -/
def Resident.allOps (r : Resident) : List Op :=
  r.sl.ops ++ (match r.g.companion with
    | some x => x.ops
    | none => [])

/-- fflg and latacc are read and written only after the operations that can change them (R165); an SLI word leaves none
outstanding here. -/
def State.sysBusy (s : State) (i : Nat) : Bool :=
  let drains := (kvGet Core.idle s.cores s.coreNo).drains
  if i = 1 then s.cur.allOps.any fun o => o.setsFflg || drains.any fun d => d.1 == o.id
  else if i = 3 then s.cur.allOps.any Op.isMemory else false

/-- A system register's value (R163). -/
def State.sysVal (s : State) (i : Nat) : W64 :=
  let r := s.ctx?.map (·.r)
  if i = 0x01 then s.cur.g.fflg
  else if i = 0x02 then s.cur.g.slflg
  else if i = 0x03 then s.cur.g.latacc
  else if i = 0x04 then s.cycle
  else if i = 0x05 then s.groupReg
  else if i = 0x06 then s.teamReg
  else if i = 0x07 then s.clusterReg
  else if i = 0x08 then s.gridReg
  else if i = 0x09 then (r.map (·.trapTab)).getD 0
  else if i = 0x0A then s.cur.g.park.setWidth 64
  else if i = 0x0B then (if s.cur.g.coupled then 0 else 1)
  else if i = 0x0C then (r.map (·.scopeTab)).getD 0
  else if i = 0x0D then (r.map (·.boundTab)).getD 0
  else BitVec.ofNat 64 (s.cur.g.name (i - 0x10 + 112)).depth

def execSysrd (d : BitVec 9) (i : BitVec 7) (s : State) : Host.Outcome State Fault Refusal :=
  s.run (if !sysRegOk i then .trap 0x02 s.exec' s.wordAux
    else s.destOk d.toNat (if s.sysBusy i.toNat then .stall else .ok (s.wr d.toNat (s.sysVal i.toNat))))

/-- A depth register discards what its name holds and sets the depth (08, R152). -/
def Group.setDepth (g : Group) (n d : Nat) : Group :=
  (g.setName n (if d = 0 then .unmapped else .queue d [])).touch n

def execSyswr (r : BitVec 9) (i : BitVec 7) (s : State) : Host.Outcome State Fault Refusal :=
  let v := s.rd r.toNat
  let n := i.toNat
  s.run (
    if !sysRegOk i then .trap 0x02 s.exec' s.wordAux
    else if 4 ≤ n ∧ n ≤ 0x0D then .trap 0x08 s.exec' v
    else if s.sysBusy n then .stall
    else if n = 1 then if v.toNat < 64 then .ok (s.setG fun g => { g with fflg := v }) else .trap 0x02 s.exec' v
    else if n = 2 then if v.toNat < 16 then .ok (s.setG fun g => { g with slflg := v }) else .trap 0x02 s.exec' v
    else if n = 3 then .ok (s.setG fun g => { g with latacc := v })
    else if v.toNat ≤ 8 then .ok (s.setG fun g => g.setDepth (n - 0x10 + 112) v.toNat)
    else .trap 0x02 s.exec' v)

/-! ## Lane PCs (16, R284) -/

def execPcvrd (d : BitVec 7) (s : State) : Host.Outcome State Fault Refusal :=
  s.runCur (if s.cur.sl.scalar then .trap 0x02 s.exec' s.wordAux
    else (s.writeName s.cur.g d.toNat (BitVec.allOnes 32) s.cur.g.pcv).bind fun g => .ok { s.cur with g := g })

/-- The lanes that pcvwr would write with a value that is neither a multiple of 4 nor all ones. -/
def pcvBad (exec : Mask) (x : Lanes) : Mask :=
  maskOf fun l => !inMask exec l && (lane x l).toNat % 4 != 0 && lane x l != ones64

def execPcvwr (a : BitVec 7) (x : BitVec 1) (s : State) : Host.Outcome State Fault Refusal :=
  s.runCur (if s.cur.sl.scalar then .trap 0x02 s.exec' s.wordAux
    else (s.sources [⟨a.toNat, x == 1⟩] none).bind fun (vs, g) =>
      let v := vs.getD 0 zeroLanes
      let bad := pcvBad s.exec' v
      if bad ≠ 0 then .trap 0x09 bad (lane v ((lanesOf bad).headD 0))
      else .ok { s.cur with g := { g with pcv := merge s.exec' g.pcv v, park := g.park &&& s.exec' } })

end Sys2Proof.Machine
end

