-- ==== Sys2Proof/Machine/Scalar.lean ====
section
/-! DEFINITION. SALU and SIMM: one 64-bit value for the group, whatever EXEC holds (10, R187-R193). -/

namespace Sys2Proof.Machine

/-! ## Operations -/

/-- 1 or 0. -/
def truth (b : Bool) : W64 := if b then 1 else 0

/-- shl: 0 from 64 up (R190). -/
def shiftLeft64 (a : W64) (n : Nat) : W64 := if 64 ≤ n then 0 else a <<< n

/-- shr: 0 from 64 up. -/
def shiftRight64 (a : W64) (n : Nat) : W64 := if 64 ≤ n then 0 else a >>> n

/-- sar: the sign fill from 63 up. -/
def shiftArith64 (a : W64) (n : Nat) : W64 := a.sshiftRight (if n < 63 then n else 63)

/-- div: toward zero; all ones for a zero divisor, −2^63 for −2^63 by −1 (R191). -/
def sdivide (a b : W64) : W64 := if b = 0 then ones64 else BitVec.ofInt 64 (a.toInt.tdiv b.toInt)

/-- rem: the sign of the dividend; the dividend for a zero divisor (R191). -/
def sremain (a b : W64) : W64 := if b = 0 then a else BitVec.ofInt 64 (a.toInt.tmod b.toInt)

/-- Zero bits from bit `n - 1` of a number down to its highest one bit. -/
def leadZeros : Nat → Nat → Nat
  | 0, _ => 0
  | n + 1, x => if x / 2 ^ n % 2 = 1 then 0 else 1 + leadZeros n x

/-- Zero bits from bit 0 of a number up, of `n` bits. -/
def trailZeros : Nat → Nat → Nat
  | 0, _ => 0
  | n + 1, x => if x % 2 = 1 then 0 else 1 + trailZeros n (x / 2)

/-- One bits among the low `n`. -/
def oneBits : Nat → Nat → Nat
  | 0, _ => 0
  | n + 1, x => x % 2 + oneBits n (x / 2)

/-- A word with two scalar sources (R189). -/
def State.salu (s : State) (d a b : BitVec 9) (f : W64 → W64 → W64) : Res State :=
  s.setReg d.toNat (f (s.rd a.toNat) (s.rd b.toNat))

/-- A word with one scalar source. -/
def State.salu1 (s : State) (d a : BitVec 9) (f : W64 → W64) : Res State := s.setReg d.toNat (f (s.rd a.toNat))

/-! ## SALU (R190, R191) -/

def execAdd (d a b : BitVec 9) (s : State) : Host.Outcome State Fault Refusal :=
  s.run (s.salu d a b fun a b => a + b)

def execSub (d a b : BitVec 9) (s : State) : Host.Outcome State Fault Refusal :=
  s.run (s.salu d a b fun a b => a - b)

def execMul (d a b : BitVec 9) (s : State) : Host.Outcome State Fault Refusal :=
  s.run (s.salu d a b fun a b => a * b)

def execMulh (d a b : BitVec 9) (s : State) : Host.Outcome State Fault Refusal :=
  s.run (s.salu d a b fun a b => BitVec.ofInt 64 (a.toInt * b.toInt / 2 ^ 64))

def execMulhu (d a b : BitVec 9) (s : State) : Host.Outcome State Fault Refusal :=
  s.run (s.salu d a b fun a b => BitVec.ofNat 64 (a.toNat * b.toNat / 2 ^ 64))

def execDiv (d a b : BitVec 9) (s : State) : Host.Outcome State Fault Refusal :=
  s.run (s.salu d a b fun a b => sdivide a b)

def execDivu (d a b : BitVec 9) (s : State) : Host.Outcome State Fault Refusal :=
  s.run (s.salu d a b fun a b => if b = 0 then ones64 else BitVec.ofNat 64 (a.toNat / b.toNat))

def execRem (d a b : BitVec 9) (s : State) : Host.Outcome State Fault Refusal :=
  s.run (s.salu d a b fun a b => sremain a b)

def execRemu (d a b : BitVec 9) (s : State) : Host.Outcome State Fault Refusal :=
  s.run (s.salu d a b fun a b => if b = 0 then a else BitVec.ofNat 64 (a.toNat % b.toNat))

def execAnd (d a b : BitVec 9) (s : State) : Host.Outcome State Fault Refusal :=
  s.run (s.salu d a b fun a b => a &&& b)

def execOr (d a b : BitVec 9) (s : State) : Host.Outcome State Fault Refusal :=
  s.run (s.salu d a b fun a b => a ||| b)

def execXor (d a b : BitVec 9) (s : State) : Host.Outcome State Fault Refusal :=
  s.run (s.salu d a b fun a b => a ^^^ b)

def execAndn (d a b : BitVec 9) (s : State) : Host.Outcome State Fault Refusal :=
  s.run (s.salu d a b fun a b => a &&& ~~~b)

def execShl (d a b : BitVec 9) (s : State) : Host.Outcome State Fault Refusal :=
  s.run (s.salu d a b fun a b => shiftLeft64 a (b.toNat % 256))

def execShr (d a b : BitVec 9) (s : State) : Host.Outcome State Fault Refusal :=
  s.run (s.salu d a b fun a b => shiftRight64 a (b.toNat % 256))

def execSar (d a b : BitVec 9) (s : State) : Host.Outcome State Fault Refusal :=
  s.run (s.salu d a b fun a b => shiftArith64 a (b.toNat % 256))

def execRot (d a b : BitVec 9) (s : State) : Host.Outcome State Fault Refusal :=
  s.run (s.salu d a b fun a b => a.rotateLeft (b.toNat % 64))

def execMin (d a b : BitVec 9) (s : State) : Host.Outcome State Fault Refusal :=
  s.run (s.salu d a b fun a b => if a.slt b then a else b)

def execMax (d a b : BitVec 9) (s : State) : Host.Outcome State Fault Refusal :=
  s.run (s.salu d a b fun a b => if a.slt b then b else a)

def execMinu (d a b : BitVec 9) (s : State) : Host.Outcome State Fault Refusal :=
  s.run (s.salu d a b fun a b => if a.ult b then a else b)

def execMaxu (d a b : BitVec 9) (s : State) : Host.Outcome State Fault Refusal :=
  s.run (s.salu d a b fun a b => if a.ult b then b else a)

def execSlt (d a b : BitVec 9) (s : State) : Host.Outcome State Fault Refusal :=
  s.run (s.salu d a b fun a b => truth (a.slt b))

def execSltu (d a b : BitVec 9) (s : State) : Host.Outcome State Fault Refusal :=
  s.run (s.salu d a b fun a b => truth (a.ult b))

def execSeq (d a b : BitVec 9) (s : State) : Host.Outcome State Fault Refusal :=
  s.run (s.salu d a b fun a b => truth (a == b))

/-- sel reads the old destination as its condition (R190). -/
def execSel (d a b : BitVec 9) (s : State) : Host.Outcome State Fault Refusal :=
  s.run (s.salu d a b fun a b => if s.rd d.toNat ≠ 0 then a else b)

def execClz (d a : BitVec 9) (s : State) : Host.Outcome State Fault Refusal :=
  s.run (s.salu1 d a fun a => BitVec.ofNat 64 (leadZeros 64 a.toNat))

def execCtz (d a : BitVec 9) (s : State) : Host.Outcome State Fault Refusal :=
  s.run (s.salu1 d a fun a => BitVec.ofNat 64 (trailZeros 64 a.toNat))

def execPopc (d a : BitVec 9) (s : State) : Host.Outcome State Fault Refusal :=
  s.run (s.salu1 d a fun a => BitVec.ofNat 64 (oneBits 64 a.toNat))

/-! ## SIMM (R192, R193) -/

/-- The immediate as 64 bits (02, R27). -/
def imm64 (i : BitVec 9) : W64 := i.signExtend 64

/-- The amount of an immediate shift: IMM9 mod 256. -/
def shamt (i : BitVec 9) : Nat := i.toNat % 256

def execAddi (d a i : BitVec 9) (s : State) : Host.Outcome State Fault Refusal :=
  s.run (s.salu1 d a fun a => a + imm64 i)

def execAndi (d a i : BitVec 9) (s : State) : Host.Outcome State Fault Refusal :=
  s.run (s.salu1 d a fun a => a &&& imm64 i)

def execOri (d a i : BitVec 9) (s : State) : Host.Outcome State Fault Refusal :=
  s.run (s.salu1 d a fun a => a ||| imm64 i)

def execXori (d a i : BitVec 9) (s : State) : Host.Outcome State Fault Refusal :=
  s.run (s.salu1 d a fun a => a ^^^ imm64 i)

def execShli (d a i : BitVec 9) (s : State) : Host.Outcome State Fault Refusal :=
  s.run (s.salu1 d a fun a => shiftLeft64 a (shamt i))

def execShri (d a i : BitVec 9) (s : State) : Host.Outcome State Fault Refusal :=
  s.run (s.salu1 d a fun a => shiftRight64 a (shamt i))

def execSari (d a i : BitVec 9) (s : State) : Host.Outcome State Fault Refusal :=
  s.run (s.salu1 d a fun a => shiftArith64 a (shamt i))

def execSlti (d a i : BitVec 9) (s : State) : Host.Outcome State Fault Refusal :=
  s.run (s.salu1 d a fun a => truth (a.slt (imm64 i)))

def execSltui (d a i : BitVec 9) (s : State) : Host.Outcome State Fault Refusal :=
  s.run (s.salu1 d a fun a => truth (a.ult (imm64 i)))

def execSeqi (d a i : BitVec 9) (s : State) : Host.Outcome State Fault Refusal :=
  s.run (s.salu1 d a fun a => truth (a == imm64 i))

def execMuli (d a i : BitVec 9) (s : State) : Host.Outcome State Fault Refusal :=
  s.run (s.salu1 d a fun a => a * imm64 i)

def execMovi (d : BitVec 9) (i : BitVec 18) (s : State) : Host.Outcome State Fault Refusal := s.run (s.setReg d.toNat (i.signExtend 64))

/-- movhi reads the destination before it writes it. -/
def execMovhi (d : BitVec 9) (i : BitVec 18) (s : State) : Host.Outcome State Fault Refusal :=
  s.run (s.setReg d.toNat (s.rd d.toNat <<< 18 ||| i.setWidth 64))

/-- The address of the clause that holds the word. -/
def State.clauseAddr (s : State) : W64 :=
  match s.cur.sl.clause with
  | some c => c.addr
  | none => s.cur.sl.pc

def execLdpc (d : BitVec 9) (i : BitVec 18) (s : State) : Host.Outcome State Fault Refusal :=
  s.run (s.setReg d.toNat (s.clauseAddr + i.signExtend 64 * 4))

end Sys2Proof.Machine
end

