-- ==== Sys2Proof/Machine/Valu.lean ====
section
/-! DEFINITION. VALU: integer operations on every sub-element of every executing lane (10, R194-R200; 09, R167). -/

namespace Sys2Proof.Machine

/-! ## Sub-elements (09, R167, R168) -/

/-- The width a W field names (02, R26). -/
def widthOf (w : BitVec 2) : Nat := 8 * 2 ^ w.toNat

/-- `sub(x, e, w)`: element `e` of width `w`. -/
def subEl (x : W64) (e w : Nat) : Nat := x.toNat / 2 ^ (e * w) % 2 ^ w

/-- A pattern of width `w` read as two's complement (R4). -/
def sx (w x : Nat) : Int := if 2 * x < 2 ^ w then x else (x : Int) - 2 ^ w

/-- A value stored as its value mod 2^w. -/
def wrapI (w : Nat) (y : Int) : Nat := (y % 2 ^ w).toNat

/-- satS: clamped to the signed range. -/
def satS (w : Nat) (y : Int) : Nat :=
  wrapI w (if y < -(2 ^ (w - 1)) then -(2 ^ (w - 1)) else if 2 ^ (w - 1) - 1 < y then 2 ^ (w - 1) - 1 else y)

/-- satU: clamped to the unsigned range. -/
def satU (w : Nat) (y : Int) : Nat := if y < 0 then 0 else if 2 ^ w - 1 < y then 2 ^ w - 1 else y.toNat

/-- A lane value of `n` elements of width `w`. -/
def packEls (w n : Nat) (f : Nat → Nat) : W64 :=
  BitVec.ofNat 64 ((List.range n).foldr (fun e acc => f e % 2 ^ w + 2 ^ w * acc) 0)

/-- A lane value from its elements. -/
def mapEls (w : Nat) (f : Nat → Nat) : W64 := packEls w (64 / w) f

/-! ## Element results (R197) -/

/-- All ones or zero. -/
def allOnesIf (w : Nat) (b : Bool) : Nat := if b then 2 ^ w - 1 else 0

def shlEl (w a n : Nat) : Nat := if w ≤ n then 0 else a * 2 ^ n
def shrEl (w a n : Nat) : Nat := if w ≤ n then 0 else a / 2 ^ n
def sarEl (w a n : Nat) : Nat := wrapI w (sx w a / 2 ^ (if n < w - 1 then n else w - 1))
def rotEl (w a n : Nat) : Nat := a * 2 ^ (n % w) + a / 2 ^ (w - n % w)
def minEl (w a b : Nat) : Nat := if sx w a < sx w b then a else b
def maxEl (w a b : Nat) : Nat := if sx w a < sx w b then b else a

/-- A queue destination of a word that reads its destination: cause 0x03 with the name (R195). -/
def State.noQueue (s : State) (d : Nat) (r : Res α) : Res α :=
  if !s.cur.sl.scalar && (s.cur.g.name d).isQueue then .trap 0x03 s.exec' (BitVec.ofNat 64 d) else r

/-- A word with two vector sources. -/
def State.vrr (s : State) (d a b : BitVec 7) (x y : BitVec 1) (w : BitVec 2) (f : Nat → Nat → Nat → Nat) : Res Resident :=
  s.vectorOnly (s.vword d.toNat [⟨a.toNat, x == 1⟩, ⟨b.toNat, y == 1⟩] fun vs =>
    tab fun l => mapEls (widthOf w) fun e =>
      f (widthOf w) (subEl (lane (vs.getD 0 zeroLanes) l) e (widthOf w)) (subEl (lane (vs.getD 1 zeroLanes) l) e (widthOf w)))

/-- A word with two vector sources that reads its destination (R195). -/
def State.vrrd (s : State) (d a b : BitVec 7) (x y : BitVec 1) (f : W64 → W64 → W64 → W64) : Res Resident :=
  s.vectorOnly (s.noQueue d.toNat (s.vword d.toNat [⟨a.toNat, x == 1⟩, ⟨b.toNat, y == 1⟩] fun vs =>
    tab fun l => f (lane (vs.getD 0 zeroLanes) l) (lane (vs.getD 1 zeroLanes) l) (lane (s.cur.g.val d.toNat) l)))

/-- A word with one vector source: a lane to a lane. -/
def State.vr (s : State) (d a : BitVec 7) (x : BitVec 1) (f : W64 → W64) : Res Resident :=
  s.vectorOnly (s.vword d.toNat [⟨a.toNat, x == 1⟩] fun vs => tab fun l => f (lane (vs.getD 0 zeroLanes) l))

/-- A word with one vector source, element by element. -/
def State.vre (s : State) (d a : BitVec 7) (x : BitVec 1) (w : BitVec 2) (f : Nat → Nat → Nat) : Res Resident :=
  s.vr d a x fun v => mapEls (widthOf w) fun e => f (widthOf w) (subEl v e (widthOf w))

/-- A word without a vector source. -/
def State.vgen (s : State) (d : BitVec 7) (f : Nat → W64) : Res Resident :=
  s.vectorOnly (s.vword d.toNat [] fun _ => tab f)

/-! ## The register form (R196-R198) -/

def execVadd (d a b : BitVec 7) (x y : BitVec 1) (w : BitVec 2) (s : State) : Host.Outcome State Fault Refusal :=
  s.runCur (s.vrr d a b x y w fun _ a b => a + b)

def execVsub (d a b : BitVec 7) (x y : BitVec 1) (w : BitVec 2) (s : State) : Host.Outcome State Fault Refusal :=
  s.runCur (s.vrr d a b x y w fun w a b => wrapI w ((a : Int) - b))

def execVaddss (d a b : BitVec 7) (x y : BitVec 1) (w : BitVec 2) (s : State) : Host.Outcome State Fault Refusal :=
  s.runCur (s.vrr d a b x y w fun w a b => satS w (sx w a + sx w b))

def execVaddsu (d a b : BitVec 7) (x y : BitVec 1) (w : BitVec 2) (s : State) : Host.Outcome State Fault Refusal :=
  s.runCur (s.vrr d a b x y w fun w a b => satU w ((a : Int) + b))

def execVsubss (d a b : BitVec 7) (x y : BitVec 1) (w : BitVec 2) (s : State) : Host.Outcome State Fault Refusal :=
  s.runCur (s.vrr d a b x y w fun w a b => satS w (sx w a - sx w b))

def execVsubsu (d a b : BitVec 7) (x y : BitVec 1) (w : BitVec 2) (s : State) : Host.Outcome State Fault Refusal :=
  s.runCur (s.vrr d a b x y w fun w a b => satU w ((a : Int) - b))

def execVmul (d a b : BitVec 7) (x y : BitVec 1) (w : BitVec 2) (s : State) : Host.Outcome State Fault Refusal :=
  s.runCur (s.vrr d a b x y w fun _ a b => a * b)

def execVmulh (d a b : BitVec 7) (x y : BitVec 1) (w : BitVec 2) (s : State) : Host.Outcome State Fault Refusal :=
  s.runCur (s.vrr d a b x y w fun w a b => wrapI w (sx w a * sx w b / 2 ^ w))

def execVmulhu (d a b : BitVec 7) (x y : BitVec 1) (w : BitVec 2) (s : State) : Host.Outcome State Fault Refusal :=
  s.runCur (s.vrr d a b x y w fun w a b => a * b / 2 ^ w)

def execVmin (d a b : BitVec 7) (x y : BitVec 1) (w : BitVec 2) (s : State) : Host.Outcome State Fault Refusal :=
  s.runCur (s.vrr d a b x y w fun w a b => minEl w a b)

def execVmax (d a b : BitVec 7) (x y : BitVec 1) (w : BitVec 2) (s : State) : Host.Outcome State Fault Refusal :=
  s.runCur (s.vrr d a b x y w fun w a b => maxEl w a b)

def execVminu (d a b : BitVec 7) (x y : BitVec 1) (w : BitVec 2) (s : State) : Host.Outcome State Fault Refusal :=
  s.runCur (s.vrr d a b x y w fun _ a b => if a < b then a else b)

def execVmaxu (d a b : BitVec 7) (x y : BitVec 1) (w : BitVec 2) (s : State) : Host.Outcome State Fault Refusal :=
  s.runCur (s.vrr d a b x y w fun _ a b => if a < b then b else a)

def execVand (d a b : BitVec 7) (x y : BitVec 1) (w : BitVec 2) (s : State) : Host.Outcome State Fault Refusal :=
  s.runCur (s.vrr d a b x y w fun _ a b => a &&& b)

def execVor (d a b : BitVec 7) (x y : BitVec 1) (w : BitVec 2) (s : State) : Host.Outcome State Fault Refusal :=
  s.runCur (s.vrr d a b x y w fun _ a b => a ||| b)

def execVxor (d a b : BitVec 7) (x y : BitVec 1) (w : BitVec 2) (s : State) : Host.Outcome State Fault Refusal :=
  s.runCur (s.vrr d a b x y w fun _ a b => a ^^^ b)

def execVandn (d a b : BitVec 7) (x y : BitVec 1) (w : BitVec 2) (s : State) : Host.Outcome State Fault Refusal :=
  s.runCur (s.vrr d a b x y w fun w a b => a &&& (b ^^^ (2 ^ w - 1)))

def execVshl (d a b : BitVec 7) (x y : BitVec 1) (w : BitVec 2) (s : State) : Host.Outcome State Fault Refusal :=
  s.runCur (s.vrr d a b x y w fun w a b => shlEl w a (b % 256))

def execVshr (d a b : BitVec 7) (x y : BitVec 1) (w : BitVec 2) (s : State) : Host.Outcome State Fault Refusal :=
  s.runCur (s.vrr d a b x y w fun w a b => shrEl w a (b % 256))

def execVsar (d a b : BitVec 7) (x y : BitVec 1) (w : BitVec 2) (s : State) : Host.Outcome State Fault Refusal :=
  s.runCur (s.vrr d a b x y w fun w a b => sarEl w a (b % 256))

def execVrot (d a b : BitVec 7) (x y : BitVec 1) (w : BitVec 2) (s : State) : Host.Outcome State Fault Refusal :=
  s.runCur (s.vrr d a b x y w fun w a b => rotEl w a (b % 256))

def execVceq (d a b : BitVec 7) (x y : BitVec 1) (w : BitVec 2) (s : State) : Host.Outcome State Fault Refusal :=
  s.runCur (s.vrr d a b x y w fun w a b => allOnesIf w (a == b))

def execVclt (d a b : BitVec 7) (x y : BitVec 1) (w : BitVec 2) (s : State) : Host.Outcome State Fault Refusal :=
  s.runCur (s.vrr d a b x y w fun w a b => allOnesIf w (decide (sx w a < sx w b)))

def execVcltu (d a b : BitVec 7) (x y : BitVec 1) (w : BitVec 2) (s : State) : Host.Outcome State Fault Refusal :=
  s.runCur (s.vrr d a b x y w fun w a b => allOnesIf w (decide (a < b)))

/-- vmad reads its destination: c + a × b. -/
def execVmad (d a b : BitVec 7) (x y : BitVec 1) (w : BitVec 2) (s : State) : Host.Outcome State Fault Refusal :=
  s.runCur (s.vrrd d a b x y fun a b c => mapEls (widthOf w) fun e =>
    subEl c e (widthOf w) + subEl a e (widthOf w) * subEl b e (widthOf w))

/-- vsel reads its destination as the mask, bit by bit. -/
def execVsel (d a b : BitVec 7) (x y : BitVec 1) (w : BitVec 2) (s : State) : Host.Outcome State Fault Refusal :=
  s.runCur (s.vrrd d a b x y fun a b c => (a &&& c) ||| (b &&& ~~~c))

def execVclz (d a : BitVec 7) (x : BitVec 1) (w : BitVec 2) (s : State) : Host.Outcome State Fault Refusal :=
  s.runCur (s.vre d a x w fun w a => leadZeros w a)

def execVpopc (d a : BitVec 7) (x : BitVec 1) (w : BitVec 2) (s : State) : Host.Outcome State Fault Refusal :=
  s.runCur (s.vre d a x w fun w a => oneBits w a)

def execVabs (d a : BitVec 7) (x : BitVec 1) (w : BitVec 2) (s : State) : Host.Outcome State Fault Refusal :=
  s.runCur (s.vre d a x w fun w a => (sx w a).natAbs)

/-- vdot4: two sums of four byte products, onto the destination (R198). -/
def execVdot4 (d a b : BitVec 7) (x y : BitVec 1) (s : State) : Host.Outcome State Fault Refusal :=
  s.runCur (s.vrrd d a b x y fun a b c => mapEls 32 fun e =>
    wrapI 32 ((List.range 4).foldl (fun t k => t + sx 8 (subEl a (4 * e + k) 8) * sx 8 (subEl b (4 * e + k) 8)) (subEl c e 32)))

def execVmov (d a : BitVec 7) (x : BitVec 1) (w : BitVec 2) (s : State) : Host.Outcome State Fault Refusal :=
  s.runCur (s.vre d a x w fun _ a => a)

/-- An illegal W (02, R26). -/
def State.widthOk (s : State) (ok : Bool) (r : Res α) : Res α := if ok then r else .trap 0x02 s.exec' s.wordAux

/-- vwiden: the elements of half the width in the low half, sign-extended (R198). -/
def execVwiden (d a : BitVec 7) (x : BitVec 1) (w : BitVec 2) (s : State) : Host.Outcome State Fault Refusal :=
  s.runCur (s.widthOk (w != 0) (s.vr d a x fun v => mapEls (widthOf w) fun e =>
    wrapI (widthOf w) (sx (widthOf w / 2) (subEl v e (widthOf w / 2)))))

/-- vnarrow: the elements of twice the width, clamped as signed, into the low half; the upper half zero (R198). -/
def execVnarrow (d a : BitVec 7) (x : BitVec 1) (w : BitVec 2) (s : State) : Host.Outcome State Fault Refusal :=
  s.runCur (s.widthOk (w != 3) (s.vr d a x fun v => packEls (widthOf w) (32 / widthOf w) fun e =>
    satS (widthOf w) (sx (2 * widthOf w) (subEl v e (2 * widthOf w)))))

/-- vlid: each element its index within the register (R198). -/
def execVlid (d : BitVec 7) (w : BitVec 2) (s : State) : Host.Outcome State Fault Refusal :=
  s.runCur (s.vgen d fun l => mapEls (widthOf w) fun e => l * (64 / widthOf w) + e)

/-! ## The immediate form (R199) -/

def execVaddi (d a : BitVec 7) (i : BitVec 8) (x : BitVec 1) (w : BitVec 2) (s : State) : Host.Outcome State Fault Refusal :=
  s.runCur (s.vre d a x w fun w a => a + i.toNat % 2 ^ w)

def execVshli (d a : BitVec 7) (i : BitVec 8) (x : BitVec 1) (w : BitVec 2) (s : State) : Host.Outcome State Fault Refusal :=
  s.runCur (s.vre d a x w fun w a => shlEl w a i.toNat)

def execVshri (d a : BitVec 7) (i : BitVec 8) (x : BitVec 1) (w : BitVec 2) (s : State) : Host.Outcome State Fault Refusal :=
  s.runCur (s.vre d a x w fun w a => shrEl w a i.toNat)

def execVsari (d a : BitVec 7) (i : BitVec 8) (x : BitVec 1) (w : BitVec 2) (s : State) : Host.Outcome State Fault Refusal :=
  s.runCur (s.vre d a x w fun w a => sarEl w a i.toNat)

def execVandi (d a : BitVec 7) (i : BitVec 8) (x : BitVec 1) (w : BitVec 2) (s : State) : Host.Outcome State Fault Refusal :=
  s.runCur (s.vre d a x w fun _ a => a &&& i.toNat)

def execVceqi (d a : BitVec 7) (i : BitVec 8) (x : BitVec 1) (w : BitVec 2) (s : State) : Host.Outcome State Fault Refusal :=
  s.runCur (s.vre d a x w fun w a => allOnesIf w (a == i.toNat % 2 ^ w))

def execVmovi (d : BitVec 7) (i : BitVec 8) (w : BitVec 2) (s : State) : Host.Outcome State Fault Refusal :=
  s.runCur (s.vgen d fun _ => mapEls (widthOf w) fun _ => i.toNat)

/-! ## The scalar form (R200) -/

/-- The scalar operand at a width. -/
def State.scalEl (s : State) (b : BitVec 8) (w : Nat) : Nat := subEl (s.rd b.toNat) 0 w

def execVaddS (d a : BitVec 7) (b : BitVec 8) (x : BitVec 1) (w : BitVec 2) (s : State) : Host.Outcome State Fault Refusal :=
  s.runCur (s.vre d a x w fun w a => a + s.scalEl b w)

def execVsubS (d a : BitVec 7) (b : BitVec 8) (x : BitVec 1) (w : BitVec 2) (s : State) : Host.Outcome State Fault Refusal :=
  s.runCur (s.vre d a x w fun w a => wrapI w ((a : Int) - s.scalEl b w))

def execVmulS (d a : BitVec 7) (b : BitVec 8) (x : BitVec 1) (w : BitVec 2) (s : State) : Host.Outcome State Fault Refusal :=
  s.runCur (s.vre d a x w fun w a => a * s.scalEl b w)

def execVminS (d a : BitVec 7) (b : BitVec 8) (x : BitVec 1) (w : BitVec 2) (s : State) : Host.Outcome State Fault Refusal :=
  s.runCur (s.vre d a x w fun w a => minEl w a (s.scalEl b w))

def execVmaxS (d a : BitVec 7) (b : BitVec 8) (x : BitVec 1) (w : BitVec 2) (s : State) : Host.Outcome State Fault Refusal :=
  s.runCur (s.vre d a x w fun w a => maxEl w a (s.scalEl b w))

def execVandS (d a : BitVec 7) (b : BitVec 8) (x : BitVec 1) (w : BitVec 2) (s : State) : Host.Outcome State Fault Refusal :=
  s.runCur (s.vre d a x w fun w a => a &&& s.scalEl b w)

def execVceqS (d a : BitVec 7) (b : BitVec 8) (x : BitVec 1) (w : BitVec 2) (s : State) : Host.Outcome State Fault Refusal :=
  s.runCur (s.vre d a x w fun w a => allOnesIf w (a == s.scalEl b w))

def execVcltS (d a : BitVec 7) (b : BitVec 8) (x : BitVec 1) (w : BitVec 2) (s : State) : Host.Outcome State Fault Refusal :=
  s.runCur (s.vre d a x w fun w a => allOnesIf w (decide (sx w a < sx w (s.scalEl b w))))

def execVmovS (d : BitVec 7) (b : BitVec 8) (w : BitVec 2) (s : State) : Host.Outcome State Fault Refusal :=
  s.runCur (s.vgen d fun _ => mapEls (widthOf w) fun _ => s.scalEl b (widthOf w))

end Sys2Proof.Machine
end

