-- ==== Sys2Proof/Machine/Fp.lean ====
section
/-! DEFINITION. Floating-point values: decoding, exact arithmetic, the one rounding, the eight-bit formats, conversions to
and from integers (09, R169-R175, R179). -/

namespace Sys2Proof.Machine

/-! ## Flags (08, R164; 09, R172) -/

def fNV : W64 := 1
def fDZ : W64 := 2
def fOF : W64 := 4
def fUF : W64 := 8
def fNX : W64 := 16
def fGR : W64 := 32

/-- A flag where a condition holds. -/
def flagIf (b : Bool) (f : W64) : W64 := if b then f else 0

/-! ## Values -/

/-- A value: a NaN, `sig` where it raises NV, an infinity, or (−1)^neg × m × 2^e. -/
inductive Num where
  | nan (sig : Bool)
  | inf (neg : Bool)
  | fin (neg : Bool) (m : Nat) (e : Int)
  deriving DecidableEq, Repr

/-- An IEEE format: exponent and fraction bits (R169). -/
structure Fmt where
  eb : Nat
  fb : Nat
  deriving DecidableEq, Repr

def fp64 : Fmt := ⟨11, 52⟩
def fp32 : Fmt := ⟨8, 23⟩
def bf16 : Fmt := ⟨8, 7⟩
def fp16 : Fmt := ⟨5, 10⟩

def Fmt.width (f : Fmt) : Nat := 1 + f.eb + f.fb
def Fmt.bias (f : Fmt) : Int := 2 ^ (f.eb - 1) - 1
/-- The code of +∞: above every finite code. -/
def Fmt.infCode (f : Fmt) : Nat := (2 ^ f.eb - 1) * 2 ^ f.fb
/-- The canonical NaN (R169). -/
def Fmt.nanCode (f : Fmt) : Nat := f.infCode + 2 ^ (f.fb - 1)
/-- A code with its sign bit. -/
def Fmt.signed (f : Fmt) (neg : Bool) (code : Nat) : Nat := (if neg then 2 ^ (f.eb + f.fb) else 0) + code
/-- The exponent of the last place of subnormals. -/
def Fmt.qmin (f : Fmt) : Int := 1 - f.bias - f.fb

/-- The value of a code (R169, R171). -/
def Fmt.decode (f : Fmt) (x : Nat) : Num :=
  let s := x / 2 ^ (f.eb + f.fb) % 2 == 1
  let e := x / 2 ^ f.fb % 2 ^ f.eb
  let m := x % 2 ^ f.fb
  if e = 2 ^ f.eb - 1 then if m = 0 then .inf s else .nan (m / 2 ^ (f.fb - 1) == 0)
  else if e = 0 then .fin s m f.qmin
  else .fin s (2 ^ f.fb + m) (e - f.bias - f.fb)

/-! ## Rounding (R170, R172) -/

/-- m / 2^sh to the nearest integer, ties to even, and whether that is inexact; `st`: the value lies above m / 2^sh by less
than one unit of m. -/
def roundAt (m : Nat) (sh : Int) (st : Bool) : Nat × Bool :=
  if sh ≤ 0 then (m * 2 ^ (-sh).toNat, st)
  else
    let d := 2 ^ sh.toNat
    let q := m / d
    let r := m % d
    let up := if 2 * r = d then st || q % 2 == 1 else decide (d < 2 * r)
    (if up then q + 1 else q, st || r != 0)

/-- A finite value rounded to a format, nearest with ties to even, with OF, UF (tiny after rounding) and NX. -/
def Fmt.roundFin (f : Fmt) (neg : Bool) (m : Nat) (e : Int) (st : Bool) : Nat × W64 :=
  if m = 0 then (f.signed neg 0, flagIf st (fUF ||| fNX))
  else
    let top := e + m.log2
    let emin := 1 - f.bias
    let q := if top - f.fb < f.qmin then f.qmin else top - f.fb
    let (r, nx) := roundAt m (q - e) st
    let code := (q - f.qmin).toNat * 2 ^ f.fb + r
    if f.infCode ≤ code then (f.signed neg f.infCode, fOF ||| fNX)
    else
      let tiny := decide (top < emin) &&
        !(decide (top = emin - 1) && (roundAt m (top - f.fb - e) st).1 == 2 ^ (f.fb + 1))
      (f.signed neg code, flagIf nx fNX ||| flagIf (nx && tiny) fUF)

/-- A value rounded to a format; a NaN is the canonical one (R171). -/
def Fmt.round (f : Fmt) : Num → Nat × W64
  | .nan sig => (f.nanCode, flagIf sig fNV)
  | .inf s => (f.signed s f.infCode, 0)
  | .fin s m e => f.roundFin s m e false

/-! ## Exact arithmetic -/

def Num.neg : Num → Num
  | .nan g => .nan g
  | .inf s => .inf (!s)
  | .fin s m e => .fin (!s) m e

def Num.abs : Num → Num
  | .nan g => .nan g
  | .inf _ => .inf false
  | .fin _ m e => .fin false m e

def Num.sign : Num → Bool
  | .nan _ => false
  | .inf s => s
  | .fin s _ _ => s

def Num.isNan : Num → Bool
  | .nan _ => true
  | _ => false

def Num.isSig : Num → Bool
  | .nan s => s
  | _ => false

def Num.isInf : Num → Bool
  | .inf _ => true
  | _ => false

def Num.isZero : Num → Bool
  | .fin _ 0 _ => true
  | _ => false

/-- The product; 0 × ∞ is invalid (R203). -/
def Num.mul (a b : Num) : Num :=
  match a, b with
  | .nan x, y => .nan (x || y.isSig)
  | x, .nan y => .nan (x.isSig || y)
  | .inf s, y => if y.isZero then .nan true else .inf (s != y.sign)
  | x, .inf s => if x.isZero then .nan true else .inf (s != x.sign)
  | .fin s m e, .fin t n k => .fin (s != t) (m * n) (e + k)

/-- The signed integer and exponent of a finite value. -/
def Num.dy : Num → Int × Int
  | .fin s m e => (if s then -(m : Int) else m, e)
  | _ => (0, 0)

/-- The least exponent of a list of terms. -/
def minExp : List Num → Int
  | [] => 0
  | [x] => x.dy.2
  | x :: t => if x.dy.2 < minExp t then x.dy.2 else minExp t

/-- The exact sum; infinities of opposite sign are invalid; an exact zero of terms of both signs is +0 (R170, R205). -/
def sumNums (l : List Num) : Num :=
  if (l.any fun x => x == .inf false) && l.any fun x => x == .inf true then .nan true
  else if l.any Num.isNan then .nan (l.any Num.isSig)
  else
    match l.find? Num.isInf with
    | some x => x
    | none =>
      let e := minExp l
      let t := l.foldl (fun t x => t + x.dy.1 * 2 ^ (x.dy.2 - e).toNat) (0 : Int)
      if t = 0 then .fin (l.all Num.sign) 0 e else .fin (decide (t < 0)) t.natAbs e

/-- The difference a − b of finite values as a signed integer at the lower exponent: its sign orders them. -/
def dyDiff (a b : Int × Int) : Int :=
  let e := if a.2 < b.2 then a.2 else b.2
  a.1 * 2 ^ (a.2 - e).toNat - b.1 * 2 ^ (b.2 - e).toNat

/-- a < b; false with a NaN. -/
def Num.lt (a b : Num) : Bool :=
  match a, b with
  | .nan _, _ => false
  | _, .nan _ => false
  | .inf s, .inf t => s && !t
  | .inf s, _ => s
  | _, .inf t => !t
  | x, y => decide (dyDiff x.dy y.dy < 0)

/-- a = b by value; false with a NaN. -/
def Num.eq (a b : Num) : Bool := !a.isNan && !b.isNan && !a.lt b && !b.lt a

/-- The smaller with −0 below +0; the other operand where one is a NaN (R204). -/
def Num.min (a b : Num) : Num :=
  if a.isNan then if b.isNan then .nan false else b
  else if b.isNan then a
  else if a.eq b then if a.sign then a else b
  else if a.lt b then a else b

def Num.max (a b : Num) : Num :=
  if a.isNan then if b.isNan then .nan false else b
  else if b.isNan then a
  else if a.eq b then if a.sign then b else a
  else if a.lt b then b else a

/-! ## Eight-bit formats (R173-R175) -/

/-- An eight-bit format: E4M3, E5M2. -/
inductive Fmt8 where
  | e4m3 | e5m2
  deriving DecidableEq, Repr

def Fmt8.mb : Fmt8 → Nat
  | .e4m3 => 3
  | .e5m2 => 2

def Fmt8.decode (f : Fmt8) (x : Nat) : Num :=
  let s := x / 128 % 2 == 1
  let e := x / 2 ^ f.mb % 2 ^ (7 - f.mb)
  let m := x % 2 ^ f.mb
  if x = 0 then .fin false 0 0
  else
    match f with
    | .e4m3 => if e = 15 ∧ m = 7 then .nan false else .fin s (8 + m) (e - 10)
    | .e5m2 => if e = 31 then if m = 0 then .inf s else .nan false else .fin s (4 + m) (e - 17)

/-- Code `a` is nearer to the value than code `b`; at a tie an even mantissa field, then the smaller magnitude (R175). -/
def Fmt8.better (f : Fmt8) (x : Int × Int) (a b : Nat) : Bool :=
  let dist := fun c : Nat => (dyDiff (f.decode c).dy x, if (f.decode c).dy.2 < x.2 then (f.decode c).dy.2 else x.2)
  let d := dyDiff (((dist a).1.natAbs : Int), (dist a).2) (((dist b).1.natAbs : Int), (dist b).2)
  if d ≠ 0 then decide (d < 0)
  else if a % 2 ≠ b % 2 then a % 2 == 0
  else (f.decode a).abs.lt (f.decode b).abs

/-- The codes of finite values. -/
def Fmt8.finite (f : Fmt8) : List Nat := (List.range 256).filter fun c => match f.decode c with
  | .fin _ _ _ => true
  | _ => false

def Fmt8.nearest (f : Fmt8) (x : Int × Int) : Nat := f.finite.foldl (fun b c => if f.better x c b then c else b) 0

/-- |x| compared with a whole number. -/
def Num.absAbove (x : Num) (n : Nat) : Bool := (Num.fin false n 0).lt x.abs

/-- A value rounded to an eight-bit format (R175). -/
def Fmt8.round (f : Fmt8) (x : Num) : Nat × W64 :=
  match x with
  | .nan sig => (0x7F, flagIf sig fNV)
  | .inf s =>
    match f with
    | .e4m3 => (if s then 0xFE else 0x7E, fOF)
    | .e5m2 => (if s then 0xFC else 0x7C, 0)
  | .fin s m e =>
    let v := Num.fin s m e
    if f = .e5m2 ∧ !((v.abs).lt (.fin false 61440 0)) then (if s then 0xFC else 0x7C, fOF ||| fNX)
    else
      let c := f.nearest v.dy
      let nx := !((f.decode c).eq v)
      (c, flagIf nx fNX ||| flagIf (c == 0 && nx) fUF ||| flagIf (f == .e4m3 && v.absAbove 464) fOF)

/-! ## Integers (R179) -/

/-- A value as a 32-bit integer, to nearest even or toward zero. -/
def Num.toInt32 (x : Num) (rne : Bool) : Nat × W64 :=
  match x with
  | .nan _ => (0, fNV)
  | .inf s => (if s then 2 ^ 31 else 2 ^ 31 - 1, fNV)
  | .fin s m e =>
    let (q, nx) := if rne then roundAt m (-e) false
      else if e < 0 then (m / 2 ^ (-e).toNat, m % 2 ^ (-e).toNat != 0) else (m * 2 ^ e.toNat, false)
    let y : Int := if s then -(q : Int) else q
    if y < -(2 ^ 31) then (2 ^ 31, fNV) else if 2 ^ 31 - 1 < y then (2 ^ 31 - 1, fNV) else (wrapI 32 y, flagIf nx fNX)

/-- A 32-bit integer as a value. -/
def numOfInt (y : Int) : Num := .fin (decide (y < 0)) y.natAbs 0

end Sys2Proof.Machine
end

