-- ==== Sys2Proof/Machine/Order.lean ====
section
/-! DEFINITION. The steps of the ordering machine: LOAD, DRAIN, APPLY, and the deferred trap of a load (15, R260-R264;
20, R351). -/

namespace Sys2Proof.Machine

def Slice.op? (x : Slice) (id : Nat) : Option Op := x.ops.find? fun o => o.id == id

/-- One access of an operation changed. -/
def Slice.modAcc (x : Slice) (id part : Nat) (f : Access → Access) : Slice :=
  { x with ops := x.ops.map fun o =>
      if o.id = id then { o with acc := match o.acc[part]? with
        | some a => listSet o.acc part (f a)
        | none => o.acc } else o }

/-- Every earlier release of the slice has completed (R260, DRAIN). -/
def Slice.released (x : Slice) (seq : Nat) : Bool :=
  x.ops.all fun o => !(decide (o.seq < seq)) || match o.kind with
    | .fence rel _ _ _ _ => !rel
    | _ => true

/-- Every earlier load and fetching atomic of the slice has been performed (R260, DRAIN). -/
def Slice.loadsDone (x : Slice) (seq : Nat) : Bool :=
  x.ops.all fun o => !(decide (o.seq < seq)) || !o.kind.fetches || o.drained

/-- A slot's value at the home of a frame in a core's frame area. -/
def State.slotVal (s : State) (frame slot : Nat) : W64 :=
  match alFind s.frames frame with
  | some f => kvGet 0 f.slots slot
  | none => 0

/-- A message of the selected slice joins the channel of its die and a package (R269). -/
def State.send (s : State) (pkg : Nat) (m : ChanMsg) : State := s.sendFrom s.die pkg m

/-- The byte `n` of what an access reaches: its space, its object, its place there. -/
def Target.byte (t : Target) (n : Nat) : Nat × Nat × Nat :=
  match t with
  | .mem pa _ => (0, 0, pa + n)
  | .home pa => (0, 0, pa + n)
  | .spad k off => (1, k, off + n)
  | .slot f k => (2, f, 8 * k + n)

/-- Two accesses name a common byte. -/
def Access.meets (a b : Access) : Bool :=
  (List.range a.size).any fun n => (List.range b.size).any fun m => a.tgt.byte n == b.tgt.byte m

/-- Every access of an earlier operation of the slice that meets the access has arrived or been performed: what R112 and
R249 ask of one slice's accesses to the same bytes, the operations picked by `k`. -/
def Slice.clearOf (x : Slice) (seq : Nat) (a : Access) (k : OpKind → Bool) : Bool :=
  x.ops.all fun o => !(decide (o.seq < seq)) || !k o.kind || o.acc.all fun b => !b.meets a || b.st.performed

/-- The core that holds what an access of a scratchpad or a frame area reaches. -/
def State.coreOf (s : State) (t : Target) : Option Nat :=
  match t with
  | .spad k _ => (alFind s.teams k).map (·.core)
  | .slot f _ => (alFind s.frames f).map (·.core)
  | _ => none

/-- The earlier stores of the slice to the target core have arrived, and the earlier lanes of this one that name a common byte
(R262; 06, R112). -/
def State.arrivedInOrder (s : State) (o : Op) (part : Nat) (a : Access) : Bool :=
  let there := fun b : Access => (match b.tgt with
    | .spad _ _ => true
    | .slot _ _ => true
    | _ => false) && s.coreOf b.tgt == s.coreOf a.tgt
  (s.cur.sl.ops.all fun p => !(decide (p.seq < o.seq)) || p.kind != .store || p.acc.all fun b => !there b || b.st.performed) &&
    (o.acc.take part).all fun b => !b.meets a || b.st.performed

/-- What a lane of the same load has read of a byte already (06, R112). -/
def Op.read? (o : Op) (k : Nat × Nat × Nat) : Option Byte :=
  o.acc.findSome? fun b => if b.st = .done then (List.range b.size).findSome? fun m =>
    if b.tgt.byte m = k then some (BitVec.ofNat 8 (b.got.toNat / 2 ^ (8 * m))) else none else none

/-- The value `v` of an access with the bytes that other lanes of its load have read already (06, R112). -/
def Op.shares (o : Op) (a : Access) (v : W64) : W64 :=
  BitVec.ofNat 64 (leNat ((List.range a.size).map fun n =>
    (o.read? (a.tgt.byte n)).getD (BitVec.ofNat 8 (v.toNat / 2 ^ (8 * n)))))

/-- Another lane of the load stands so at the location. -/
def Op.laneAt (o : Op) (x : Nat) (st : AccState) : Bool := o.acc.any fun b => b.loc == some x && b.st == st

/-- A scratchpad line read by a load word, or written by a store word (06, R108). -/
def State.tagLine (s : State) (team off : Nat) (f : W64 → W64) : State :=
  { s with teams := alMod s.teams team fun t => t.tag (off / 2048) f }

/-- The operation has loads to perform. -/
def OpKind.isLoad : OpKind → Bool
  | .load _ => true
  | .opq _ _ => true
  | _ => false

/-- The access answered. -/
def State.answerAcc (s : State) (op part : Nat) (st : AccState) (v : W64) : State :=
  (s.setSl (·.modAcc op part fun a => { a with got := if st = .done then v else a.got, st := st })).settle

/-- LOAD of memory: from the slice's own visible writes, else the view of its die, or of the home for a frame's slot
(17, R297); lanes of one load that name the same bytes receive the same value (06, R112). -/
def State.loadMem (s : State) (o : Op) (part : Nat) (a : Access) (pa : Nat) (atHome : Bool) : State :=
  let x := pa / 8 * 8
  let own := s.visible (if atHome then (homeOf pa).getD s.die else s.die) s.cur.sl.own
  let covered := ownCovers own o.seq x (accMask pa a.size)
  if !s.cur.sl.earlierAt o.seq x then s
  else if o.laneAt x .bad then s.answerAcc o.id part .bad 0
  else if o.laneAt x .done then s.answerAcc o.id part .done (o.shares a 0)
  else
    match homeOf pa with
    | none =>
      if covered then s.answerAcc o.id part .done (picked pa a.size (ownOver own o.seq x 0))
      else if o.laneAt x .asked then s
      else (s.send (pkgOf pa) (.load x s.cur.g.id o.id part)).setSl (·.modAcc o.id part fun a => { a with st := .asked })
    | some h =>
      let e := if atHome then h else s.die
      let miss := s.missesL2 pa && !covered
      if miss && !s.dramReady s.die pa then s
      else
        let s := if miss then s.touchBank pa else s
        if s.poisonedAt e pa && !s.ownGives e own o.seq pa (accMask pa a.size) then (s.poisonReadAt e pa).answerAcc o.id part .bad 0
        else s.answerAcc o.id part .done (picked pa a.size (ownOver own o.seq x (readDword (s.views.get e) x)))

/-- The load words leave tag entries as R108 says: `oldu` and `oldg` change none. -/
def OpKind.tagging : OpKind → Bool
  | .load _ => true
  | _ => false

/-- LOAD (R260): access `part` of load `op` of the selected slice is performed. -/
def execLoad (op part : Nat) (s : State) : Host.Outcome State Fault Refusal :=
  match s.cur.sl.op? op with
  | none => .next s
  | some o =>
    match o.acc[part]?, o.kind.isLoad with
    | some a, true =>
      if a.st ≠ .waiting ∨ !s.cur.sl.acquired o.seq then .next s
      else
        match a.tgt with
        | .mem pa _ => .next (s.loadMem o part a pa false)
        | .home pa => .next (s.loadMem o part a pa true)
        | .spad t off =>
          if !s.cur.sl.clearOf o.seq a (· == .store) then .next s
          else
            let v := BitVec.ofNat 64 (leNat (s.spadRead t off a.size))
            .next ((if o.kind.tagging then s.tagLine t off tagAfterLoad else s).answerAcc op part .done (o.shares a v))
        | .slot fr k =>
          if !s.cur.sl.clearOf o.seq a fun _ => true then .next s
          else .next (s.answerAcc op part .done (o.shares a (s.slotVal fr k)))
    | _, _ => .next s

/-- An older entry of the slice to the location remains in the store buffer, or an earlier atomic or reduction of it there
has not been performed, one that waits for the Cupola among them (R260, DRAIN; 14, R248, R249). -/
def State.olderAt (s : State) (o : Op) (part x : Nat) : Bool :=
  (s.cur.sl.ops.any fun p => decide (p.seq < o.seq) && (match p.kind with
    | .store => true
    | .atomic _ _ _ _ _ => true
    | _ => false) && (p.laneAt x .waiting || ((homeOf x).isSome && p.laneAt x .asked))) || (o.acc.take part).any fun b => b.loc == some x && b.st == .waiting

/-- DRAIN (R260): access `part` of store `op` leaves the store buffer: the die stamps it, the fabric channel takes it,
or it arrives at the scratchpad or the frame area. -/
def execDrain (op part : Nat) (s : State) : Host.Outcome State Fault Refusal :=
  match s.cur.sl.op? op with
  | none => .next s
  | some o =>
    match o.acc[part]?, o.kind with
    | some a, .store =>
      if a.st ≠ .waiting ∨ !s.cur.sl.released o.seq then .next s
      else
        match a.tgt with
        | .mem pa _ =>
          let x := pa / 8 * 8
          if s.olderAt o part x || !s.cur.sl.loadsDone o.seq then .next s
          else
            match homeOf pa with
            | none =>
              .next ((s.send (pkgOf pa) (.write x (accMask pa a.size) (placed pa a.data) s.cur.g.id op)).setSl
                (·.modAcc op part fun a => { a with st := .asked })).settle
            | some _ =>
              let w := s.nextId
              let s := s.stampWrite s.die x (accMask pa a.size) (placed pa a.data) (some s.cur.g.tcb)
              .next (s.setSl fun y =>
                let y := y.modAcc op part fun a => { a with st := .sent w }
                { y with own := (y.own.foldl (fun (acc : List OwnWrite × Bool) e =>
                    if !acc.2 && e.op == op && e.x == x && e.w.isNone then (acc.1 ++ [{ e with w := some w }], true)
                    else (acc.1 ++ [e], acc.2)) ([], false)).1 }).settle
        | .home _ => .next s
        | .spad t off =>
          if !s.arrivedInOrder o part a || !s.cur.sl.clearOf o.seq a (·.isLoad) then .next s
          else
            .next (((s.spadWrite t off (leBytes a.size a.data.toNat)).tagLine t off tagAfterStore).answerAcc op part .done 0)
        | .slot fr k =>
          if !s.arrivedInOrder o part a || !s.cur.sl.clearOf o.seq a fun _ => true then .next s
          else
            .next (({ s with frames := alMod s.frames fr fun f => { f with slots := kvPut 0 f.slots k a.data } } : State).answerAcc
              op part .done 0)
    | _, _ => .next s

/-- The clock condition of APPLY (R260). -/
def applyClock (v : Stamp) (w : PWrite) : Bool :=
  v.get w.by' + 1 == w.t.get w.by' &&
    (List.range 5).all fun k => k == w.by' || decide (w.t.get k ≤ v.get k)

/-- Every write to the location before `w` in home order is applied at `e` (R260). -/
def State.homeOrderOk (s : State) (e : Nat) (w : PWrite) : Bool :=
  s.writes.all fun p => p.x != w.x || p.id == w.id || p.ord == 0 || decide (w.ord ≤ p.ord) || p.at'.getLsbD e

/-- A write has been applied at every agent: no burst waits for it any more (04, R74). -/
def settleWrite (l : List Poison) (w : Nat) : List Poison :=
  (l.map fun p => { p with by' := p.by'.filter (· != w) }).filter fun p => p.written != BitVec.allOnes 256 || p.by' != []

/-- A write applied at an agent: its bytes, the agent's clock, at home its place in the home order; one that has that place
already leaves its bytes there as they are.  A write applied at every agent leaves the list. -/
def State.applyAt (s : State) (e : Nat) (w : PWrite) : State :=
  let h := (homeOf w.x).getD 4
  let first := e = h ∧ w.ord = 0
  let s := if first then s.snapshot w.tcb w.x else s
  let w' := { w with at' := w.at' ||| BitVec.ofNat 5 (2 ^ e), ord := if first then s.nextId else w.ord }
  { s with
    views := if e = h ∧ w.ord ≠ 0 then s.views else s.views.set e (writeDword (s.views.get e) w.x w.mask w.data)
    clk := kvPut Stamp.zero s.clk e ((s.clock e).set w.by' (w.t.get w.by'))
    poison :=
      let l := if first then poisonMask s.poison w.x w.mask (some w.id) else s.poison
      if w'.at' = BitVec.allOnes 5 then settleWrite l w.id else l
    belfry := if first then mendLine s.belfry w.x w.mask (some w.id) else s.belfry
    nextId := s.nextId + 1
    writes := if w'.at' = BitVec.allOnes 5 then s.writes.filter fun p => p.id != w.id
              else s.writes.map fun p => if p.id = w.id then w' else p }

/-- The write may be applied at the agent (R260, APPLY). -/
def State.canApply (s : State) (e : Nat) (w : PWrite) : Bool :=
  let h := (homeOf w.x).getD 4
  decide (e < 5) && !w.at'.getLsbD e && (e == h || w.at'.getLsbD h) && applyClock (s.clock e) w &&
    (e == h || s.homeOrderOk e w)

/-- APPLY (R260, R261): stamped write `w` is applied at agent `agent`. -/
def execApply (agent w : Nat) (s : State) : Host.Outcome State Fault Refusal :=
  match s.writes.find? fun p => p.id == w with
  | none => .next s
  | some p => if s.canApply agent p then .next (s.applyAt agent p).settle else .next s

/-- Where a deferred trap finds the group: its next unissued word, or the clause at which its lanes stand, and the lanes
that were to execute there (20, R351). -/
def State.boundary (s : State) : W64 × Nat × Mask :=
  match s.cur.sl.clause with
  | some c => (c.addr, if c.idx ≤ 1 ∧ s.cur.sl.rep.isNone ∧ s.cur.sl.only.isNone then 0 else c.idx, c.exec)
  | none =>
    if s.cur.sl.scalar then (s.cur.sl.pc, 0, 1)
    else
      let act := activeMask s.cur.g.pcv s.cur.g.park
      let a := minPc s.cur.g.pcv act
      (a, 0, maskOf fun l => inMask act l && lane s.cur.g.pcv l == a)

/-- The first load, in issue order, all of whose data has come and some of it uncorrectable. -/
def Slice.badLoad (x : Slice) : Option Op :=
  x.ops.find? fun o => o.kind.fetches && o.drained && o.acc.any (·.st == .bad)

/-- The lanes of a load whose data is uncorrectable; a load of one value reports its EXEC (20, R351). -/
def Op.badLanes (o : Op) : Mask :=
  match o.kind with
  | .load (.scal _) => o.exec
  | .load (.bcast _) => o.exec
  | .atomic _ _ (.scal _) _ _ => o.exec
  | _ => maskOf fun l => o.acc.any fun a => a.lane == l && a.st == .bad

/-- UNCORRECTABLE_LOAD_TRAP (20, R351): at the boundary after the reply the group takes cause 0x0A; a slice that waits inside
a word is at none, one that has been stopped takes none; a group all of whose lanes have exited has no boundary, and the Keep
acts as without a handler (log 84). -/
def execUncorrectableLoadTrap (s : State) : Host.Outcome State Fault Refusal :=
  match s.cur.sl.badLoad with
  | none => .next s
  | some o =>
    if s.cur.sl.handler.isSome ∨ s.cur.sl.ended ∨ s.cur.sl.wait.isSome then .next s
    else
      let (a, w, m) := s.boundary
      let t : TrapInfo := { cause := 0x0A, mask := o.badLanes, aux := o.badVa, faulty := o.word, clause := a, word := w, exec := m,
                            load := some o, bad := o.badLanes, need := .read }
      let s := s.setSl fun x => { x with ops := x.ops.filter fun p => p.id != o.id }
      .next (if m = 0 then s.keepActs t else s.takeTrap t)

end Sys2Proof.Machine
end

