-- ==== Sys2Proof/Machine/Sync.lean ====
section
/-! DEFINITION. Barriers, tile queues, rings, grid barriers, mailboxes and fences (19; 15, R265-R268; 08, R161). -/

namespace Sys2Proof.Machine

/-! ## Scopes (15, R265, R266) -/

/-- A die as an agent of a set. -/
def dieBit (d : Nat) : BitVec 5 := BitVec.ofNat 5 (2 ^ d)

/-- The dies of a core bitmap. -/
def diesOf (cores : Nat) : BitVec 5 :=
  BitVec.ofNat 5 ((List.range 4).foldl (fun m d => if cores / 2 ^ (48 * d) % 2 ^ 48 ≠ 0 then m + 2 ^ d else m) 0)

/-- The VA of a scope-table entry of the selected slice's context. -/
def State.scopeVa (s : State) (n : Nat) : W64 := (s.ctx?.map (·.r.scopeTab)).getD 0 + BitVec.ofNat 64 (32 * n)

/-- Four dwords as an entry. -/
def scopeBits (l : List W64) : BitVec 256 := l.getD 3 0 ++ l.getD 2 0 ++ l.getD 1 0 ++ l.getD 0 0

/-- The copy of a scope-table entry that a word uses, none where it reads the table: each word reads a value kept or the
table's, by a free choice (R265; log 82). -/
def State.scopeCopy (s : State) (n : Nat) : Option (BitVec 256) :=
  let l := s.scopes.filter fun c => c.ctx == s.cur.g.ctx && c.n == n
  match l with
  | [] => none
  | _ => l[Config.choice s.tick n % (l.length + 1)]?.map (·.raw)

/-- A scope-table entry as a word reads it, and the walks of its read: a kept copy, or the table by the rules of LOAD. -/
def State.scopeRaw (s : State) (n : Nat) : Except Nat (BitVec 256 × List (List Nat)) :=
  match s.scopeCopy n with
  | some raw => .ok (raw, [])
  | none =>
    match s.readVas (s.scopeVa n) 4 with
    | .ok (l, ps) => .ok (scopeBits l, ps)
    | .error (e, _) => .error e

/-- The walks of a word's read of its scope entry marked (06, R101); sg0 to sg5 are not read. -/
def State.markScope (s : State) (n : Nat) : State :=
  if n ≤ 5 then s
  else
    match s.scopeRaw n with
    | .ok (_, ps) => s.markAll ps .read
    | .error _ => s

/-- The agents a release of a scope waits on and whether it is sg4; cause 0x13 with the entry number where the entry is
not usable or leaves the issuing core out (R265, R266), and the read's own cause with the entry's VA where its read
fails (R103, R354). -/
def State.scope (s : State) (n : Nat) : Res (BitVec 5 × Bool) :=
  if n ≤ 2 then .ok (dieBit s.die, false)
  else if n = 3 then .ok (0x0F, false)
  else if n = 4 then .ok (0x0F, true)
  else if n = 5 then .ok (0x1F, false)
  else
    match s.scopeRaw n with
    | .error e => .fail e s.exec' (s.scopeVa n)
    | .ok (raw, _) =>
      let r := raw.toNat
      if r / 2 ^ 200 ≠ 0 ∨ r / 2 ^ 192 % 256 ≠ 1 ∨ r / 2 ^ s.coreNo % 2 = 0 then .trap 0x13 s.exec' (BitVec.ofNat 64 n)
      else .ok (diesOf (r % 2 ^ 192), false)

/-- An implied acquire: later loads of the slice wait for its earlier loads (R268). -/
def State.acquire (s : State) : State := s.issue (.fence false true 0 false 0) none []

/-- The release part of the fence a synchronising word implies has completed (R268). -/
def State.released (s : State) (agents : BitVec 5) : Bool :=
  s.releaseDone s.cur.sl s.cur.sl.nextSeq agents false 0

/-- A word that has waited, or need not, completes: the wait ends and the position advances. -/
def State.complete' (s : State) : State := s.clearWait.advance

/-- fence and qfence (R267). -/
def State.doFence (s : State) (c : BitVec 5) (k : BitVec 2) (q : BitVec 8) (f : BitVec 1) : Host.Outcome State Fault Refusal :=
  if !kindOk k then .next (s.trap 0x02 s.exec' s.wordAux)
  else
    match s.scope c.toNat with
    | .trap n m a => .next (s.trap n m a)
    | .denied n m a k => .next (s.trap n m a k)
    | .stall => .next s
    | .ok (agents, sys) =>
      if !s.flagFree (s.fsFlag f) then .next s
      else
        let rel := k.toNat = 1 ∨ k.toNat = 2
        let acq := k.toNat = 0 ∨ k.toNat = 2
        .next ((s.markScope c.toNat).issue (.fence rel acq agents sys q) (s.fsFlag f) []).advance.settle

def execFence (c : BitVec 5) (k : BitVec 2) (f : BitVec 1) (s : State) : Host.Outcome State Fault Refusal := s.doFence c k 0 f

def execQfence (c : BitVec 5) (k : BitVec 2) (q : BitVec 8) (f : BitVec 1) (s : State) : Host.Outcome State Fault Refusal :=
  s.doFence c k q f

/-! ## Team objects -/

def State.modTeam (s : State) (f : Team → Team) : State := { s with teams := alMod s.teams s.cur.g.team f }

def Team.bar (t : Team) (b : Nat) : Barrier := kvGet (Barrier.start t.groups) t.bars b

def Team.setBar (t : Team) (b : Nat) (x : Barrier) : Team := { t with bars := kvPut (Barrier.start t.groups) t.bars b x }

def Team.tq (t : Team) (q : Nat) : TileQueue := kvGet TileQueue.empty t.tqs q

def Team.setTq (t : Team) (q : Nat) (x : TileQueue) : Team := { t with tqs := kvPut TileQueue.empty t.tqs q x }

/-- A SYNC word of a group of a team: not in the scalar profile; the team it belongs to, cause 0x13 without one. -/
def State.inTeam (s : State) (f : BitVec 1) (k : Team → Host.Outcome State Fault Refusal) : Host.Outcome State Fault Refusal :=
  if s.cur.sl.scalar then .next (s.trap 0x02 s.exec' s.wordAux)
  else if !s.mayWait (s.fsFlag f) then .next s
  else
    match s.team? with
    | none => .next (s.trap 0x13 s.exec' s.wordAux)
    | some t => k t

/-- A barrier index of the team (R333). -/
def State.inBars (s : State) (t : Team) (b : Nat) (k : Host.Outcome State Fault Refusal) : Host.Outcome State Fault Refusal :=
  if t.nbars ≤ b then .next (s.trap 0x13 s.exec' (BitVec.ofNat 64 b)) else k

/-! ## Named barriers (R333-R337) -/

def maskBit (g : Nat) : Mask := BitVec.ofNat 32 (2 ^ g)

/-- The payload operation over two contributions (R335). -/
def aopCombine (op : Nat) (x y : W64) : W64 :=
  if op = 1 then x &&& y else if op = 2 then x ||| y else if op = 3 ∨ op = 4 then x + y else 0

def aopIdentity (op : Nat) : W64 := if op = 1 then ones64 else 0

/-- A group's contribution over EXEC (R335). -/
def aopValue (op : Nat) (m : Mask) (x : Lanes) : W64 :=
  if op = 4 then BitVec.ofNat 64 ((lanesOf m).filter fun l => lane x l != 0).length
  else (lanesOf m).foldl (fun v l => aopCombine op v (if op = 3 then ((lane x l).setWidth 32).signExtend 64 else lane x l))
    (aopIdentity op)

/-- An arrival that traps (R334). -/
def Barrier.refuses (b : Barrier) (g op : Nat) : Bool :=
  b.arr.getLsbD g || (op != 0 && b.op != 0 && op != b.op)

/-- The arrival before the release test: the operation, the payload, the group counted (R334). -/
def Barrier.arrive (b : Barrier) (g op : Nat) (v : W64) (sig : Bool) : Barrier :=
  { b with op := if op = 0 then b.op else op
           pay := if op = 0 then b.pay else if b.op = 0 then v else aopCombine op b.pay v
           arr := b.arr ||| maskBit g
           sig := if sig then b.sig ||| maskBit g else b.sig
           cnt := b.cnt + 1 }

/-- The release of a phase (R334): its result and the barrier after it. -/
def Barrier.release (b : Barrier) : W64 × Barrier :=
  (if b.op = 0 then 0 else b.pay,
   { b with rel := b.rel ||| b.sig, arr := 0, sig := 0, cnt := 0, op := 0, pay := 0, phase := b.phase + 1 })

/-- A group blocked in `bar` on barrier `b` of team `t` receives the result; it finishes the word when it issues next. -/
def Slice.receive (b : Nat) (v : W64) (x : Slice) : Slice :=
  if x.wait = some (.barrier b true) then { x with wait := some (.released v) } else x

def Resident.receive (r : Resident) (t b : Nat) (v : W64) : Resident :=
  if r.g.team = t then
    { g := { r.g with companion := r.g.companion.map (Slice.receive b v) }, sl := r.sl.receive b v }
  else r

/-- The arrival of the selected group, and the release when it is the last one (R334). -/
def State.arrive (s : State) (t : Team) (b op : Nat) (v : W64) (sig : Bool) : State × Option W64 :=
  let x := (t.bar b).arrive s.cur.g.gidx op v sig
  if x.cnt = x.exp then
    let (res, y) := x.release
    ({ s.modTeam (·.setBar b y) with others := s.others.map (·.receive s.cur.g.team b res) }, some res)
  else (s.modTeam (·.setBar b x), none)

/-- The end of `bar`: the result in the lanes of EXEC, then the acquire (R335, R268); a group that cannot have a register
yet keeps the result. -/
def State.finishBar (s : State) (d : BitVec 7) (o : BitVec 3) (f : Option Nat) (v : W64) : Host.Outcome State Fault Refusal :=
  if o = 0 then .next s.complete'.acquire
  else
    match s.writeName s.cur.g d.toNat s.exec' (tab fun _ => v) with
    | .ok g => .next (s.setG fun _ => g).complete'.acquire
    | .trap c m a => .next (s.clearWait.trap c m a)
    | .denied c m a n => .next (s.clearWait.trap c m a n)
    | .stall => .next (s.setWait f (.released v))

def execBar (d : BitVec 7) (b : BitVec 9) (o : BitVec 3) (f : BitVec 1) (s : State) : Host.Outcome State Fault Refusal :=
  s.inTeam f fun t =>
    if !aopOk o || (o == 0 && d != 0) then .next (s.trap 0x02 s.exec' s.wordAux)
    else if o != 0 && ((s.cur.g.name d.toNat).isQueue || s.cur.g.full d.toNat) then .next (s.trap 0x03 s.exec' (BitVec.ofNat 64 d.toNat))
    else s.inBars t b.toNat (
      match s.cur.sl.wait with
      | some (.released v) => s.finishBar d o (s.fsFlag f) v
      | some (.barrier _ true) => .next s
      | _ =>
        if !s.released (dieBit s.die) then .next (s.setWait (s.fsFlag f) (.barrier b.toNat false))
        else if (t.bar b.toNat).refuses s.cur.g.gidx o.toNat then .next (s.clearWait.trap 0x13 s.exec' (BitVec.ofNat 64 b.toNat))
        else
          let v := aopValue o.toNat s.exec' (s.cur.g.val d.toNat)
          match s.arrive t b.toNat o.toNat v false with
          | (s, some res) => s.finishBar d o (s.fsFlag f) res
          | (s, none) => .next (s.setWait (s.fsFlag f) (.barrier b.toNat true)))

def execBarinit (r b : BitVec 9) (f : BitVec 1) (s : State) : Host.Outcome State Fault Refusal :=
  s.inTeam f fun t =>
    let v := s.rd r.toNat
    let x := t.bar b.toNat
    if v.toNat = 0 ∨ 32 < v.toNat then .next (s.trap 0x02 s.exec' v)
    else s.inBars t b.toNat (
      if x.cnt ≠ 0 ∨ x.arr ≠ 0 ∨ x.rel ≠ 0 then .next (s.trap 0x13 s.exec' (BitVec.ofNat 64 b.toNat))
      else .next (s.modTeam (·.setBar b.toNat { x with exp := v.toNat })).advance)

def execBarsig (b : BitVec 9) (f : BitVec 1) (s : State) : Host.Outcome State Fault Refusal :=
  s.inTeam f fun t => s.inBars t b.toNat (
    if !s.released (dieBit s.die) then .next (s.setWait (s.fsFlag f) (.barrier b.toNat false))
    else if (t.bar b.toNat).refuses s.cur.g.gidx 0 || (t.bar b.toNat).rel.getLsbD s.cur.g.gidx then
      .next (s.clearWait.trap 0x13 s.exec' (BitVec.ofNat 64 b.toNat))
    else .next (s.arrive t b.toNat 0 0 true).1.complete')

def execBarwait (b : BitVec 9) (f : BitVec 1) (s : State) : Host.Outcome State Fault Refusal :=
  s.inTeam f fun t => s.inBars t b.toNat (
    let x := t.bar b.toNat
    let g := s.cur.g.gidx
    if x.rel.getLsbD g then .next (s.modTeam (·.setBar b.toNat { x with rel := x.rel &&& ~~~(maskBit g) })).complete'.acquire
    else if x.arr.getLsbD g && x.sig.getLsbD g then .next (s.setWait (s.fsFlag f) (.barrier b.toNat false))
    else .next (s.clearWait.trap 0x13 s.exec' (BitVec.ofNat 64 b.toNat)))

/-! ## Tile queues (R339, R340) -/

/-- A queue index of the team. -/
def State.inTqs (s : State) (t : Team) (q : Nat) (k : Host.Outcome State Fault Refusal) : Host.Outcome State Fault Refusal :=
  if t.ntqs ≤ q then .next (s.trap 0x13 s.exec' (BitVec.ofNat 64 q)) else k

/-- The group may go: nobody waits before it (first come, first served). -/
def firstIn (l : List Nat) (g : Nat) : Bool :=
  match l with
  | [] => true
  | h :: _ => h == g

/-- The group at its place in a waiting line. -/
def joinLine (l : List Nat) (g : Nat) : List Nat := if l.contains g then l else l ++ [g]

def execQpush (r : BitVec 9) (q : BitVec 6) (f : BitVec 1) (s : State) : Host.Outcome State Fault Refusal :=
  s.inTeam f fun t => s.inTqs t q.toNat (
    let v := s.rd r.toNat
    let x := t.tq q.toNat
    if v = ones64 then .next (s.trap 0x13 s.exec' ones64)
    else if !s.released (dieBit s.die) then .next (s.setWait (s.fsFlag f) (.tileQueue q.toNat))
    else if x.allow = 0 ∨ !firstIn x.pushers s.cur.g.id then
      .next ((s.modTeam (·.setTq q.toNat { x with pushers := joinLine x.pushers s.cur.g.id })).setWait (s.fsFlag f) (.tileQueue q.toNat))
    else
      .next (s.modTeam (·.setTq q.toNat { x with allow := x.allow - 1, items := x.items ++ [v]
                                                 pushers := x.pushers.filter (· != s.cur.g.id) })).complete')

/-- The head entry popped into a register, then the acquire of R268. -/
def State.popTq (s : State) (q r : Nat) (x : TileQueue) : State :=
  (((s.modTeam (·.setTq q { x with items := x.items.tail, poppers := x.poppers.filter (· != s.cur.g.id) })).wr r
    (x.items.headD 0)).complete').acquire

/-- An entry taken past those that the waiting groups have coming: they are served first (R340). -/
def State.takeTq (s : State) (q r : Nat) (x : TileQueue) : State :=
  let n := x.poppers.length
  (((s.modTeam (·.setTq q { x with items := x.items.take n ++ x.items.drop (n + 1) })).wr r (x.items.getD n 0)).complete').acquire

def State.destNext (s : State) (n : Nat) (k : Host.Outcome State Fault Refusal) : Host.Outcome State Fault Refusal :=
  if s.reservedDest n then .next (s.trap 0x03 s.exec' (BitVec.ofNat 64 n)) else k

def execQpop (r : BitVec 9) (q : BitVec 6) (f : BitVec 1) (s : State) : Host.Outcome State Fault Refusal :=
  s.inTeam f fun t => s.destNext r.toNat (s.inTqs t q.toNat (
    let x := t.tq q.toNat
    if x.items = [] ∨ !firstIn x.poppers s.cur.g.id then
      .next ((s.modTeam (·.setTq q.toNat { x with poppers := joinLine x.poppers s.cur.g.id })).setWait (s.fsFlag f) (.tileQueue q.toNat))
    else .next (s.popTq q.toNat r.toNat x)))

def execQtry (r : BitVec 9) (q : BitVec 6) (f : BitVec 1) (s : State) : Host.Outcome State Fault Refusal :=
  s.inTeam f fun t => s.destNext r.toNat (s.inTqs t q.toNat (
    let x := t.tq q.toNat
    if x.items.length ≤ x.poppers.length then .next (s.wr r.toNat ones64).advance
    else .next (s.takeTq q.toNat r.toNat x)))

def execQallow (r : BitVec 9) (q : BitVec 6) (f : BitVec 1) (s : State) : Host.Outcome State Fault Refusal :=
  s.inTeam f fun t => s.inTqs t q.toNat (
    let v := s.rd r.toNat
    let x := t.tq q.toNat
    if 64 < x.items.length + x.allow + v.toNat then .next (s.trap 0x13 s.exec' v)
    else .next (s.modTeam (·.setTq q.toNat { x with allow := x.allow + v.toNat })).advance)

/-! ## Rings, consumer side (R341) -/

def Ring.cell (r : Ring) (q : Nat) : Nat := if r.ncell = 0 then 0 else q % r.ncell

/-- The SPA of the cell of item `q`. -/
def Ring.spa (r : Ring) (q : Nat) : W64 := BitVec.ofNat 64 (15 * 2 ^ 20 + (r.basel + r.cell q * r.cln) * 2 ^ 10)

def Ring.cursor (r : Ring) (c : Nat) : Nat := kvGet 0 r.cursors c

/-- Every cursor lets item `q` into its cell (07, R138). -/
def Ring.roomFor (r : Ring) (q : Nat) : Bool := (List.range r.ncons).all fun c => decide (q + 1 ≤ r.cursor c + r.ncell)

def Ring.seqWord (r : Ring) (q : Nat) : W64 := kvGet 0 r.seqs (r.cell q)

/-- Item `q` is published: its cell's sequence word is valid and carries it. -/
def Ring.published (r : Ring) (q : Nat) : Bool := (r.seqWord q).msb && (r.seqWord q).toNat % 2 ^ 48 == q

/-- The bound ring of the team that the word names; cause 0x13 with the ring number. -/
def State.inRing (s : State) (t : Team) (n : Nat) (k : Ring → Host.Outcome State Fault Refusal) : Host.Outcome State Fault Refusal :=
  match if t.rings.getLsbD n then kvGet none t.ringst n else none with
  | none => .next (s.trap 0x13 s.exec' (BitVec.ofNat 64 n))
  | some r => k r

def State.setRing (s : State) (n : Nat) (r : Ring) : State :=
  s.modTeam fun t => { t with ringst := kvPut none t.ringst n (some r) }

def execRingpub (g : BitVec 4) (a : BitVec 9) (f : BitVec 1) (s : State) : Host.Outcome State Fault Refusal :=
  s.inTeam f fun t => s.inRing t g.toNat fun r =>
    match r.claimed.find? fun c => r.spa c.2 == s.rd a.toNat with
    | none => .next (s.trap 0x13 s.exec' (BitVec.ofNat 64 g.toNat))
    | some c =>
      if !s.released (dieBit s.die) then .next (s.setWait (s.fsFlag f) (.ring g.toNat))
      else .next (s.setRing g.toNat { r with seqs := kvPut 0 r.seqs c.1 (BitVec.ofNat 64 (2 ^ 63 + c.2 % 2 ^ 48))
                                             claimed := kvErase r.claimed c.1 }).complete'

def execRingwait (d : BitVec 9) (g : BitVec 4) (a : BitVec 9) (f : BitVec 1) (s : State) : Host.Outcome State Fault Refusal :=
  s.inTeam f fun t => s.destNext d.toNat (s.inRing t g.toNat fun r =>
    let c := (s.rd a.toNat).toNat
    if c = 15 then
      if r.roomFor r.counter then
        .next ((s.setRing g.toNat { r with counter := r.counter + 1, claimed := kvInsert r.claimed (r.cell r.counter) r.counter }).wr
          d.toNat (r.spa r.counter)).complete'.acquire
      else .next (s.setWait (s.fsFlag f) (.ring g.toNat))
    else if r.ncons ≤ c ∨ r.storers.contains c then .next (s.trap 0x13 s.exec' (BitVec.ofNat 64 g.toNat))
    else
      let q := r.cursor c
      if !r.published q then .next (s.setWait (s.fsFlag f) (.ring g.toNat))
      else if (r.seqWord q).getLsbD 62 then
        .next (s.clearWait.trap ((r.seqWord q).toNat / 2 ^ 55 % 128) s.exec' (BitVec.ofNat 64 q))
      else .next (s.wr d.toNat (r.spa q)).complete'.acquire)

def execRingadv (d : BitVec 9) (g : BitVec 4) (a : BitVec 9) (f : BitVec 1) (s : State) : Host.Outcome State Fault Refusal :=
  s.inTeam f fun t => s.destNext d.toNat (s.inRing t g.toNat fun r =>
    let c := (s.rd a.toNat).toNat
    if r.ncons ≤ c ∨ r.storers.contains c ∨ !r.published (r.cursor c) then .next (s.trap 0x13 s.exec' (BitVec.ofNat 64 g.toNat))
    else if !s.cur.sl.loadsDone s.cur.sl.nextSeq then .next (s.setWait (s.fsFlag f) (.ring g.toNat))
    else .next ((s.setRing g.toNat { r with cursors := kvPut 0 r.cursors c (r.cursor c + 1) }).wr d.toNat
        (BitVec.ofNat 64 (r.cursor c + 1))).complete')

/-! ## Grid barriers (R342) -/

/-- Groups of the grid's teams that have not ended. -/
def State.gridAlive (s : State) (tcb : Nat) : Nat :=
  ((s.cur :: s.others).filter fun r => r.g.tcb == tcb && r.g.id != 0 && r.g.task == .team && r.g.alive).length

def State.modCtx (s : State) (f : CtxState → CtxState) : State := { s with ctxs := alMod s.ctxs s.cur.g.ctx f }

def execGbar (_r b : BitVec 9) (f : BitVec 1) (s : State) : Host.Outcome State Fault Refusal :=
  s.inTeam f fun _ =>
    if 256 ≤ b.toNat then .next (s.trap 0x02 s.exec' s.wordAux)
    else
      match alFind s.tcbs s.cur.g.tcb, s.ctx? with
      | some t, some c =>
        if !t.kernel.cores || s.cur.g.task != .team then .next (s.trap 0x13 s.exec' (BitVec.ofNat 64 b.toNat))
        else
          let ph := kvGet 0 c.gphase b.toNat
          let n := kvGet 0 c.garr b.toNat
          let go := fun (s : State) (n : Nat) =>
            if s.gridAlive s.cur.g.tcb ≤ n then
              (s.modCtx fun c => { c with garr := kvPut 0 c.garr b.toNat 0, gphase := kvPut 0 c.gphase b.toNat (ph + 1) }).complete'.acquire
            else (s.modCtx fun c => { c with garr := kvPut 0 c.garr b.toNat n }).setWait (s.fsFlag f) (.gbar b.toNat ph)
          match s.cur.sl.wait with
          | some (.gbar _ p) =>
            if p < ph then .next s.complete'.acquire
            else .next (go s n)
          | _ => if !s.released 0x0F then .next (s.setWait (s.fsFlag f) (.fence 0)) else .next (go s (n + 1))
      | _, _ => .next (s.trap 0x13 s.exec' (BitVec.ofNat 64 b.toNat))

/-! ## Mailboxes (08, R161; R344) -/

def Group.box (g : Group) (m : Nat) : Option W64 := kvGet none g.mb m

def Group.setBox (g : Group) (m : Nat) (v : Option W64) : Group := { g with mb := kvPut none g.mb m v }

/-- The other slice's waiting mailbox word completes: its destination is written and it advances. -/
def Resident.wake (r : Resident) (f : Slice → Slice) : Resident :=
  let q := r.swap
  ({ q with sl := (f q.sl).clearWait } : Resident).advance.swap

/-- The other slice waits to write mailbox `m`: its value. -/
def Group.writer (g : Group) (m : Nat) : Option W64 :=
  match g.companion with
  | some x => match x.wait with
    | some (.mbWrite n v) => if n = m then some v else none
    | _ => none
  | none => none

/-- The other slice waits to read mailbox `m`: its destination. -/
def Group.reader (g : Group) (m : Nat) : Option Nat :=
  match g.companion with
  | some x => match x.wait with
    | some (.mbRead n d) => if n = m then some d else none
    | _ => none
  | none => none

/-- No slice can complete the execute slice's wait: the other is descheduled on a mailbox or has exited (08, R161). -/
def Resident.stuck (r : Resident) : Bool :=
  r.sl.kind == .execute && (match r.g.companion with
    | some x => x.ended || (match x.wait with
      | some (.mbRead _ _) => true
      | some (.mbWrite _ _) => true
      | _ => false)
    | none => true)

/-- The mailbox emptied by a read; a waiting writer's value is then stored and its word completes. -/
def Resident.takeBox (r : Resident) (m : Nat) : Resident :=
  match r.g.writer m with
  | some v => ({ r with g := r.g.setBox m (some v) } : Resident).wake id
  | none => { r with g := r.g.setBox m none }

/-- Mailbox words of a detached group and of the Keep's streams trap (07, R145; 19, R344). -/
def State.mailbox (s : State) (m : BitVec 4) (f : BitVec 1) (k : Host.Outcome State Fault Refusal) : Host.Outcome State Fault Refusal :=
  if !s.cur.g.coupled || s.cur.sl.ofKeep then .next (s.trap 0x14 s.exec' (BitVec.ofNat 64 m.toNat))
  else if !s.mayWait (s.fsFlag f) then .next s
  else k

def State.boxTrap (s : State) (m : BitVec 4) : State := s.clearWait.trap 0x13 s.exec' (BitVec.ofNat 64 m.toNat)

def execMbrd (d : BitVec 9) (m : BitVec 4) (f : BitVec 1) (s : State) : Host.Outcome State Fault Refusal :=
  s.destNext d.toNat (s.mailbox m f (
    match s.cur.g.box m.toNat with
    | some v => .next ({ s with cur := s.cur.takeBox m.toNat }.wr d.toNat v).complete'
    | none => if s.cur.stuck then .next (s.boxTrap m) else .next (s.setWait (s.fsFlag f) (.mbRead m.toNat d.toNat))))

def execMbwr (d : BitVec 9) (m : BitVec 4) (f : BitVec 1) (s : State) : Host.Outcome State Fault Refusal :=
  s.mailbox m f (
    match s.cur.g.box m.toNat with
    | some _ => if s.cur.stuck then .next (s.boxTrap m) else .next (s.setWait (s.fsFlag f) (.mbWrite m.toNat (s.rd d.toNat)))
    | none =>
      match s.cur.g.reader m.toNat with
      | some r => .next { s with cur := s.cur.wake fun x => x.wr r (s.rd d.toNat) }.complete'
      | none => .next (s.setG fun g => g.setBox m.toNat (some (s.rd d.toNat))).complete')

def execMbtry (d : BitVec 9) (m : BitVec 4) (f : BitVec 1) (s : State) : Host.Outcome State Fault Refusal :=
  if d.toNat = 511 then .next (s.trap 0x03 s.exec' 511)
  else s.destNext d.toNat (s.destNext (d.toNat + 1) (s.mailbox m f (
      match s.cur.g.box m.toNat with
      | some v => .next (({ s with cur := s.cur.takeBox m.toNat }.wr d.toNat v).wr (d.toNat + 1) 0).advance
      | none => .next (s.wr (d.toNat + 1) 1).advance)))

end Sys2Proof.Machine
end

