-- ==== Sys2Proof/Machine/Atomics.lean ====
section
/-! DEFINITION. The AT words and the Belfry's step ATOMIC (14; 15, R260). -/

namespace Sys2Proof.Machine

/-! ## The words (R250-R256) -/

/-- A region that excludes the member: host memory takes aadd, aswap and acas only (R256). -/
def Checked.hostOnly (c : Checked) (op : AtomicOp) (fetch : Bool) : Checked :=
  match c.res with
  | .ok (.mem pa hc, p) =>
    if regionOf pa = 0xFFF ∧ !(fetch && (op == .add || op == .swap || op == .cas)) then { c with res := .error 0x08 }
    else { c with res := .ok (.mem pa hc, p) }
  | _ => c

/-- A destination or source register of acas and of the fetching members that is a queue, or does not exist (R251). -/
def State.atRegs (s : State) (d : Nat) (two fetch : Bool) (r : Res α) : Res α :=
  let q := fun n => !s.cur.sl.scalar && (s.cur.g.name n).isQueue
  if two && d == 127 then .trap 0x03 s.exec' 128
  else if fetch && q d then .trap 0x03 s.exec' (BitVec.ofNat 64 d)
  else if two && q (d + 1) then .trap 0x03 s.exec' (BitVec.ofNat 64 (d + 1))
  else r

/-- The lanes of an AT word at their addresses. -/
def State.atChecks (s : State) (op : AtomicOp) (fetch : Bool) (size : Nat) (va : Nat → W64) : List Checked :=
  (lanesOf s.exec').map fun k => (⟨k, va k, s.checkVa (va k) size .both⟩ : Checked).hostOnly op fetch

/-- The lanes of a reduction, whose operand may be a queue; none where its address is an empty queue (02, R37). -/
def State.atLanes (s : State) (op : AtomicOp) (fetch : Bool) (a : BitVec 7) (w : BitVec 1) : List Checked :=
  if fetch then []
  else
    match s.sources [⟨a.toNat, false⟩] none with
    | .ok (vs, _) => s.atChecks op fetch (if w = 1 then 8 else 4) (lane (vs.getD 0 zeroLanes))
    | _ => []

/-- An AT word: the checks of R251, then one operation with an access for each lane of EXEC. -/
def State.at (s : State) (op : AtomicOp) (fetch : Bool) (d a : BitVec 7) (c : BitVec 5) (w x f : BitVec 1) : Res State :=
  let w64 := w == 1
  let size := if w64 then 8 else 4
  let n := d.toNat
  let two := op == .cas && w64
  s.flagged (s.fsFlag f) (s.atRegs n two fetch (State.alignFirst (s.atLanes op fetch a w) (
    (s.sources ([⟨a.toNat, x == 1⟩, ⟨n, false⟩] ++ (if two then [⟨n + 1, false⟩] else [])) (if fetch then some n else none)).bind
      fun (vs, g) =>
        let va := lane (vs.getD 0 zeroLanes)
        let v := lane (vs.getD 1 zeroLanes)
        let dest : Dest := if !fetch then .nowhere else if s.cur.sl.scalar then .scal n else .vec n
        (s.reserve g dest).bind fun g =>
          s.checkedWord (s.atChecks op fetch size va) .both false fun s' =>
            (s.scope c.toNat).bind fun (agents, sys) =>
              .ok (((s'.markScope c.toNat).setG fun _ => g).issue (.atomic op w64 dest agents sys) (s.fsFlag f)
                (accessesOf (s.atChecks op fetch size va) size (fun k => if w64 then v k else (v k).setWidth 32 |>.setWidth 64)
                  (fun k => if two then lane (vs.getD 2 zeroLanes) k else if op = .cas then v k >>> 32 else 0))))))

def execAadd (d a : BitVec 7) (c : BitVec 5) (w x f : BitVec 1) (s : State) : Host.Outcome State Fault Refusal :=
  s.run (s.at .add true d a c w x f)

def execAand (d a : BitVec 7) (c : BitVec 5) (w x f : BitVec 1) (s : State) : Host.Outcome State Fault Refusal :=
  s.run (s.at .and true d a c w x f)

def execAor (d a : BitVec 7) (c : BitVec 5) (w x f : BitVec 1) (s : State) : Host.Outcome State Fault Refusal :=
  s.run (s.at .or true d a c w x f)

def execAxor (d a : BitVec 7) (c : BitVec 5) (w x f : BitVec 1) (s : State) : Host.Outcome State Fault Refusal :=
  s.run (s.at .xor true d a c w x f)

def execAmin (d a : BitVec 7) (c : BitVec 5) (w x f : BitVec 1) (s : State) : Host.Outcome State Fault Refusal :=
  s.run (s.at .min true d a c w x f)

def execAmax (d a : BitVec 7) (c : BitVec 5) (w x f : BitVec 1) (s : State) : Host.Outcome State Fault Refusal :=
  s.run (s.at .max true d a c w x f)

def execAswap (d a : BitVec 7) (c : BitVec 5) (w x f : BitVec 1) (s : State) : Host.Outcome State Fault Refusal :=
  s.run (s.at .swap true d a c w x f)

def execAcas (d a : BitVec 7) (c : BitVec 5) (w x f : BitVec 1) (s : State) : Host.Outcome State Fault Refusal :=
  s.run (s.at .cas true d a c w x f)

def execRedadd (d a : BitVec 7) (c : BitVec 5) (w x f : BitVec 1) (s : State) : Host.Outcome State Fault Refusal :=
  s.run (s.at .add false d a c w x f)

def execRedmin (d a : BitVec 7) (c : BitVec 5) (w x f : BitVec 1) (s : State) : Host.Outcome State Fault Refusal :=
  s.run (s.at .min false d a c w x f)

def execRedmax (d a : BitVec 7) (c : BitVec 5) (w x f : BitVec 1) (s : State) : Host.Outcome State Fault Refusal :=
  s.run (s.at .max false d a c w x f)

def execFredadd (d a : BitVec 7) (c : BitVec 5) (w x f : BitVec 1) (s : State) : Host.Outcome State Fault Refusal :=
  s.run (s.at .fadd false d a c w x f)

/-! ## The operation at the location (R252-R255) -/

/-- The new value and the flags of one lane's operation at a width. -/
def atomicNew (op : AtomicOp) (w old v new : Nat) : Nat × W64 :=
  match op with
  | .add => ((old + v) % 2 ^ w, 0)
  | .and => (old &&& v, 0)
  | .or => (old ||| v, 0)
  | .xor => (old ^^^ v, 0)
  | .min => (if sx w v < sx w old then v else old, 0)
  | .max => (if sx w old < sx w v then v else old, 0)
  | .swap => (v, 0)
  | .cas => (if old = v then new else old, 0)
  | .fadd => let f := if w = 64 then fp64 else fp32; f.round (sumNums [f.decode old, f.decode v])

/-- The bits of a dword at an access replaced. -/
def replaceAt (pa size : Nat) (old v : W64) : W64 := overlay (accMask pa size) (placed pa v) old

/-- The run of R253 over the accesses of a word in ascending lane order, from the location's value: the value left, the
bytes written, the flags, the accesses with their old values. -/
def runAt (op : AtomicOp) (x : Nat) (st : AccState) : List Access → W64 → W64 × BitVec 8 × W64 × List Access
  | [], v => (v, 0, 0, [])
  | a :: t, v =>
    if a.loc = some x then
      let pa := match a.tgt with
        | .mem pa _ => pa
        | _ => x
      let old := picked pa a.size v
      let (n, f) := atomicNew op (8 * a.size) old.toNat a.data.toNat a.new.toNat
      let (v', m, fl, as) := runAt op x st t (replaceAt pa a.size v (BitVec.ofNat 64 n))
      (v', m ||| accMask pa a.size, fl ||| f, { a with got := old, st := st } :: as)
    else
      let (v', m, fl, as) := runAt op x st t v
      (v', m, fl, a :: as)

/-! ## The Belfry's SRAM (R248) -/

/-- Some outstanding operation of a slice waits at a line. -/
def Slice.pendingLine (x : Slice) (line : Nat) : Bool :=
  x.ops.any fun o => match o.kind with
    | .atomic _ _ _ _ _ => o.acc.any fun a => (a.st == .waiting || a.st == .asked) && match a.tgt with
        | .mem pa _ => pa / 64 * 64 == line
        | _ => false
    | _ => false

def State.pendingLine (s : State) (line : Nat) : Bool :=
  (s.cur :: s.others).any fun r => r.sl.pendingLine line || (match r.g.companion with
    | some x => x.pendingLine line
    | none => false)

/-- The line held least recently used. -/
def oldestLine : List BelfryLine → Option BelfryLine
  | [] => none
  | h :: t =>
    match oldestLine t with
    | none => some h
    | some b => if b.used < h.used then some b else some h

/-- A line that leaves the SRAM is written back whole; words that are uncorrectable make its burst so (R248, R255). -/
def State.writeBack (s : State) (b : BelfryLine) : State :=
  let l := poisonWrite s.poison b.line 64 none
  { s with poison := if b.bad = 0 ∨ (l.any fun p => p.burst == burstOf b.line && p.written != BitVec.allOnes 256) then l
                     else l ++ [⟨burstOf b.line, 0, []⟩] }

/-- The lines held in the set of a location. -/
def State.wayLines (s : State) (die pa : Nat) : List BelfryLine :=
  s.belfry.filter fun b => b.die == die && b.line / 64 % 4096 == pa / 64 % 4096

/-- Operations of a slice that the Belfry has handed to the Cupola and that wait at a line. -/
def Slice.overAt (x : Slice) (line : Nat) : List Op :=
  x.ops.filter fun o => match o.kind with
    | .atomic _ _ _ _ _ => o.acc.any fun a => a.st == .asked && match a.tgt with
        | .mem pa _ => pa / 64 * 64 == line
        | _ => false
    | _ => false

/-- The group, the slice and the operation of each operation that waits at a line in the overflow area. -/
def State.overAt (s : State) (line : Nat) : List (Nat × SliceKind × Op) :=
  ((s.cur :: s.others).map fun r => ((r.sl.overAt line).map fun o => (r.g.id, r.sl.kind, o)) ++ match r.g.companion with
    | some x => (x.overAt line).map fun o => (r.g.id, x.kind, o)
    | none => []).flatten

/-- The location's line is served in the overflow area: not held, with every way of its set pending, or with operations
there already, since a line moves only while none is pending (R248). -/
def State.overflowed (s : State) (h pa : Nat) : Bool :=
  (s.heldLine pa).isNone && (s.overAt (pa / 64 * 64) != [] ||
    (decide (16 ≤ (s.wayLines h pa).length) && (s.wayLines h pa).all fun b => s.pendingLine b.line))

/-- The line of a location used: held already, or brought in, in place of the least recently used idle way of its set where
the set is full. -/
def State.holdLine (s : State) (die pa : Nat) : State :=
  let line := pa / 64 * 64
  if s.belfry.any fun b => b.die == die && b.line == line then
    { s with belfry := s.belfry.map fun b => if b.die = die ∧ b.line = line then { b with used := s.tick } else b }
  else
    let set := s.wayLines die pa
    if set.length < 16 then { s with belfry := s.belfry ++ [⟨die, line, s.tick, 0, []⟩] }
    else
      match oldestLine (set.filter fun b => !s.pendingLine b.line) with
      | none => s
      | some o => { s.writeBack o with belfry := s.belfry.filter (· != o) ++ [⟨die, line, s.tick, 0, []⟩] }

/-! ## ATOMIC (15, R260) -/

/-- Every earlier store of the slice to a location has been applied at its home. -/
def State.storesHome (s : State) (x : Slice) (seq loc home : Nat) : Bool :=
  x.own.all fun w => w.x != loc || !(decide (w.seq < seq)) || match w.w with
    | some i => s.appliedAt i home
    | none => false

/-- ATOMIC on a slot of a frame in a core's frame area (17, R300): at the frame's core, after what the slice has sent to the
slot before. -/
def State.slotAtomic (s : State) (o : Op) (a : Access) (f k : Nat) : State :=
  if a.st ≠ .waiting || !s.cur.sl.released o.seq || !s.cur.sl.loadsDone o.seq || !s.cur.sl.clearOf o.seq a (fun _ => true) then s
  else
    let old := s.slotVal f k
    (({ s with frames := alMod s.frames f fun x => { x with slots := kvPut 0 x.slots k (old + a.data) } } : State).setSl fun y =>
      { y with ops := y.ops.map fun p => if p.id = o.id then { p with acc := [{ a with got := old, st := .done }] } else p }).settle

/-- A HITS addition waits until the operation it follows has completed (21, R362). -/
def Slice.followsDone (x : Slice) (o : Op) : Bool :=
  o.kind != .atomic .add true .nowhere 0x0F false || o.acc.all fun a => a.new == 0 || (x.op? a.new.toNat).isNone

/-- The conditions of DRAIN and ATOMIC on the slice's own operations. -/
def Slice.mayAtomic (x : Slice) (o : Op) (loc : Nat) : Bool :=
  x.released o.seq && x.loadsDone o.seq && x.earlierAt o.seq loc && x.followsDone o

/-- Uncorrectable data at a location: it stays as it is; the lanes of a fetching member are bad, a reduction is a
containment event of the launch (R255). -/
def State.atomicBad (s : State) (o : Op) (x : Nat) : State :=
  let bad := o.kind.fetches
  let s' := s.setSl fun y => { y with ops := y.ops.map fun p => if p.id = o.id then
    { p with acc := p.acc.map fun a => if a.loc = some x then { a with st := if bad then .bad else .done } else a } else p }
  if bad then s'.settle else (s'.settle).askRollback s.cur.g.tcb (0, s.coreNo, BitVec.ofNat 64 x)

/-- The request of a remote atomic may enter the channel, where it stays behind the slice's earlier ones (R269). -/
def State.maySend (s : State) (o : Op) (loc : Nat) : Bool :=
  s.cur.sl.released o.seq && s.cur.sl.loadsDone o.seq && !s.olderAt o 0 loc && s.cur.sl.followsDone o

/-- The member of an operation that is an atomic or a reduction. -/
def Op.member (o : Op) : Option AtomicOp :=
  match o.kind with
  | .atomic k _ _ _ _ => some k
  | _ => none

/-- The frame and slot of an operation on a frame area. -/
def Op.slot? (o : Op) : Option (Access × Nat × Nat) :=
  match o.acc with
  | [a] => match a.tgt with
    | .slot f n => some (a, f, n)
    | _ => none
  | _ => none

/-- The run of operation `o` at location `loc` is performed at its home `h`, which stamps and applies the result (R253). -/
def State.atomicAt (s : State) (o : Op) (k : AtomicOp) (h loc : Nat) : State :=
  let s := s.snapshot (some s.cur.g.tcb) loc
  let w := s.nextId
  let (v, m, fl, acc) := runAt k loc (.sent w) o.acc (readDword (s.views.get h) loc)
  let s := s.stampApply h loc m v (some s.cur.g.tcb)
  (s.setSl fun y => { y with
    own := enterOwn y.own { seq := o.seq, op := o.id, x := loc, mask := m, data := v, w := some w }
    ops := y.ops.map fun p => if p.id = o.id then { p with acc := acc, fl := p.fl ||| fl } else p }).settle

/-- The accesses of an operation at a location wait for another unit: a package's home, or the Cupola. -/
def Slice.asks (x : Slice) (op loc : Nat) : Slice :=
  { x with ops := x.ops.map fun p =>
      if p.id = op then { p with acc := p.acc.map fun a => if a.loc = some loc then { a with st := .asked } else a } else p }

/-- ATOMIC (R260): the run of operation `op` at location `loc` is performed at its home, or its request enters the channel of
another package, or goes to the Cupola for a line of the overflow area, which performs it (R248); a `famo` of a slot in a
frame area is performed at the frame's core. -/
def execAtomic (op loc : Nat) (s : State) : Host.Outcome State Fault Refusal :=
  match s.cur.sl.op? op with
  | none => .next s
  | some o =>
    match o.member, o.slot? with
    | none, _ => .next s
    | some _, some (a, f, n) => .next (s.slotAtomic o a f n)
    | some k, none =>
      if !(o.acc.any fun a => a.loc == some loc && a.st == .waiting) then .next s
      else
        match homeOf loc with
        | none =>
          if !s.maySend o loc then .next s
          else
            .next ((s.send (pkgOf loc) (.atomic loc s.cur.g.id op)).setSl (·.asks op loc))
        | some h =>
          if !s.cur.sl.mayAtomic o loc || !s.storesHome s.cur.sl o.seq loc h || !o.clk.le (s.clock h) || !s.homeReady h then .next s
          else if s.poisoned loc then .next ((s.poisonRead loc).atomicBad o loc)
          else if h ≠ 4 ∧ s.overflowed h loc then .next (s.setSl (·.asks op loc))
          else .next ((if h = 4 then s else s.holdLine h loc).atomicAt o k h loc)

end Sys2Proof.Machine
end

