-- ==== Sys2Proof/Machine/Frames.lean ====
section
/-! DEFINITION. Nested frames: the tree, reference counts and retirement, frame operands, the FM and FR words (17). -/

namespace Sys2Proof.Machine

/-! ## Handles and lookup (R291, R295) -/

def handleDepth (h : W64) : Nat := h.toNat / 2 ^ 58 % 4

def handleSpf (h : W64) : Bool := h.msb

/-- BASE of a handle. -/
def handleBase (h : W64) : Nat := h.toNat % 2 ^ 56

def mkHandle (spf : Bool) (depth base : Nat) : W64 :=
  BitVec.ofNat 64 ((if spf then 2 ^ 63 else 0) + depth * 2 ^ 58 + base)

/-- The display register a slice reads: an access slice those of its execute slice at group start (R301). -/
def State.disp (s : State) (k : Nat) : W64 :=
  if s.cur.sl.kind = .access then kvGet 0 s.cur.g.axd k else kvGet 0 s.cur.g.d k

/-- The cluster of the selected group. -/
def State.clusterNo (s : State) : Nat :=
  match s.team? with
  | some t => t.cluster
  | none => 0

/-- The frames of a static chain, the innermost first (R292). -/
def State.chainOf (s : State) : Nat → Option Nat → List Nat
  | 0, _ => []
  | _, none => []
  | fuel + 1, some f =>
    match alFind s.frames f with
    | none => []
    | some x => f :: s.chainOf fuel x.link

/-- The existing frame a handle names in the context; a frame area is named within its cluster (R291), by a group that runs a
record within those of its frame's chain first: a tile task's, or that of a task it spawned, may be another cluster's
(R302). -/
def State.frameOf (s : State) (h : W64) : Option (Nat × Frame) :=
  if h = 0 then none
  else
    let l := s.frames.filter fun p => p.2.ctx == s.cur.g.ctx && p.2.handle == h
    match l.find? fun p => s.cur.g.kin.contains p.1 with
    | some p => some p
    | none => l.find? fun p => !handleSpf h || p.2.cluster == s.clusterNo

/-- The report of R296. -/
def frameReport (reason depth : Nat) : W64 := BitVec.ofNat 64 (reason * 256 + depth)

def State.frameTrap (s : State) (reason depth : Nat) : Res α := .trap 0x10 s.exec' (frameReport reason depth)

/-- The frame of a depth: reason 0 where there is none, 4 where the handle names none (R295). -/
def State.frameAt (s : State) (dep : Nat) : Res (Nat × Frame) :=
  let h := s.disp dep
  if h = 0 then s.frameTrap 0 dep
  else
    match s.frameOf h with
    | none => s.frameTrap 4 dep
    | some p => if handleDepth h ≠ dep then s.frameTrap 4 dep else .ok p

/-- A frame operand (R295). -/
def State.frameOperand (s : State) (dep slot : Nat) : Res (Nat × Frame) :=
  (s.frameAt dep).bind fun p => if p.2.size ≤ slot then s.frameTrap 3 dep else .ok p

/-- The depth of the current frame W: the deepest non-zero display register (R297). -/
def State.deepest (s : State) : Option Nat := [3, 2, 1, 0].find? fun k => s.disp k != 0

def State.current (s : State) : Option (Nat × Frame) :=
  match s.deepest with
  | some k => s.frameOf (s.disp k)
  | none => none

/-! ## Slots -/

def State.modFrame (s : State) (f : Nat) (g : Frame → Frame) : State := { s with frames := alMod s.frames f g }

/-- A slot's address in memory. -/
def Frame.slotVa (f : Frame) (k : Nat) : W64 := BitVec.ofNat 64 (handleBase f.handle + 8 * k)

/-- A slot written at its home by the machinery: retirement, publication, a piece; in memory a write in the home order of its
location (15, R264).  A slot that cannot be translated then is not written (DESIGN CHOICE, log 95). -/
def State.setSlot (s : State) (f k : Nat) (v : W64) : State :=
  match alFind s.frames f with
  | none => s
  | some x =>
    if handleSpf x.handle then s.modFrame f fun x => { x with slots := kvPut 0 x.slots k v }
    else
      match s.translateIn (x.core) x.ctx (x.slotVa k) .write true with
      | .ok t =>
        let s := (s.markWalk t.path .write).snapshot (some x.tcb) t.pa
        match homeOf t.pa with
        | some h => s.homePut h t.pa (BitVec.allOnes 8) v (some x.tcb)
        | none => s.keepWrite t.pa (dwordBytes v)
      | .error _ => s

/-- A slot's value at its home. -/
def State.getSlot (s : State) (f k : Nat) : W64 :=
  match alFind s.frames f with
  | none => 0
  | some x =>
    if handleSpf x.handle then kvGet 0 x.slots k
    else
      match s.translateIn x.core x.ctx (x.slotVa k) .read true with
      | .ok t => s.homeDword t.pa
      | .error _ => 0

/-- The walk by which a slot of a memory frame is read sets A (06, R101). -/
def State.markSlot (s : State) (f k : Nat) : State :=
  match alFind s.frames f with
  | none => s
  | some x =>
    if handleSpf x.handle then s
    else
      match s.translateIn x.core x.ctx (x.slotVa k) .read true with
      | .ok t => s.markWalk t.path .read
      | .error _ => s

/-- A slot of a memory frame that cannot be read at its home for uncorrectable data (04, R74). -/
def State.slotBad (s : State) (f k : Nat) : Bool :=
  match alFind s.frames f with
  | none => false
  | some x => !handleSpf x.handle && match s.translateIn x.core x.ctx (x.slotVa k) .read true with
    | .ok t => s.unreadable t.pa
    | .error _ => false

/-- A word that reads slots of a frame: cause 0x0A with the VA of the first that is uncorrectable (20, R354). -/
def State.slotsGood (s : State) (f : Nat) (l : List Nat) (r : Res α) : Res α :=
  match alFind s.frames f, l.find? (s.slotBad f) with
  | some x, some k => .trap 0x0A s.exec' (x.slotVa k)
  | _, _ => r

/-- What a slot's accesses reach: the frame area, or memory at its home; none where its address cannot be translated. -/
def State.slotTarget (s : State) (f k : Nat) : Option Target :=
  (alFind s.frames f).bind fun x =>
    if handleSpf x.handle then some (.slot f k)
    else match s.translateIn x.core x.ctx (x.slotVa k) .read true with
      | .ok t => some (.home t.pa)
      | .error _ => none

/-- A slice has a load or fetching atomic of what a target names that is still to be performed. -/
def Slice.loadsFrom (x : Slice) (t : Target) : Bool :=
  x.ops.any fun o => o.kind.fetches && o.acc.any fun a => !a.st.performed &&
    (List.range a.size).any fun n => (List.range 8).any fun m => a.tgt.byte n == t.byte m

/-- PUBLISH of frame `f` may be taken (15, R260, R264): the groups whose current frame it is have performed their earlier
loads of the slots it writes, which never return it. -/
def State.publishable (s : State) (f : Nat) : Bool :=
  match alFind s.frames f with
  | none => true
  | some x => x.buf.all fun e => match s.slotTarget e.1 e.2.1 with
    | none => true
    | some t => (s.cur :: s.others).all fun r => ({ s with cur := r } : State).current.map (·.1) != some f ||
        (!r.sl.loadsFrom t && !r.g.companion.any (·.loadsFrom t))

/-- PUBLISH (15, R264): every buffered entry at the outer frame's home, in program order, as one step. -/
def State.publish (s : State) (f : Nat) : State :=
  match alFind s.frames f with
  | none => s
  | some x => (x.buf.foldl (fun s e => s.setSlot e.1 e.2.1 e.2.2) s).modFrame f fun x => { x with buf := [] }

/-! ## Retirement (R293) -/

/-- A record pushed: kinds 1 and 2 to the queue of the frame's cluster, tile records to the launch's tile queue. -/
def State.pushRec (s : State) (cluster tcb : Nat) (r : ContRec) : State :=
  if r.kind = 3 then { s with tcbs := alMod s.tcbs tcb fun t => { t with tiles := t.tiles ++ [r] } }
  else { s with clusters := alMod s.clusters cluster fun c =>
      { c with crqs := kvPut [] c.crqs r.prio (kvGet [] c.crqs r.prio ++ [r]) } }

def State.addRef (s : State) (f : Nat) : State := s.modFrame f fun x => { x with count := x.count + 1 }

/-- A reference of a frame dropped; at 0 the frame retires: it publishes, then pushes its continuation or is freed, and a
freed frame drops its references in turn.  `fuel` bounds the chain by the number of frames. -/
def State.dropRef (s : State) : Nat → Nat → State
  | 0, _ => s
  | fuel + 1, f =>
    match alFind s.frames f with
    | none => s
    | some x =>
      if 1 < x.count then s.modFrame f fun x => { x with count := x.count - 1 }
      else
        let s := s.publish f
        match x.cont with
        | some r =>
          (s.modFrame f fun x => { x with cont := none, count := 1, owner := .nobody }).pushRec x.cluster x.tcb
            { r with frame := x.handle }
        | none =>
          let s := { s with frames := s.frames.filter fun p => p.1 != f }
          let s := match x.link with
            | some p => s.dropRef fuel p
            | none => s
          let s := match x.join with
            | some p => s.dropRef fuel p
            | none => s
          match x.combine with
          | some c =>
            { s with tcbs := alMod (alMod s.tcbs c (decPreds s.nextId)) x.tcb fun t => { t with reduced := t.reduced ++ [(c, -1, 0)] }
                     nextId := s.nextId + 1 }
          | none => s

def State.drop (s : State) (f : Nat) : State := s.dropRef (s.frames.length + 1) f

/-- The holds in the display registers `lo` to 3 dropped. -/
def State.dropHolds (s : State) (lo : Nat) : State :=
  let s' := ([3, 2, 1, 0].filter fun k => decide (lo ≤ k) && s.cur.g.holds.getLsbD k).foldl
    (fun s k => match s.frameOf (kvGet 0 s.cur.g.d k) with
      | some p => s.drop p.1
      | none => s) s
  s'.setG fun g => { g with holds := g.holds &&& BitVec.ofNat 4 (2 ^ lo - 1) }

/-! ## New frames (R290, R292) -/

/-- Lines of a core not given to teams, at most 256, in bytes. -/
def State.areaBytes (s : State) (core : Nat) : Nat :=
  let used := (s.teams.filter fun p => p.2.core == core && !p.2.ended).foldl (fun n p => n + p.2.scrl) 0
  (if 256 ≤ 1024 - used then 256 else 1024 - used) * 2048

/-- Bytes a frame takes with its header, in units of 64 bytes. -/
def frameUnits (size : Nat) : Nat := 1 + (8 * size + 63) / 64

/-- Offsets (in units of 64 bytes) at which a frame of `n` units fits among the taken spans. -/
def freeUnits (total n : Nat) (taken : List (Nat × Nat)) : List Nat :=
  (List.range (total + 1 - n)).filter fun o => taken.all fun t => decide (o + n ≤ t.1) || decide (t.1 + t.2 ≤ o)

/-- The spans of a core's frame area that frames take. -/
def State.areaTaken (s : State) (core : Nat) : List (Nat × Nat) :=
  (s.frames.filter fun p => handleSpf p.2.handle && p.2.core == core).map fun p =>
    (p.2.handle.toNat % 2 ^ 20 / 64 - 1, frameUnits p.2.size)

/-- The spans of a context's frame pool that frames take. -/
def State.poolTaken (s : State) (ctx base : Nat) : List (Nat × Nat) :=
  (s.frames.filter fun p => !handleSpf p.2.handle && p.2.ctx == ctx).map fun p =>
    ((handleBase p.2.handle - base) / 64 - 1, frameUnits p.2.size)

/-- The place of a frame in the context's frame pool, none where it has no room (R290).  Which of the fitting places is a
free value (log 8). -/
def State.framePlace (s : State) (ctx depth size : Nat) : Option W64 :=
  match alFind s.ctxs ctx with
  | none => none
  | some c =>
    let base := c.r.frmPool.base
    let p := freeUnits (c.r.frmPool.size / 64) (frameUnits size) (s.poolTaken ctx base)
    match p with
    | _ :: _ => some (mkHandle false depth (base + 64 * (1 + p.getD (Config.pick s.tick % p.length) 0)))
    | [] => none

/-- The place of a new frame: in the core's area where it has room, else in the pool; none where neither has (R290). -/
def State.placeFrame (s : State) (core cidx ctx depth size : Nat) : Option W64 :=
  let a := if depth = 0 then [] else freeUnits (s.areaBytes core / 64) (frameUnits size) (s.areaTaken core)
  match a with
  | _ :: _ => some (mkHandle true depth (cidx * 2 ^ 20 + 64 * (1 + a.getD (Config.pick s.tick % a.length) 0)))
  | [] => s.framePlace ctx depth size

/-- A frame created, every slot zero: its number. -/
def State.newFrame (s : State) (x : Frame) : State × Nat :=
  let f := s.nextId
  let s := { s with frames := s.frames ++ [(f, x)], nextId := s.nextId + 1, tick := s.tick + 1 }
  let s := match x.link with
    | some p => s.addRef p
    | none => s
  let s := match x.join with
    | some p => s.addRef p
    | none => s
  (if handleSpf x.handle then s else (List.range x.size).foldl (fun s k => s.setSlot f k 0) s, f)

/-- The static link of a frame created at a depth (R292). -/
def State.linkFor (s : State) (depth : Nat) : Option Nat :=
  match ([2, 1, 0].filter (· < depth)).find? fun k => kvGet 0 s.cur.g.d k != 0 with
  | some k => (s.frameOf (kvGet 0 s.cur.g.d k)).map (·.1)
  | none => none

/-- The group owns the frame and has not left it. -/
def State.owns (s : State) (f : Frame) : Bool := f.owner == .group s.cur.g.id

/-- A frame the group owns stands in display registers `lo` to 3. -/
def State.ownsFrom (s : State) (lo : Nat) : Bool :=
  ([0, 1, 2, 3].filter fun k => decide (lo ≤ k)).any fun k => match s.frameOf (kvGet 0 s.cur.g.d k) with
    | some p => s.owns p.2
    | none => false

/-- Words that frames forbid in a stream: the Keep's have none (reason 0), an access slice only reads (R301). -/
def State.frameStream (s : State) (dep : Nat) (reads : Bool) (r : Res α) : Res α :=
  match s.cur.sl.kind with
  | .execute => r
  | .access => if reads then r else .trap 0x13 s.exec' s.wordAux
  | _ => s.frameTrap 0 dep

/-- The flag of a CTRL frame member: SETA (R298). -/
def State.setaFlag (s : State) : Option Nat := s.cur.flagSel 0

/-- Display registers from `lo` up set to 0 but `lo`, which takes a handle. -/
def setDisp (d : Kv W64) (lo : Nat) (h : W64) : Kv W64 :=
  [1, 2, 3].foldl (fun d k => if k = lo then kvPut 0 d k h else if lo < k then kvPut 0 d k 0 else d) d

/-- A VA of dwords that a word moves, 0 for none: 8-byte aligned, before the other causes of the word (02, R37). -/
def State.initAligned (s : State) (va : W64) (r : Res α) : Res α := if va.toNat % 8 ≠ 0 then .trap 0x09 s.exec' va else r

/-- Dwords at a VA that a word reads whole before it takes effect, none at 0: the first failing cause. -/
def State.readInit (s : State) (va : W64) (n : Nat) : Res (List W64 × List (List Nat)) :=
  if va = 0 then .ok ([], [])
  else
    match s.readVas va n with
    | .error (c, a) => .fail c s.exec' a
    | .ok r => .ok r

def State.fillSlots (s : State) (f : Nat) (vs : List W64) : State :=
  ((List.range vs.length).zip vs).foldl (fun s e => s.setSlot f e.1 e.2) s

/-- The slice has accesses to frames in frame areas that stand to be performed: a frame keeps its storage until they are. -/
def Slice.slotsOut (x : Slice) : Bool := x.ops.any fun o => o.acc.any fun a => a.st == .waiting && match a.tgt with
  | .slot _ _ => true
  | _ => false

/-- Writes of the slice to memory or frames that have not reached their homes. -/
def Slice.writesOut (x : Slice) : Bool := x.ops.any fun o => match o.kind with
  | .store => true
  | .atomic _ _ _ _ _ => true
  | _ => false

/-- The frames that display registers from `lo` up hold by `fdisp`. -/
def State.heldFrom (s : State) (lo : Nat) : List Nat :=
  ([0, 1, 2, 3].filter fun k => decide (lo ≤ k) && s.cur.g.holds.getLsbD k).filterMap fun k =>
    (s.frameOf (kvGet 0 s.cur.g.d k)).map (·.1)

/-- The references that fall where references `l` are dropped and frames `r` retire: a freed frame drops its own. -/
def State.falling (s : State) (l r : List Nat) : List Nat :=
  l ++ (r.map fun f => match alFind s.frames f with
    | some x => if x.cont.isNone then x.link.toList ++ x.join.toList else []
    | none => []).flatten

/-- The frames that retire where references `l` are dropped (R293), by as many rounds as there are frames. -/
def State.retiringFrom (s : State) (l : List Nat) : Nat → List Nat → List Nat
  | 0, r => r
  | n + 1, r =>
    let d := s.falling l r
    s.retiringFrom l n ((s.frames.filter fun p => d.contains p.1 && decide (p.2.count ≤ d.count p.1)).map (·.1))

def State.retiring (s : State) (l : List Nat) : List Nat := s.retiringFrom l s.frames.length []

/-- The agents of the release that the retirement of frames acts as: sg1 (R294), sg3 where a combine TCB's count falls
(18, R315). -/
def State.retireAgents (s : State) (l : List Nat) : BitVec 5 :=
  if l.any fun f => match alFind s.frames f with
    | some x => x.combine.isSome && x.cont.isNone
    | none => false then 0x0F else dieBit s.die

/-- A word may give up frames `l`: none of them retires, or no access to a frame area is under way, the slice's earlier
releases and the release that a retirement acts as have completed, and what retiring frames publish may be published. -/
def State.mayGiveUp (s : State) (l : List Nat) : Bool :=
  let r := s.retiring l
  r == [] || (!s.cur.sl.slotsOut && s.cur.sl.released s.cur.sl.nextSeq && s.released (s.retireAgents r) && r.all s.publishable)

/-- fent (R298). -/
def execFent (p : BitVec 2) (z : BitVec 10) (r : BitVec 9) (s : State) : Host.Outcome State Fault Refusal :=
  let dep := p.toNat
  let va := s.rd r.toNat
  s.run (s.frameStream dep false (s.flagged s.setaFlag (s.initAligned va (
    if dep = 0 ∨ s.ownsFrom dep then s.frameTrap 2 dep
    else if !s.mayGiveUp (s.heldFrom dep) then .stall
    else
      match s.team? with
      | none => s.frameTrap 1 dep
      | some t =>
        match s.placeFrame t.core t.cidx s.cur.g.ctx dep (z.toNat + 1) with
        | none => s.frameTrap 1 dep
        | some h =>
          (s.readInit va (z.toNat + 1)).bind fun (vs, ps) =>
            let (s', f) := (s.markAll ps .read).newFrame
              { handle := h, ctx := s.cur.g.ctx, tcb := s.cur.g.tcb, cluster := t.cluster, core := t.core,
                size := z.toNat + 1, slots := [], count := 1, owner := .group s.cur.g.id, link := s.linkFor dep,
                saved := some (s.cur.g.d.filter fun e => decide (dep ≤ e.1)), cont := none, buf := [], piece := none,
                grid := false, join := none, combine := none, born := none }
            .ok (((s'.dropHolds dep).setG fun g => { g with d := setDisp g.d dep h }).fillSlots f vs)))))

/-- The owner leaves a frame (R293). -/
def State.leaveFrame (s : State) (f : Nat) : State := (s.modFrame f fun x => { x with owner := .nobody }).drop f

/-- Display registers `lo` to 3 given the recorded values, 0 where none is recorded. -/
def restoreDisp (d : Kv W64) (lo : Nat) (saved : Kv W64) : Kv W64 :=
  [1, 2, 3].foldl (fun d k => if lo ≤ k then kvPut 0 d k (kvGet 0 saved k) else d) d

/-- A load of a memory frame's slot reads it at its home (R297). -/
def Target.slotRead : Target → Target
  | .mem pa _ => .home pa
  | t => t

/-- The access of a frame operand: its slot in a frame area, or memory, translated and checked (R295). -/
def State.slotAccess (s : State) (f : Nat) (x : Frame) (k : Nat) (n : Need) : Checked :=
  if handleSpf x.handle then ⟨0, x.handle + BitVec.ofNat 64 (8 * k), .ok (.slot f k, [])⟩
  else ⟨0, x.slotVa k, (s.checkVa (x.slotVa k) 8 n).map fun r => (if n = .read then r.1.slotRead else r.1, r.2)⟩

/-- The slots of checked accesses may be read by the word that stands to issue, under the conditions of LOAD (15, R257,
R260). -/
def State.slotsReadable (s : State) (l : List Checked) : Bool :=
  l.all fun c => match c.res with
    | .ok (.home pa, _) => s.cur.sl.acquired s.cur.sl.nextSeq && s.cur.sl.earlierAt s.cur.sl.nextSeq (pa / 8 * 8)
    | _ => true

/-- fexit (R298).  With a copy-out the frame is left once its writes are applied as the release of a retirement asks (R294);
PUBLISH of the frame takes that step. -/
def execFexit (p : BitVec 2) (r : BitVec 9) (s : State) : Host.Outcome State Fault Refusal :=
  let dep := p.toNat
  s.run (s.frameStream dep false (s.flagged s.setaFlag (s.initAligned (s.rd r.toNat) (
    (if s.disp dep = 0 then s.frameTrap 0 dep else s.frameAt dep).bind fun (f, x) =>
      if dep = 0 ∨ !s.owns x ∨ s.ownsFrom (dep + 1) then s.frameTrap 2 dep
      else if !s.mayGiveUp (f :: s.heldFrom dep) || (s.rd r.toNat != 0 && s.cur.sl.writesOut) then .stall
      else
        let va := s.rd r.toNat
        let after := fun s : State => s.setG fun g => { g with d := restoreDisp g.d dep (x.saved.getD []) }
        if va = 0 then .ok (after ((s.dropHolds dep).leaveFrame f))
        else
          let src := (List.range x.size).map fun k => s.slotAccess f x k .read
          let l := (List.range x.size).map fun k =>
            (⟨k, va + BitVec.ofNat 64 (8 * k), s.checkVa (va + BitVec.ofNat 64 (8 * k)) 8 .write⟩ : Checked)
          s.checkedWord src .read true fun t => s.slotsGood f (List.range x.size) (
            t.checkedWord l .write true fun t =>
              if !s.slotsReadable src then .stall
              else .ok (after (((t.issue .store none (accessesOf l 8 (s.getSlot f) fun _ => 0)).issue (.leave f) s.setaFlag []).dropHolds
                dep)))))))

/-- The frame of each outer depth on a frame's static chain, 0 where the chain skips it. -/
def State.chain (s : State) : Nat → Option Nat → Kv W64 → Kv W64
  | 0, _, d => d
  | _, none, d => d
  | fuel + 1, some f, d =>
    match alFind s.frames f with
    | none => d
    | some x => s.chain fuel x.link (kvPut 0 d (handleDepth x.handle) x.handle)

/-- fdisp (R298). -/
def execFdisp (p : BitVec 2) (r : BitVec 9) (s : State) : Host.Outcome State Fault Refusal :=
  let dep := p.toNat
  s.run (s.frameStream dep false (s.flagged s.setaFlag (
    let h := s.rd r.toNat
    match s.frameOf h with
    | none => s.frameTrap 4 dep
    | some (f, x) =>
      if dep = 0 ∨ handleDepth h ≠ dep then s.frameTrap 4 dep
      else if s.ownsFrom dep then s.frameTrap 2 dep
      else if !s.mayGiveUp (s.heldFrom 0) then .stall
      else
        let s := (s.addRef f).dropHolds 0
        .ok (s.setG fun g => { g with
          d := setDisp (s.chain 4 x.link ((kvErase (kvErase (kvErase g.d 0) 1) 2))) dep h
          holds := BitVec.ofNat 4 (2 ^ dep) }))))

/-- fpub (R298). -/
def execFpub (p : BitVec 2) (s : State) : Host.Outcome State Fault Refusal :=
  let dep := p.toNat
  s.run (s.frameStream dep false (s.flagged s.setaFlag ((s.frameAt dep).bind fun (f, x) =>
    if !s.owns x then s.frameTrap 2 dep
    else if x.buf = [] then .ok s
    else .ok (s.issue (.publish f) s.setaFlag []))))

/-- An fpub of the frame that no earlier release of its slice holds back (15, R257). -/
def Slice.publishes (f : Nat) (x : Slice) : Bool := x.ops.any fun o => o.kind == .publish f && x.released o.seq

/-- The fpub words of a frame complete: their flags fall. -/
def Slice.published (f : Nat) (x : Slice) : Slice :=
  x.ops.foldl (fun y o => if o.kind = .publish f ∧ x.released o.seq then { y.lower o.flag with ops := y.ops.filter fun p => p.id != o.id } else y) x

def Resident.published (f : Nat) (r : Resident) : Resident :=
  { g := { r.g with companion := r.g.companion.map (Slice.published f) }, sl := r.sl.published f }

/-- An fpub of the frame has issued and not completed. -/
def State.publishing (s : State) (f : Nat) : Bool :=
  (s.cur :: s.others).any fun r => r.sl.publishes f || r.g.companion.toList.any (Slice.publishes f)

/-- The selected slice has an fexit of the frame whose copy-out is written: its earlier releases, and the release that the
retirement acts as, have completed (R294). -/
def State.mayLeaveNow (s : State) (f : Nat) : Bool :=
  let r := s.retiring [f]
  s.cur.sl.ops.any fun o => o.kind == .leave f && s.cur.sl.released o.seq &&
    s.releaseDone s.cur.sl o.seq (s.retireAgents r) false 0 && r.all s.publishable

/-- A group whose execute slice has such an fexit. -/
def State.leaver (s : State) (f : Nat) : Option Nat :=
  ((s.cur :: s.others).find? fun r => ({ s with cur := r } : State).mayLeaveNow f || ({ s with cur := r.swap } : State).mayLeaveNow f).map
    (·.g.id)

/-- The fexit words of a frame complete. -/
def Slice.left (f : Nat) (x : Slice) : Slice :=
  x.ops.foldl (fun y o => if o.kind = .leave f then { y.lower o.flag with ops := y.ops.filter fun p => p.id != o.id } else y) x

/-- The selected group leaves a frame that it still owns, and its fexit completes. -/
def State.finishExit (s : State) (f : Nat) : State :=
  (match alFind s.frames f with
    | some x => if s.owns x then s.leaveFrame f else s
    | none => s).setSl (Slice.left f)

/-- PUBLISH (15, R264), after an fpub of the frame has issued: every buffered entry at its home, as one step; after an fexit
with a copy-out, the step in which the group leaves the frame (R298).  (A frame that retires, and famo, publish within
their own step.) -/
def execPublish (frame : Nat) (s : State) : Host.Outcome State Fault Refusal :=
  if !s.publishing frame then
    match s.leaver frame with
    | some g => .next (s.onSlice g .execute (·.finishExit frame))
    | none => .next s
  else if !s.publishable frame then .next s
  else
    let s := s.publish frame
    .next { s with cur := s.cur.published frame, others := s.others.map (Resident.published frame) }

/-! ## Frame access (R299, R300) -/

/-- The buffered value of a slot in the current frame's publish buffer. -/
def State.buffered (s : State) (f k : Nat) : Option W64 :=
  match s.current with
  | some (_, w) => (w.buf.find? fun e => e.1 == f && e.2.1 == k).map (·.2.2)
  | none => none

def State.frameLoad (s : State) (p : BitVec 2) (k : BitVec 10) (f : BitVec 1) (d : Dest) : Res State :=
  s.frameStream p.toNat true (s.flagged (s.fsFlag f) ((s.frameOperand p.toNat k.toNat).bind fun (fr, x) =>
    (s.reserve s.cur.g d).bind fun g =>
      match s.buffered fr k.toNat with
      | some v => .ok { s with cur := { s.cur with g := g }.deliver d s.exec' (tab fun _ => v) }
      | none =>
        let l := [s.slotAccess fr x k.toNat .read]
        s.checkedWord l .read true fun s =>
          .ok ((s.setG fun _ => g).issue (.load d) (s.fsFlag f) (accessesOf l 8 (fun _ => 0) fun _ => 0))))

def execFld (p : BitVec 2) (k : BitVec 10) (r : BitVec 9) (f : BitVec 1) (s : State) : Host.Outcome State Fault Refusal :=
  s.run (s.destOk r.toNat (s.frameLoad p k f (.scal r.toNat)))

def execFldb (p : BitVec 2) (k : BitVec 10) (r : BitVec 9) (f : BitVec 1) (s : State) : Host.Outcome State Fault Refusal :=
  s.run (s.vectorOnly (if 127 < r.toNat then .trap 0x03 s.exec' (BitVec.ofNat 64 r.toNat) else s.frameLoad p k f (.bcast r.toNat)))

def execFlda (p : BitVec 2) (k : BitVec 10) (r : BitVec 9) (f : BitVec 1) (s : State) : Host.Outcome State Fault Refusal :=
  s.run (s.destOk r.toNat (s.frameStream p.toNat true (s.flagged (s.fsFlag f) ((s.frameOperand p.toNat k.toNat).bind fun _ =>
    .ok (s.wr r.toNat (s.disp p.toNat + BitVec.ofNat 64 (8 * k.toNat)))))))

/-- Slots 0 and 1 of a frame that holds a piece are the Keep's (18, R309; cause 0x13 with the slot). -/
def State.notPiece (s : State) (x : Frame) (k : Nat) (r : Res α) : Res α :=
  if x.piece.isSome ∧ k ≤ 1 then .trap 0x13 s.exec' (BitVec.ofNat 64 k) else r

/-- The youngest value of a slot in a publish buffer. -/
def bufPut (buf : List (Nat × Nat × W64)) (f k : Nat) (v : W64) : List (Nat × Nat × W64) :=
  (buf.filter fun e => !(e.1 == f && e.2.1 == k)) ++ [(f, k, v)]

/-- fst (R297, R299).  Where the deepest display register names no existing frame there is no buffer for a store to an outer
one: reason 4 with DEP2 (DESIGN CHOICE, log 96). -/
def execFst (p : BitVec 2) (k : BitVec 10) (r : BitVec 9) (f : BitVec 1) (s : State) : Host.Outcome State Fault Refusal :=
  s.run (s.frameStream p.toNat false (s.flagged (s.fsFlag f) ((s.frameOperand p.toNat k.toNat).bind fun (fr, x) =>
    s.notPiece x k.toNat (
      if s.deepest = some p.toNat then
        let l := [s.slotAccess fr x k.toNat .write]
        s.checkedWord l .write true fun s' =>
          .ok (s'.issue .store (s.fsFlag f) (accessesOf l 8 (fun _ => s.rd r.toNat) fun _ => 0))
      else
        match s.current with
        | some (w, _) => s.checkedWord [s.slotAccess fr x k.toNat .write] .write true fun t =>
            .ok (t.modFrame w fun y => { y with buf := bufPut y.buf fr k.toNat (s.rd r.toNat) })
        | none => s.frameTrap 4 p.toNat))))

def execFamo (p : BitVec 2) (k : BitVec 10) (r : BitVec 9) (f : BitVec 1) (s : State) : Host.Outcome State Fault Refusal :=
  s.run (s.destOk r.toNat (s.frameStream p.toNat false (s.flagged (s.fsFlag f) ((s.frameOperand p.toNat k.toNat).bind fun (fr, x) =>
    s.notPiece x k.toNat (
      let v := s.rd r.toNat
      if (s.buffered fr k.toNat).isSome && !(s.cur.sl.released s.cur.sl.nextSeq && (s.current.map (·.1)).all s.publishable) then .stall
      else
        let s := match s.buffered fr k.toNat, s.current with
          | some _, some (w, _) => s.publish w
          | _, _ => s
        let l := [s.slotAccess fr x k.toNat .both]
        s.checkedWord l .both true fun s' =>
          .ok (s'.issue (.atomic .add true (.scal r.toNat) 0x0F false) (s.fsFlag f) (accessesOf l 8 (fun _ => v) fun _ => 0)))))))

end Sys2Proof.Machine
end

