-- ==== Sys2Proof/Machine/Launch.lean ====
section
/-! DEFINITION. The Keep: acceptance of launches, placement of pieces, splits, gangs, task slots, and the end of groups,
teams, clusters and grids (18; 16, R275; 07, R145). -/

namespace Sys2Proof.Machine

/-! ## Cores (01, R5, R8) -/

/-- The cores of a rectangle with its origin at a package core, by cluster core index; none past the die's edge (R8). -/
def rectCores (origin w h : Nat) : Option (List Nat) :=
  let c := origin % 48 % 8
  let r := origin % 48 / 8
  if c + w ≤ 8 ∧ r + h ≤ 6 then
    some ((List.range (w * h)).map fun k => origin / 48 * 48 + (r + k / w) * 8 + c + k % w)
  else none

/-! ## Launch queues (22, R373) -/

def queueAt (q : QueueRec) (i : Nat) : Nat := q.base + 64 * (i % (if q.cap = 0 then 1 else q.cap))

def CtxState.queue (c : CtxState) (q : Nat) : QueueRec := c.r.queues.getD q ⟨0, 0, 0⟩

/-- A packet appended to a queue, by a launch or by the host: its ring entry written and the tail moved; nothing where the
ring is full. -/
def State.append (s : State) (ctx q : Nat) (p : BitVec 512) (by' : Option Nat) : State :=
  match alFind s.ctxs ctx with
  | none => s
  | some c =>
    let t := kvGet 0 c.tails q
    if (c.queue q).cap ≤ t - kvGet 0 c.heads q then s
    else
      let pa := s.ownRegion (queueAt (c.queue q) t)
      { ((s.snapshot by' pa).snapshot by' (pa + 63)).keepWrite pa (leBytes 64 p.toNat) with
        ctxs := alMod s.ctxs ctx fun c => { c with tails := kvPut 0 c.tails q (t + 1) } }

/-- LAUNCH_DOORBELL (22, R373): the host appends a packet and moves the queue's tail; no access of the host is accepted until
the Keep runs (R382). -/
def execLaunchDoorbell (ctx queue : Nat) (packet : BitVec 512) (s : State) : Host.Outcome State Fault Refusal :=
  if s.kstate ≠ 1 then .next s else .next (s.append ctx queue packet none)

/-- Bytes of physical memory as the home agent holds them; none where a burst is poisoned (20, R354). -/
def State.homeBytes (s : State) (pa n : Nat) : Option (List Byte) :=
  if (List.range n).any fun k => s.unreadable (pa + k) then none
  else some ((List.range n).map fun k => (dwordBytes (s.homeDword ((pa + k) / 8 * 8))).getD ((pa + k) % 8) 0)

/-- Poisoned bursts that such a read has met counted (04, R75). -/
def State.poisonBytes (s : State) (pa n : Nat) : State :=
  let l := ((List.range n).map (pa + ·)).filter fun a => s.poisoned a
  (l.filter fun a => a % 256 == 0 || !l.contains (a - 1)).foldl (fun s a => s.poisonRead a) s

/-- The Keep's read of bytes at a VA of a context, 8 at a time. -/
def State.keepRead (s : State) (ctx : Nat) (va : W64) : Nat → Option (List Byte)
  | 0 => some []
  | n + 1 =>
    match s.translateIn 0 ctx va .read false with
    | .error _ => none
    | .ok t =>
      match s.homeBytes t.pa 8, s.keepRead ctx (va + 8) n with
      | some a, some b => some (a ++ b)
      | _, _ => none

/-- The walks of such a read (06, R101), and the uncorrectable data that ends it (04, R75). -/
def State.keepMark (s : State) (ctx : Nat) (va : W64) : Nat → State
  | 0 => s
  | n + 1 =>
    match s.translateIn 0 ctx va .read false with
    | .error e => if e = 0x0A then s.poisonRead ((s.readPa 0 none ctx va .read).getD 0) else s
    | .ok t =>
      if (s.homeBytes t.pa 8).isNone then (s.markWalk t.path .read).poisonBytes t.pa 8
      else (s.markWalk t.path .read).keepMark ctx (va + 8) n

/-- The address of the packet at a queue's head. -/
def State.headAt (s : State) (c : CtxState) (q : Nat) : Nat := s.ownRegion (queueAt (c.queue q) (kvGet 0 c.heads q))

/-- The packet at a queue's head. -/
def State.headPacket (s : State) (c : CtxState) (q : Nat) : Option (BitVec 512) :=
  if kvGet 0 c.heads q < kvGet 0 c.tails q then
    some (match s.homeBytes (s.headAt c q) 64 with
      | some b => BitVec.ofNat 512 (leNat b)
      | none => BitVec.allOnes 512)
  else none

/-! ## The kernel record (03, R59) -/

def recNum (b : List Byte) (lo n : Nat) : Nat := leNat ((b.drop lo).take n)

/-- The frame layout of an index that a kernel has at a depth: a legal record of .frames for that depth (03, R59, R60; log
14). -/
def frameLayout (l : List (Nat × Nat)) (i depth : Nat) : Option Nat :=
  match l[i]? with
  | some (n, d) => if 1 ≤ n ∧ n ≤ 1024 ∧ d = depth then some n else none
  | none => none

/-- The record's entry offsets and frame indices resolved with what the loader keeps of its object (log 14); none where
the record fails R59. -/
def parseKernel (b : List Byte) (img : Option ImageRec) : Option Kernel :=
  let code := match img with
    | some i => i.code
    | none => 0
  let asl := match img with
    | some i => i.aslice
    | none => 0
  let inside := fun (off : Nat) (size : ImageRec → Nat) => off % 4 == 0 && match img with
    | some i => decide (off < size i)
    | none => true
  let layouts := match img with
    | some i => i.frames
    | none => []
  let flags := recNum b 20 2
  let det := flags % 2 = 1
  let ae := recNum b 40 8
  let frm := (List.range 4).map fun k => recNum b (48 + 2 * k) 2
  if 3 < flags ∨ recNum b 4 16 ≠ 0 ∨ recNum b 56 8 ≠ 0 ∨ recNum b 22 1 = 0 ∨ 32 < recNum b 22 1 ∨ 96 < recNum b 23 1
    ∨ 96 < recNum b 24 1 ∨ 64 < recNum b 25 1 ∨ 512 < recNum b 28 2 ∨ 1024 < recNum b 30 2
    ∨ (img.any fun i => decide (i.strtab ≤ recNum b 0 4)) ∨ (det ∧ ae ≠ 2 ^ 64 - 1) ∨ (¬ det ∧ !inside ae (·.asliceSize)) ∨ !inside (recNum b 32 8) (·.codeSize)
    ∨ ((List.range 4).any fun k => frm.getD k 0 != 0xFFFF && (frameLayout layouts (frm.getD k 0) k).isNone) then none
  else
    some { entry := code + BitVec.ofNat 64 (recNum b 32 8), aentry := asl + BitVec.ofNat 64 ae, groups := recNum b 22 1,
           base := recNum b 23 1, grow := recNum b 24 1, scrl := recNum b 30 2, bars := recNum b 28 2,
           tqs := recNum b 25 1, rings := BitVec.ofNat 16 (recNum b 26 2),
           frm := (List.range 4).map fun k => if frm.getD k 0 = 0xFFFF then 0 else (frameLayout layouts (frm.getD k 0) k).getD 0
           detached := det, cores := flags / 2 = 1 }

def Kernel.empty : Kernel :=
  { entry := 0, aentry := 0, groups := 1, base := 0, grow := 0, scrl := 0, bars := 0, tqs := 0, rings := 0,
    frm := [0, 0, 0, 0], detached := true, cores := false }

/-! ## Acceptance (R304-R307) -/

def pktPreds (p : BitVec 512) : List Nat := (List.range 4).map fun k => pkt p (40 + 2 * k) 2

/-- The packet's own fields are within the table of R305. -/
def pktOk (p : BitVec 512) : Bool :=
  pkt p 52 12 == 0 && pkt p 38 2 == 0 && decide (pkt p 50 2 ≤ 4095) && decide (1 ≤ pktHeight p) && decide (pktHeight p ≤ 6)
    && decide (1 ≤ pktWidth p) && decide (pktWidth p ≤ 8) && decide (pktC p ≤ 12) && decide (pkt p 37 1 < 4)
    && decide (pktPrio p ≤ 3) && decide (1 ≤ pktGrain p) && (pktPreds p).all fun t => decide (t ≤ 4095) || t == 0xFFFF

def gszi (p : BitVec 512) : Bool := pkt p 37 1 % 2 == 1

/-- A TCB that runs or waits. -/
def Tcb.live (t : Tcb) : Bool := t.st == .waiting || t.st == .ready || t.st == .running

def State.tcb? (s : State) (i : Nat) : Option Tcb := alFind s.tcbs i

/-- The groups of one team a core takes on each quarter when empty: at most 12 (R310). -/
def kernelFits (k : Kernel) : Bool := (List.range 4).all fun q => decide (((List.range k.groups).filter fun g => g % 4 == q).length ≤ 12)

/-- A co-resident grid fits the empty package (R306): its clusters' rectangles on four dies, by the bounds of one core. -/
def packageFits (k : Kernel) (w h clusters : Nat) : Bool :=
  let perCore := (List.range 49).reverse.find? fun n => decide (n * k.scrl ≤ 1024) && decide (n * k.bars ≤ 512) &&
    decide (n * k.tqs ≤ 64) && decide (n * ((k.groups + 3) / 4) ≤ 12) &&
    (n == 0 || decide (n * ((k.groups + 3) / 4) * k.base + k.grow ≤ 96)) &&
    (decide (n ≤ 1) || k.rings == 0)
  decide (clusters ≤ 4 * ((8 / (if w = 0 then 1 else w)) * (6 / (if h = 0 then 1 else h))) * perCore.getD 0)

/-- The predecessors that still run or wait (R306): the distinct ones of PRED, in its order, and the parent of a device
launch. -/
def State.livePreds (s : State) (p : BitVec 512) (parent : Option Nat) : List Nat :=
  ((pktPreds p).foldl (fun l t => if l.contains t then l else l ++ [t]) [] ++ parent.toList).filter fun t =>
    match s.tcb? t with
    | some x => x.live
    | none => false

/-- A TCB that is ready reads its grid size once (R308) and gets its depth-0 frame (17, R289): a size of 0 retires it,
a bad one fails it. -/
def State.readSize (s : State) (i : Nat) (t : Tcb) : State :=
  let n := if t.sizeRead then some t.size
    else if gszi t.packet then
      (s.keepRead t.ctx (BitVec.ofNat 64 (pkt t.packet 24 8)) 1).map leNat
    else some (pkt t.packet 24 8)
  let s := if gszi t.packet && !t.sizeRead then s.keepMark t.ctx (BitVec.ofNat 64 (pkt t.packet 24 8)) 1 else s
  match n with
  | none => s.retire i true
  | some n =>
    if n = 0 then s.retire i false
    else if n % pktC t.packet ≠ 0 then s.retire i true
    else
      let k := n / pktC t.packet
      let s := { s with tcbs := alMod s.tcbs i fun t => { t with
        size := n, sizeRead := true
        pieces := if t.kernel.cores then (List.range k).map fun j => (j, j + 1) else [(0, k)] } }
      match t.kernel.frm with
      | f0 :: _ =>
        if f0 = 0 then s
        else
          match s.placeFrame 0 0 t.ctx 0 f0 with
          | none => s.retire i true
          | some h => (s.newFrame
            { handle := h, ctx := t.ctx, tcb := i, cluster := 0, core := 0, size := f0, slots := [],
              count := 1, owner := .grid i, link := none, saved := none, cont := none, buf := [], piece := none,
              grid := false, join := none, combine := none, born := none }).1
      | [] => s

/-- Every TCB that has become ready reads its size. -/
def State.readyAll (s : State) : Nat → State
  | 0 => s
  | fuel + 1 =>
    match s.tcbs.find? fun p => p.2.st == .ready && p.2.pieces == [] && !(p.2.sizeRead && p.2.size != 0) with
    | none => s
    | some (i, t) => (s.readSize i t).readyAll fuel

def State.settleReady (s : State) : State := s.readyAll (s.tcbs.length + 1)

/-- The resident, or its other slice, that holds an operation is changed. -/
def State.onOp (s : State) (id : Nat) (f : Resident → Op → Resident) : State :=
  let g := fun r : Resident =>
    match r.sl.op? id with
    | some o => f r o
    | none =>
      match (r.swap).sl.op? id with
      | some o => (f r.swap o).swap
      | none => r
  { s with cur := g s.cur, others := s.others.map g }

/-- An operation of any slice completes with one value. -/
def State.completeOp (s : State) (id : Nat) (v : W64) : State :=
  s.onOp id fun r o =>
    let r := { r with sl := { r.sl.lower o.flag with ops := r.sl.ops.filter fun p => p.id != id } }
    match o.kind with
    | .task d => r.deliver d o.exec (tab fun _ => v)
    | .engine _ t => { r with sl := { r.sl.wr t v with pending := r.sl.pending.filter (· != t) } }
    | .opq _ t => { r with sl := { r.sl.wr t v with pending := r.sl.pending.filter (· != t) } }
    | .bag _ d _ _ _ _ => { r with sl := r.sl.wr d v }
    | _ => r

/-- The kernel record that a packet names, none where it cannot be read or fails R59. -/
def State.packetKernel (s : State) (ctx : Nat) (p : BitVec 512) : Option Kernel :=
  let kva := BitVec.ofNat 64 (pkt p 0 8)
  match alFind s.ctxs ctx, s.keepRead ctx kva 8 with
  | some c, some b => parseKernel b (c.r.images.find? fun m => m.kva == kva)
  | _, _ => none

/-- The launch is rejected at acceptance (R306). -/
def State.rejects (s : State) (ctx : Nat) (p : BitVec 512) : Bool :=
  let foreign := (pktPreds p).any fun t => match s.tcb? t with
    | some x => x.live && x.ctx != ctx
    | none => false
  !pktOk p || foreign || (!gszi p && pkt p 24 8 % pktC p != 0) || match s.packetKernel ctx p with
    | none => true
    | some k => !kernelFits k || (k.cores && !gszi p && !packageFits k (pktWidth p) (pktHeight p) (pkt p 24 8 / pktC p))

/-- A packet taken into TCB `i` (R306): rejected at once, or waiting or ready with its predecessor count. -/
def State.accept (s : State) (i ctx q : Nat) (p : BitVec 512) (parent : Option Nat) : State :=
  match alFind s.ctxs ctx with
  | none => s
  | some _ =>
    let bad := s.rejects ctx p
    let k := s.packetKernel ctx p
    let s := s.keepMark ctx (BitVec.ofNat 64 (pkt p 0 8)) 8
    let preds := if bad then [] else s.livePreds p parent
    let n := preds.length + pkt p 50 2
    let t : Tcb := { st := if n = 0 then .ready else .waiting, ctx := ctx, packet := p, kernel := k.getD Kernel.empty,
                     preds := n, manual := pkt p 50 2, succs := [], size := 0, sizeRead := false, pieces := [], tiles := [],
                     wdone := 0, waited := false, readyAt := s.nextId, queue := some q, parent := parent, replays := 0, unprot := false,
                     failed := false, rejected := bad, xfault := none, starved := [], rolling := false, why := (0, 0xFFFF, 0), reduced := [] }
    let old := s.tcbs.map fun x =>
      (x.1, { x.2 with reduced := x.2.reduced.map fun e => if e.1 = i then (4096, e.2) else e
                       parent := x.2.parent.filter (· != i) })
    let s := { s with
      tcbs := preds.foldl (fun l j => alMod l j fun x => { x with succs := x.succs ++ [i] }) (kvInsert old i t)
      nextId := s.nextId + 1
      icache := s.icache.filter fun e => e.1 != i }
    if bad then s.retire i false else s

/-- The contexts in the order in which they are served: ascending after the last one (22, R373). -/
def rotate (l : List Nat) (last : Nat) : List Nat := l.filter (last < ·) ++ l.filter (· ≤ last)

/-- Queue heads in the order of service: context, queue, packet. -/
def State.heads (s : State) : List (Nat × Nat × BitVec 512) :=
  ((rotate (s.ctxs.map (·.1)) s.lastCtx).map fun c =>
    match alFind s.ctxs c with
    | none => []
    | some x => (rotate (List.range 16) x.lastQ).filterMap fun q => (s.headPacket x q).map fun p => (c, q, p)).flatten

/-- The head of highest priority, the first in the order of service among equals (22, R373). -/
def bestHead : List (Nat × Nat × BitVec 512) → Option (Nat × Nat × BitVec 512)
  | [] => none
  | h :: t =>
    match bestHead t with
    | none => some h
    | some b => if pktPrio h.2.2 < pktPrio b.2.2 then some b else some h

/-- The packet that is accepted next: the one that has been sent to the mirror ring (22, R380), else the best head. -/
def State.nextHead (s : State) : Option (Nat × Nat × BitVec 512) :=
  match s.mirrorSent with
  | some (c, q, _) => (alFind s.ctxs c).bind fun x => (s.headPacket x q).map fun p => (c, q, p)
  | none => bestHead s.heads

/-- The packet at a head has been read: bursts of it that are poisoned are counted (04, R75). -/
def State.countHead (s : State) (c q : Nat) : State :=
  match alFind s.ctxs c with
  | some x => s.poisonBytes (s.headAt x q) 64
  | none => s

/-- The packet has been accepted; a write of it to the mirror ring that failed is an event of its launch. -/
def State.mirrorDone (s : State) (i : Nat) : State :=
  { (match s.mirrorSent.bind (·.2.2) with
      | some a => s.mirrorLost a.toNat (some i)
      | none => s) with mirrorSent := none }

/-- LAUNCH_ACCEPT (R304, R306; 22, R373, R380, R382): retired TCBs are freed, then the next packet is accepted into a free TCB
(which one is a free value, log 8); with none free, or a predecessor's successor list full, it waits, and with a mirror
peer until its writes to the mirror ring have been acknowledged. -/
def execLaunchAccept (s : State) : Host.Outcome State Fault Refusal :=
  if s.kstate ≠ 1 then .next s else
  let s : State := { s with tcbs := s.tcbs.filter fun p => p.2.st != .retired }
  match s.nextHead with
  | none => .next s
  | some (c, q, p) =>
    let free := (List.range 4096).filter fun i => (s.tcb? i).isNone && !s.occupied i
    let parent : Option (Nat × Nat × Nat × Nat) := match alFind s.ctxs c with
      | some x => x.parents.find? fun e => e.1 == q && e.2.1 == kvGet 0 x.heads q
      | none => none
    let preds := s.livePreds p (parent.map (·.2.2.1))
    if free = [] ∨ preds.any fun j => match s.tcb? j with
        | some t => decide (256 < t.succs.length + preds.count j)
        | none => false then .next s
    else if s.mirrorOut then .next s
    else if s.mirror.isSome && s.mirrorSent.isNone && !s.rejects c p then
      .next { s.mirrorEntry p false none with mirrorSent := some (c, q, none) }
    else
      let i := free.getD (Config.pick s.tick % free.length) 0
      let s := ((s.countHead c q).accept i c q p (parent.map (·.2.2.1))).mirrorDone i
      let s := { s with
        lastCtx := c
        ctxs := alMod s.ctxs c fun x => { x with
          heads := kvPut 0 x.heads q (kvGet 0 x.heads q + 1), lastQ := q
          parents := x.parents.filter fun e => !(e.1 == q && e.2.1 == kvGet 0 x.heads q) } }
      let s := match parent with
        | some e => s.completeOp e.2.2.2 (BitVec.ofNat 64 i)
        | none => s
      .next s.settleReady

/-- The frame a handle names within a context and a cluster. -/
def State.frameIn (s : State) (ctx cluster : Nat) (h : W64) : Option (Nat × Frame) :=
  if h = 0 then none
  else s.frames.find? fun p => p.2.ctx == ctx && p.2.handle == h && (!handleSpf h || p.2.cluster == cluster)

/-! ## Frames that must leave a frame area (17, R290, R303) -/

/-- A handle replaced wherever a display register, a Keep record or a queued record field of its cluster names it. -/
def renameRec (h h' : W64) (r : ContRec) : ContRec :=
  { r with frame := if r.frame = h then h' else r.frame, join := if r.kind ≠ 3 ∧ r.join = h then h' else r.join }

def renameKv (h h' : W64) (d : Kv W64) : Kv W64 := d.map fun e => if e.2 = h then (e.1, h') else e

def Group.rename (g : Group) (h h' : W64) : Group := { g with d := renameKv h h' g.d, axd := renameKv h h' g.axd }

/-- An access that waits for a slot of a moved frame goes to the slot's new place. -/
def Access.redirect (f : Nat) (load : Bool) (at' : Nat → Option (W64 × Nat × Bool)) (a : Access) : Access :=
  match a.tgt with
  | .slot g k => if g = f ∧ a.st = .waiting then match at' k with
      | some (va, pa, hc) => { a with va := va, tgt := if load then .home pa else .mem pa hc }
      | none => a else a
  | _ => a

/-- The slice's accesses to a moved frame; a store's go into the store buffer at its place in program order. -/
def Slice.redirect (f : Nat) (at' : Nat → Option (W64 × Nat × Bool)) (x : Slice) : Slice :=
  x.ops.foldl (fun y o =>
    let acc := o.acc.map (Access.redirect f o.kind.isLoad at')
    if acc = o.acc then y
    else { y with
      ops := y.ops.map fun p => if p.id = o.id then { p with acc := acc } else p
      own := if o.kind = .store then ((acc.map (Access.enter o.seq o.id)).flatten).foldl enterOwn y.own else y.own }) x

/-- The frame `f`, moved to a handle of the pool: where its slots lie now. -/
def State.slotAt (s : State) (x : Frame) (k : Nat) : Option (W64 × Nat × Bool) :=
  match s.translateIn x.core x.ctx (x.slotVa k) .write true with
  | .ok t => some (x.slotVa k, t.pa, t.hc)
  | .error _ => none

/-- A group whose display registers name frame `f` by the handle `h` of a frame area: a group of its cluster, or one that runs a
record whose frame's chain it is on. -/
def State.names (s : State) (f cluster : Nat) (h : W64) (g : Group) (cl : Option Nat) : Bool :=
  g.kin.contains f || (cl == some cluster && !(s.frames.any fun p => p.1 != f && p.2.ctx == g.ctx && p.2.handle == h && g.kin.contains p.1))

/-- A frame moved from a core's frame area into the pool, with its contents, publish buffer and counts (R290, R303): every
name of it is rewritten, and the accesses to it that wait are performed at its new place.  A pool without room leaves it where
it is. -/
def State.moveFrame (s : State) (f : Nat) : State :=
  match alFind s.frames f with
  | none => s
  | some x =>
    match if handleSpf x.handle then s.framePlace x.ctx (handleDepth x.handle) x.size else none with
    | none => s
    | some h =>
      let mine := fun (cl : Option Nat) (g : Group) => g.id != 0 && g.ctx == x.ctx && s.names f x.cluster x.handle g cl
      let clOf := fun g : Group => (alFind s.teams g.team).map (·.cluster)
      let y := { x with handle := h, slots := [] }
      let at' := s.slotAt y
      let move := fun r : Resident =>
        let r := if mine (clOf r.g) r.g then { r with g := r.g.rename x.handle h } else r
        { g := { r.g with companion := r.g.companion.map (Slice.redirect f at') }, sl := r.sl.redirect f at' }
      let s := { s with tick := s.tick + 1, cur := move s.cur, others := s.others.map move }
      let s := s.modFrame f fun _ => y
      let s := (List.range x.size).foldl (fun s k => s.setSlot f k (kvGet 0 x.slots k)) s
      { s with
        frames := s.frames.map fun p => if p.2.cluster = x.cluster ∧ p.2.ctx = x.ctx then
            (p.1, { p.2 with saved := p.2.saved.map (renameKv x.handle h), cont := p.2.cont.map (renameRec x.handle h)
                             born := p.2.born.map (renameRec x.handle h) })
          else p
        clusters := alMod s.clusters x.cluster fun c => { c with crqs := c.crqs.map fun e => (e.1, e.2.map (renameRec x.handle h)) }
        saved := s.saved.map fun p =>
          let own := p.2.clusters.any (·.1 == x.cluster)
          (p.1, { p.2 with
            groups := p.2.groups.map fun r =>
              if mine (if own then some x.cluster else none) r.g then { r with g := r.g.rename x.handle h } else r
            clusters := if own then alMod p.2.clusters x.cluster fun c =>
                { c with crqs := c.crqs.map fun e => (e.1, e.2.map (renameRec x.handle h)) } else p.2.clusters }) }

/-- The frames of a core's frame area that lie in lines now given to teams are moved (R290). -/
def State.clearArea (s : State) (core : Nat) : State :=
  (s.frames.filter fun p => handleSpf p.2.handle && p.2.core == core &&
      decide (s.areaBytes core < p.2.handle.toNat % 2 ^ 20 + 8 * p.2.size)).foldl (fun s p => s.moveFrame p.1) s

/-! ## Placement (R309-R314) -/

def State.teamsOn (s : State) (core : Nat) : List (Nat × Team) := s.teams.filter fun p => p.2.core == core && !p.2.ended

/-- The groups resident on a core. -/
def State.groupsOn (s : State) (core : Nat) : List Group :=
  ((s.cur :: s.others).filter fun r => r.g.id != 0 && ((alFind s.teams r.g.team).map (·.core)) == some core).map (·.g)

/-- `extra` more groups with a footprint have room on a quarter of a core (R310, R316; 08, R151). -/
def State.quarterRoom (s : State) (core q : Nat) (extra base grow : Nat) : Bool :=
  let gs := (s.groupsOn core).filter fun g => g.quarter == q
  extra == 0 || decide (gs.length + extra ≤ 12) && (List.range 6).all fun b =>
    let used := (gs.map (·.taken b)).foldl (· + ·) 0
    let reserve := match gs with
      | [] => grow
      | g :: t => (oldestOf t g).reserve b
    decide (used + extra * base + reserve ≤ 96)

/-- A core lies in a reserved region. -/
def Reservation.covers (r : Reservation) (core : Nat) : Bool :=
  match rectCores r.origin r.width r.height with
  | some l => l.contains core
  | none => false

/-- The core has room for a team of a kernel (R310), and is not suspect (21, R364). -/
def State.teamRoom (s : State) (core : Nat) (k : Kernel) : Bool :=
  let ts := s.teamsOn core
  let sum := fun f : Team → Nat => (ts.map fun p => f p.2).foldl (· + ·) 0
  ((List.range 4).all fun q => s.quarterRoom core q (((List.range k.groups).filter fun g => g % 4 == q).length) k.base k.grow)
    && decide (sum (·.scrl) + k.scrl ≤ 1024) && decide (sum (·.nbars) + k.bars ≤ 512) && decide (sum (·.ntqs) + k.tqs ≤ 64)
    && ts.all (fun p => p.2.rings &&& k.rings == 0) && (k.detached || !((s.core core).fenced || (s.core core).toFence)) && !(s.core core).suspect

/-- The same for a team of a launch: outside other launches' reservations, for a split outside every reservation (R314). -/
def State.hasRoom (s : State) (core tcb : Nat) (k : Kernel) (split : Bool) : Bool :=
  s.teamRoom core k && s.resv.all fun r => (r.tcb == tcb && !split) || !r.covers core

/-- The core has room for a team: it holds none, or takes one of a launch that is ready or runs. -/
def State.roomy (s : State) (core : Nat) : Bool :=
  !(s.core core).suspect && ((s.teamsOn core).isEmpty ||
    s.tcbs.any fun p => (p.2.st == .ready || p.2.st == .running) && !p.2.rolling && s.teamRoom core p.2.kernel)

/-- A step of the Keep sees which cores have gained room since its last, and which have lost it (R310; log 91). -/
def State.settleRoom (s : State) : State :=
  { s with
    roomAt := (List.range 192).foldl (fun m c => match s.roomy c, kvGet (some 0) m c with
      | true, none => kvPut (some 0) m c (some s.nextId)
      | false, some _ => kvPut (some 0) m c none
      | _, _ => m) s.roomAt
    nextId := s.nextId + 1 }

/-- A scalar register given a start value. -/
def startReg (n : Nat) (v : W64) : Kv W64 := kvPut 0 [] n v

/-- A group as it becomes resident (08, R147, R163; 16, R271; 07, R145). -/
def State.mkGroup (s : State) (k : Kernel) (tcb ctx team gidx quarter prio : Nat) (p : BitVec 512) (d : Kv W64) : Resident :=
  let x := { Slice.idle .execute with
    s := if k.detached then kvPut 0 (startReg 1 (BitVec.ofNat 64 (pktParam p))) 2 (BitVec.ofNat 64 (pktCring p)) else [] }
  let a := { Slice.idle .access with s := startReg 1 (BitVec.ofNat 64 (pktParam p)), pc := k.aentry }
  { g := { Group.idle with
      id := s.nextId, team := team, gidx := gidx, quarter := quarter, ctx := ctx, tcb := tcb, coupled := !k.detached,
      pcv := tab fun _ => k.entry, d := d, axd := if k.detached then [] else d, base := k.base, grow := k.grow, prio := prio,
      since := s.nextId, companion := if k.detached then none else some a }
    sl := x }

/-- References an access slice holds on the frames of its display registers (17, R301). -/
def State.refDisp (s : State) (ctx cluster : Nat) (d : Kv W64) : State :=
  d.foldl (fun s e => match s.frameIn ctx cluster e.2 with
    | some p => s.addRef p.1
    | none => s) s

/-- The piece's bounds in slots 0 and 1 of the frame that holds it (R309). -/
def State.mirrorPiece (s : State) (cluster : Nat) : State :=
  match alFind s.clusters cluster with
  | none => s
  | some c =>
    match s.frames.find? fun p => p.2.grid && p.2.cluster == cluster with
    | some p => (s.setSlot p.1 0 (BitVec.ofNat 64 c.lo)).setSlot p.1 1 (BitVec.ofNat 64 c.hi)
    | none => s

/-- A declared frame created and named in the display registers; what it is for starts without one that finds no room in the
area or the pool (DESIGN CHOICE, log 97). -/
def State.declared (s : State) (d : Kv W64) (depth size core cidx : Nat) (t : Tcb) (tcb cluster : Nat) (owner : Owner)
    (link : Option Nat) (piece : Option Nat) : State × Kv W64 × Option Nat :=
  if size = 0 then (s, d, link)
  else
    match s.placeFrame core cidx t.ctx depth size with
    | none => (s, d, link)
    | some h =>
      let (s, f) := s.newFrame
        { handle := h, ctx := t.ctx, tcb := tcb, cluster := cluster, core := core, size := size,
          slots := [], count := 1, owner := owner, link := link, saved := none, cont := none, buf := [], piece := piece,
          grid := piece.isSome, join := none, combine := none, born := none }
      (s, kvPut 0 d depth h, some f)

/-- One group of a team started, with its depth-3 frame where the kernel declares one. -/
def State.startGroup (s : State) (t : Tcb) (tcb team cluster core cidx : Nat) (d : Kv W64) (link : Option Nat) (gidx : Nat) : State :=
  let r := s.mkGroup t.kernel tcb t.ctx team gidx (gidx % 4) (pktPrio t.packet) t.packet d
  let s := { s with nextId := s.nextId + 1 }
  let (s, d, _) := s.declared d 3 (t.kernel.frm.getD 3 0) core cidx t tcb cluster (.group r.g.id) link none
  let r := { r with g := { r.g with d := d, axd := if t.kernel.detached then [] else d } }
  let s := if t.kernel.detached then s else s.refDisp t.ctx cluster d
  { s with others := s.others ++ [r] }

/-- A team of a cluster takes its core's lines, barriers, queues and rings (06, R106; 19, R333): frames that its lines hold
move first (17, R290). -/
def State.addTeam (s : State) (t : Tcb) (tcb cluster clid : Nat) (core cidx : Nat) : State :=
  let k := t.kernel
  ({ s with
      nextId := s.nextId + 1
      teams := s.teams ++ [(s.nextId, (
        { tcb := tcb, tidx := clid * pktC t.packet + cidx, core := core, cluster := cluster,
          cidx := cidx, groups := k.groups, scrl := k.scrl, nbars := k.bars, ntqs := k.tqs, rings := k.rings, isTask := false,
          mem := [], tags := [], bars := [], tqs := [], ringst := [], wph := 0, left := 0, ended := false, stop := 0,
          placed := s.nextId } : Team))] } : State).clearArea core

/-- A team started: its depth-2 frame and its groups (R309). -/
def State.startTeam (s : State) (t : Tcb) (d : Kv W64) (link : Option Nat) (p : Nat × Team) : State :=
  let (s, d, link) := s.declared d 2 (t.kernel.frm.getD 2 0) p.2.core p.2.cidx t p.2.tcb p.2.cluster (.team p.1) link
    (if pktC t.packet = 1 then some (pktGrain t.packet) else none)
  (List.range t.kernel.groups).foldl (fun s g => s.startGroup t p.2.tcb p.1 p.2.cluster p.2.core p.2.cidx d link g) s

/-- A piece placed as one cluster on the cores of its rectangle (R309): its teams have their lines before its frames are
placed beside them. -/
def State.placePiece (s : State) (tcb : Nat) (t : Tcb) (lo hi origin : Nat) (cores : List Nat) : State :=
  let cl := s.nextId
  let s := { s with
    nextId := s.nextId + 1
    tcbs := alMod s.tcbs tcb fun t => { t with st := .running, pieces := t.pieces.filter (· != (lo, hi)), starved := t.starved.filter (· != (lo, hi)) }
    resv := s.resv.filter fun r => !(r.tcb == tcb && r.lo == lo)
    clusters := s.clusters ++ [(cl, (
      { tcb := tcb, clid := lo, origin := origin, width := pktWidth t.packet,
        height := pktHeight t.packet, lo := lo + 1, hi := hi, taken := 1, crqs := [], ended := false } : Cluster))] }
  let f0 := s.frames.find? fun p => p.2.owner == .grid tcb
  let d : Kv W64 := match f0 with
    | some p => kvPut 0 [] 0 p.2.handle
    | none => []
  let s := ((List.range cores.length).zip cores).foldl (fun s e => s.addTeam t tcb cl lo e.2 e.1) s
  let (s, d, link) := s.declared d 1 (t.kernel.frm.getD 1 0) (cores.headD 0) 0 t tcb cl (.cluster cl) (f0.map (·.1))
    (if pktC t.packet = 1 then none else some (pktGrain t.packet))
  let s := (s.teams.filter fun p => p.2.cluster == cl).foldl (fun s p => s.startTeam t d link p) s
  s.mirrorPiece cl

/-- The rectangles a launch's clusters may take, by origin. -/
def Tcb.rects (t : Tcb) : List (Nat × List Nat) :=
  (List.range 192).filterMap fun o => (rectCores o (pktWidth t.packet) (pktHeight t.packet)).map fun l => (o, l)

/-- The first rectangle of cores with room, by origin, among those that hold `core` where it is given (R310, R314). -/
def State.findRect (s : State) (tcb : Nat) (t : Tcb) (core : Option Nat) (split : Bool) : Option (Nat × List Nat) :=
  t.rects.find? fun e => core.all (e.2.contains ·) && e.2.all fun c => s.hasRoom c tcb t.kernel split

/-- `a` is offered before `b` (R310): priority, then the launch that became ready first, then the lowest index. -/
def offeredBefore (a b : Nat × Tcb × Nat × Nat) : Bool :=
  if pktPrio a.2.1.packet ≠ pktPrio b.2.1.packet then decide (pktPrio b.2.1.packet < pktPrio a.2.1.packet)
  else if a.2.1.readyAt ≠ b.2.1.readyAt then decide (a.2.1.readyAt < b.2.1.readyAt)
  else decide (a.2.2.1 < b.2.2.1)

/-- The first piece in the order of R310. -/
def firstOffer : List (Nat × Tcb × Nat × Nat) → Option (Nat × Tcb × Nat × Nat)
  | [] => none
  | h :: t =>
    match firstOffer t with
    | none => some h
    | some b => if offeredBefore b h then some b else some h

/-- The unplaced pieces of launches that may be placed. -/
def State.offers (s : State) : List (Nat × Tcb × Nat × Nat) :=
  ((s.tcbs.filter fun p => (p.2.st == .ready || p.2.st == .running) && !p.2.rolling).map fun p =>
    p.2.pieces.map fun e => (p.1, p.2, e.1, e.2)).flatten

/-- Every piece of a co-resident launch placed in one step, or none (R313): each takes the first rectangle with room. -/
def State.placeWhole (s : State) (tcb : Nat) (t : Tcb) : List (Nat × Nat) → Option State
  | [] => some s
  | e :: rest =>
    match s.findRect tcb t none false with
    | none => none
    | some (o, l) => (s.placePiece tcb t e.1 e.2 o l).placeWhole tcb t rest

/-- The grid-barrier counters bound to a co-resident launch (19, R342). -/
def State.bindCounters (s : State) (ctx tcb : Nat) : State :=
  { s with ctxs := alMod s.ctxs ctx fun c => { c with gholder := some tcb, garr := [], gphase := [] } }

/-! ## Splits (R311, R312) -/

/-- A placed piece that can be split: cluster, its record, launch. -/
def State.splittable (s : State) (core : Nat) : List (Nat × Cluster × Nat × Tcb) :=
  s.clusters.filterMap fun p =>
    match alFind s.tcbs p.2.tcb with
    | none => none
    | some t =>
      if !p.2.ended && !t.kernel.cores && !t.waited && t.st == .running && !t.rolling &&
          decide (2 * pktGrain t.packet ≤ p.2.hi - p.2.lo) && (s.findRect p.2.tcb t (some core) true).isSome then
        some (p.1, p.2, p.2.tcb, t)
      else none

/-- `a` is split before `b`: own die first, most remaining, lower TCB, lower lo (R311). -/
def splitBefore (die : Nat) (a b : Nat × Cluster × Nat × Tcb) : Bool :=
  let own := fun x : Nat × Cluster × Nat × Tcb => x.2.1.origin / 48 == die
  if own a != own b then own a
  else if a.2.1.hi - a.2.1.lo ≠ b.2.1.hi - b.2.1.lo then decide (b.2.1.hi - b.2.1.lo < a.2.1.hi - a.2.1.lo)
  else if a.2.2.1 ≠ b.2.2.1 then decide (a.2.2.1 < b.2.2.1)
  else decide (a.2.1.lo < b.2.1.lo)

def firstSplit (die : Nat) : List (Nat × Cluster × Nat × Tcb) → Option (Nat × Cluster × Nat × Tcb)
  | [] => none
  | h :: t =>
    match firstSplit die t with
    | none => some h
    | some b => if splitBefore die b h then some b else some h

/-- Cores of a rectangle that hold teams. -/
def State.busyCores (s : State) (l : List Nat) : Nat := (l.filter fun c => !(s.teamsOn c).isEmpty).length

/-- The rectangle position with the fewest cores holding teams; ties to the lower die, then the lower origin (R314). -/
def State.bestRegion (s : State) : List (Nat × List Nat) → Option (Nat × List Nat)
  | [] => none
  | h :: t =>
    match s.bestRegion t with
    | none => some h
    | some b => if s.busyCores b.2 < s.busyCores h.2 then some b else some h

/-! ## Gangs (R313, R314) -/

/-- A list with a record put before those that come after it. -/
def insertBy {α : Type} (le : α → α → Bool) (x : α) : List α → List α
  | [] => [x]
  | y :: t => if le x y then x :: y :: t else y :: insertBy le x t

/-- A list in order; equals keep their places. -/
def sortBy {α : Type} (le : α → α → Bool) (l : List α) : List α := l.foldr (insertBy le) []

/-- The unplaced pieces of a launch find no rectangle with room; a co-resident launch that waits for a held counter set does
not starve (19, R342). -/
def State.stuckGang (s : State) (tcb : Nat) (t : Tcb) : Bool :=
  t.pieces != [] && (t.st == .ready || t.st == .running) && !t.rolling &&
    if t.kernel.cores then
      (match alFind s.ctxs t.ctx with
        | some c => c.gholder.isNone
        | none => false) && (s.placeWhole tcb t t.pieces).isNone
    else (s.findRect tcb t none false).isNone

/-- A starving piece's reservation: the region of the position with the fewest cores holding teams, on a die that holds none;
for a co-resident launch the whole package.  None where no die is left for it. -/
def State.reserveFor (s : State) (tcb : Nat) (t : Tcb) (lo : Nat) : Option State :=
  if t.kernel.cores then
    if s.resv = [] then
      some { s with resv := (List.range 4).map fun d => ⟨d, tcb, lo, 48 * d, 8, 6⟩ }
    else none
  else
    (s.bestRegion (t.rects.filter fun e => s.resv.all fun r => r.die != e.1 / 48)).map fun e =>
      { s with resv := s.resv ++ [⟨e.1 / 48, tcb, lo, e.1, pktWidth t.packet, pktHeight t.packet⟩] }

/-- The pieces of a launch that starve as one: each alone, those of a co-resident launch together, under its first (R313). -/
def Tcb.gangs (t : Tcb) : List (Nat × Nat) := if t.kernel.cores then t.pieces.take 1 else t.pieces

/-- The starving pieces that hold no reservation, in the order in which they became ready. -/
def State.starving (s : State) : List (Nat × Tcb × Nat) :=
  let l := sortBy (fun a b => decide (a.2.readyAt ≤ b.2.readyAt)) (s.tcbs.filter fun p => s.stuckGang p.1 p.2)
  (l.map fun p => (p.2.gangs.filter fun e =>
    p.2.starved.contains e && !(s.resv.any fun r => r.tcb == p.1 && r.lo == e.1)).map fun e => (p.1, p.2, e.1)).flatten

/-- Reservations made in turn, until one has to wait for a die. -/
def State.reserveList (s : State) : List (Nat × Tcb × Nat) → State
  | [] => s
  | e :: rest =>
    match s.reserveFor e.1 e.2.1 e.2.2 with
    | some s => s.reserveList rest
    | none => s

def State.reserveAll (s : State) : State := s.reserveList s.starving

/-- GANG_STARVE (R314): the piece of a launch that has waited longest has found no rectangle for its threshold and starves; the
Keep reserves regions for starving pieces in turn. -/
def execGangStarve (tcb : Nat) (s : State) : Host.Outcome State Fault Refusal :=
  match alFind s.tcbs tcb with
  | none => .next s
  | some t =>
    match if s.stuckGang tcb t then t.gangs.find? fun e => !t.starved.contains e else none with
    | none => .next s
    | some e => .next ({ s with tcbs := alMod s.tcbs tcb fun t => { t with starved := t.starved ++ [e] } } : State).reserveAll

end Sys2Proof.Machine
end

