-- ==== Sys2Proof/Machine/Ends.lean ====
section
/-! DEFINITION. exit, and the end of groups, teams, clusters and grids; task slots (16, R275, R282; 17, R293; 18,
R312, R315-R317; 19, R342, R343; 07, R140, R145). -/

namespace Sys2Proof.Machine

/-! ## exit (16, R282; 07, R140, R142) -/

/-- The frames an access slice holds are given up when it stops (17, R301). -/
def State.dropAxd (s : State) : State :=
  let s' := s.cur.g.axd.foldl (fun s e => match s.frameOf e.2 with
    | some p => s.drop p.1
    | none => s) s
  s'.setG fun g => { g with axd := [] }

/-- The frames the access slice holds. -/
def State.axdFrames (s : State) : List Nat := s.cur.g.axd.filterMap fun e => (s.frameOf e.2).map (·.1)

/-- exit: every lane of EXEC exits (16, R282); in a scalar-profile stream the slice ends (07, R142), once the release of the
frames it gives up is complete. -/
def execExit (s : State) : Host.Outcome State Fault Refusal :=
  s.runBranch (s.mustBeLast (s.notInHandler
    (if s.cur.sl.scalar then
       if !s.mayGiveUp s.axdFrames then .stall else .ok (s.dropAxd.setSl fun x => { x with clause := none, rep := none, only := none, pc := ones64, ended := true })
     else .ok (s.branch fun _ => ones64).groupEnd)))

/-! ## The end of a grid, a cluster and a team -/

/-- Records wait in a queue of the cluster. -/
def Cluster.queued (c : Cluster) : Bool := c.crqs.any fun e => e.2 != []

/-- Some group resident, or saved, runs in a team of the cluster. -/
def State.clusterBusy (s : State) (cl : Nat) : Bool :=
  (s.cur :: s.others).any fun r => r.g.id != 0 && match alFind s.teams r.g.team with
    | some t => t.cluster == cl
    | none => false

/-- The launch's tile queue holds records. -/
def State.tilesLeft (s : State) (tcb : Nat) : Bool :=
  match alFind s.tcbs tcb with
  | some t => t.tiles != []
  | none => false

/-- A cluster whose teams have all ended keeps its task teams while its queues or the launch's tile queue hold records,
its groups run, or its depth-1 frame exists (R316). -/
def State.clusterDone (s : State) (cl : Nat) (c : Cluster) : Bool :=
  !c.queued && !s.tilesLeft c.tcb && !s.clusterBusy cl &&
    (s.frames.all fun p => p.2.cluster != cl || handleDepth p.2.handle != 1 || p.2.tcb != c.tcb)

/-- Matrix words of a team are in flight on its core. -/
def State.teamBusy (s : State) (p : Nat × Team) : Bool := (s.core p.2.core).mjobs.any fun j => j.team == p.1

/-- Nothing of a launch is under way: no group, no engine operation, and its writes are applied at every die, the release at
sg3 that the last step of a grid makes (R307; 15, R268). -/
def State.launchStill (s : State) (i : Nat) : Bool :=
  !s.occupied i && (s.cores.all fun c => c.2.eq.all fun q => q.2.all fun o => o.tcb != i) &&
    s.streams.all (fun x => x.tcb != i) && s.writes.all fun w => w.tcb != some i || s.appliedAtAll w.id 0x0F

/-- A failed launch's loaders, storers and engine operations that have not started are discarded. -/
def State.discard (s : State) (i : Nat) : State :=
  let ops := ((s.cores.map fun c => (c.2.eq.map fun q => (q.2.filter fun o => o.tcb == i && !o.started).map (·.id)).flatten).flatten) ++
    (s.streams.filter fun x => x.tcb == i).map (·.op)
  let s := ops.foldl (fun s id => s.completeOp id 0) s
  { s with
    streams := s.streams.filter fun x => x.tcb != i
    cores := s.cores.map fun (c : Nat × Core) =>
      (c.1, { c.2 with eq := c.2.eq.map fun q => (q.1, q.2.filter fun o => o.tcb != i || o.started) }) }

/-- A grid that has nothing left retires its TCB (R316, R304): no piece, cluster, saved unit, tile record or frame, and
nothing under way; one that has failed, once nothing of it is under way. -/
def State.endGrid (s : State) (i : Nat) : State :=
  match alFind s.tcbs i with
  | none => s
  | some t =>
    let s := if t.st = .running ∧ t.failed then s.discard i else s
    if t.st ≠ .running ∨ !s.launchStill i then s
    else if t.failed then ((s.retire i true).sweep i).settleReady
    else if t.rolling ∨ t.pieces ≠ [] ∨ t.tiles ≠ [] ∨
        (s.clusters.any fun p => p.2.tcb == i && !p.2.ended) ∨ (s.saved.any fun p => p.2.tcb == i) then s
    else
      let s := match s.frames.find? fun p => p.2.owner == .grid i with
        | some p => s.leaveFrame p.1
        | none => s
      if s.frames.any fun p => p.2.tcb == i then s
      else
        ({ s with clusters := s.clusters.filter fun p => p.2.tcb != i
                  teams := s.teams.filter fun p => p.2.tcb != i }.retire i false).settleReady

/-- A cluster whose task teams are no longer needed ends; the accumulator blocks of its task teams are freed (13, R239), and
its cores have room again. -/
def State.endCluster (s : State) (cl : Nat) : State :=
  match alFind s.clusters cl with
  | none => s
  | some c =>
    let ts := s.teams.filter fun p => p.2.cluster == cl
    if c.ended ∨ (ts.any fun p => !p.2.isTask && !p.2.ended) ∨ (ts.any s.teamBusy) ∨ !s.clusterDone cl c then s
    else
      let s := ts.foldl (fun (s : State) p => s.modCore p.2.core fun k => k.freeTeam p.1) s
      ({ s with
          clusters := alMod s.clusters cl fun c => { c with ended := true }
          teams := s.teams.map fun (p : Nat × Team) => if p.2.cluster = cl then (p.1, { p.2 with ended := true }) else p } :
        State)

/-- Task teams for the cores of a cluster (R316). -/
def State.taskTeams (s : State) (cl : Nat) (c : Cluster) : State :=
  let cores := (rectCores c.origin c.width c.height).getD []
  { s with
    nextId := s.nextId + cores.length
    teams := s.teams ++ ((List.range cores.length).zip cores).map fun e => (s.nextId + e.1, (
      { tcb := c.tcb, tidx := c.clid * cores.length + e.1, core := e.2, cluster := cl, cidx := e.1, groups := 0, scrl := 0,
        nbars := 0, ntqs := 0, rings := 0, isTask := true, mem := [], tags := [], bars := [], tqs := [], ringst := [],
        wph := 0, left := 0, ended := false, stop := 0, placed := s.nextId + e.1 } : Team)) }

/-- Every team placed on the cluster has ended: it leaves its depth-1 frame, what is left of its piece becomes an
unplaced piece again (R312), and task teams take over. -/
def State.teamsEnded (s : State) (cl : Nat) : State :=
  match alFind s.clusters cl with
  | none => s
  | some c =>
    if s.teams.any fun p => p.2.cluster == cl && !p.2.ended then s
    else
      let s := if c.lo < c.hi then
          { s with tcbs := alMod s.tcbs c.tcb fun t => { t with pieces := t.pieces ++ [(c.lo, c.hi)] }
                   clusters := alMod s.clusters cl fun c => { c with lo := c.hi } }
        else s
      let s := match s.frames.find? fun p => p.2.owner == .cluster cl with
        | some p => s.leaveFrame p.1
        | none => s
      match alFind s.clusters cl with
      | some c => if s.clusterDone cl c then s else s.taskTeams cl c
      | none => s

/-- A team ends when its own groups have left and no task slot of it runs a group. -/
def State.endTeam (s : State) (team : Nat) : State :=
  match alFind s.teams team with
  | none => s
  | some t =>
    if t.ended ∨ t.isTask ∨ t.left < t.groups ∨ (s.cur :: s.others).any (fun r => r.g.id != 0 && r.g.team == team) ∨
        s.teamBusy (team, t) then s
    else
      let s := (s.streams.filter fun x => x.team == team).foldl (fun s x => s.completeOp x.op 0) s
      let s := { s with
        teams := alMod s.teams team fun t => { t with ended := true, mem := [], tags := [], bars := [], tqs := [], ringst := [] }
        streams := s.streams.filter fun x => x.team != team }
      let s := s.modCore t.core fun c => c.freeTeam team
      let s := match s.frames.find? fun p => p.2.owner == .team team with
        | some p => s.leaveFrame p.1
        | none => s
      s.teamsEnded t.cluster

/-! ## Phases (18, R328; 19, R343) -/

/-- A team has ended its phase: every group, of those given that are its own and have not left, waits in wphase or has exited. -/
def phaseDone (gs : List Resident) (p : Nat × Team) : Bool :=
  let exited := (gs.filter fun r => r.g.id != 0 && r.g.team == p.1 && r.g.task == .team && !r.g.alive).length
  p.2.ended || decide (p.2.groups ≤ p.2.left + exited + (lanesOf p.2.wph).length)

/-- Indices a launch's clusters contribute to the current phase: those taken by clusters whose teams have all ended it. -/
def State.contributions (s : State) (tcb : Nat) : Nat :=
  let live := (s.clusters.filter fun p => p.2.tcb == tcb && (s.teams.all fun q => q.2.cluster != p.1 || q.2.isTask ||
    phaseDone (s.cur :: s.others) q)).map fun p => p.2.taken
  let kept := (s.saved.filter fun p => p.2.tcb == tcb).map fun p => ((p.2.clusters.filter fun q =>
    p.2.teams.all fun r => r.2.cluster != q.1 || phaseDone p.2.groups r).map fun q => q.2.taken).foldl (· + ·) 0
  live.foldl (· + ·) (kept.foldl (· + ·) 0)

/-- One of the group's slices waits in wphase. -/
def Resident.inPhase (r : Resident) : Bool := r.sl.wait == some .wphase || r.g.companion.any fun x => x.wait == some .wphase

def Slice.endPhase (x : Slice) : Slice := if x.wait = some .wphase then x.clearWait else x

/-- A group leaves wphase. -/
def Resident.endPhase (tcb : Nat) (r : Resident) : Resident :=
  if r.g.tcb = tcb then { g := { r.g with companion := r.g.companion.map Slice.endPhase }, sl := r.sl.endPhase } else r

/-- The phase of a launch ends when its contributions reach GRIDN / C: every waiting group resumes (R328). -/
def State.endPhase (s : State) (tcb : Nat) : State :=
  match alFind s.tcbs tcb with
  | none => s
  | some t =>
    let waits := (s.cur :: s.others).any (fun r => r.g.tcb == tcb && r.inPhase) ||
      s.saved.any fun p => p.2.tcb == tcb && p.2.groups.any Resident.inPhase
    if !waits ∨ s.contributions tcb < t.size / (if pktC t.packet = 0 then 1 else pktC t.packet) then s
    else
      { s with
        cur := s.cur.endPhase tcb
        others := s.others.map (Resident.endPhase tcb)
        teams := s.teams.map fun p => if p.2.tcb = tcb then (p.1, { p.2 with wph := 0 }) else p
        saved := s.saved.map fun p => if p.2.tcb = tcb then
            (p.1, { p.2 with groups := p.2.groups.map (Resident.endPhase tcb)
                             teams := p.2.teams.map fun q => (q.1, { q.2 with wph := 0 }) }) else p }

/-! ## Commands that wait (22, R374; 26, R393; 07, R141) -/

/-- Coupled teams stand on a core. -/
def State.coupledOn (s : State) (core : Nat) : Bool :=
  (s.teamsOn core).any fun p => match alFind s.tcbs p.2.tcb with
    | some t => !t.kernel.detached
    | none => false

/-- A response of the management channel: the command it answers leaves the ring. -/
def State.respond (s : State) (tag : BitVec 32) (status opc result : Nat) : State :=
  { s with resp := s.resp ++ [{ result := result, tag := tag, status := status, opc := opc }]
           ring := ((s.ring.1 + 1) % 2 ^ 32, s.ring.2) }

/-- The access has been performed. -/
def Access.over (a : Access) : Bool := a.st == .done || a.st == .bad

/-- A stamped write has been applied at its home. -/
def State.atHome (s : State) (w : Nat) : Bool :=
  match s.writes.find? fun p => p.id == w with
  | some p => p.ord != 0
  | none => true

/-- Every access of the slices, engines, loaders and storers that was issued before the number `x` has been performed (22,
R376). -/
def State.doneBefore (s : State) (x : Nat) : Bool :=
  ((s.cur :: s.others).all fun r => r.allOps.all fun o => decide (x ≤ o.id) || o.acc.all Access.over) &&
  (s.cores.all fun c => c.2.eq.all fun q => q.2.all fun o =>
    decide (x ≤ o.id) || (o.remote == [] && !s.asking o.id && o.writes.all s.atHome)) &&
  s.streams.all fun y => decide (x ≤ y.id) || (y.remote == [] && !s.asking y.id && y.writes.all s.atHome)

/-- Fences that can take effect do; a command whose effect is complete is answered: INVAL when every access issued before it
has been performed (22, R376), PREEMPT when every unit it stopped is saved, AAEFENCE when the fence stands, WRESET when the
Keep runs again and its links have trained (R382). -/
def State.settlePend (s : State) : State :=
  let s := { s with cores := s.cores.map fun (c : Nat × Core) =>
    if c.2.toFence ∧ !s.coupledOn c.1 then (c.1, { c.2 with fenced := true, toFence := false }) else c }
  match s.pend with
  | none => s
  | some (tag, opc, x) =>
    let done := if opc = 3 then s.doneBefore x
      else if opc = 5 then s.teams.all fun p => p.2.tcb != x || p.2.ended || p.2.stop == 0
      else if opc = 12 then s.kstate == 1 && s.hlink.state != 1 && s.ports.all fun p => p.2.state != 1
      else !(s.core x).toFence
    if done then { s.respond tag 0 opc 0 with pend := none } else s

/-! ## GROUP_LEAVE (16, R275) -/

/-- The execute slice of the selected group is the one meant. -/
def State.onExecute (s : State) : State :=
  match s.cur.sl.kind with
  | .access => { s with cur := s.cur.swap }
  | _ => s

/-- Every completion flag is clear and every token it named is written (16, R275). -/
def Slice.quiet (x : Slice) : Bool := x.pending == [] && (List.range 12).all fun n => kvGet 0 x.flags n == 0

/-- The completion record of a detached group that has exited (07, R145): the words at CRING + 32 times its number in the grid. -/
def State.detachedRecord (s : State) : State :=
  match s.team?, alFind s.tcbs s.cur.g.tcb, s.cur.g.exit with
  | some t, some c, some (v3, v4) =>
    if s.cur.g.coupled ∨ s.cur.g.task ≠ .team ∨ pktCring c.packet = 0 then s
    else
      let va := BitVec.ofNat 64 (pktCring c.packet + 32 * (t.tidx * t.groups + s.cur.g.gidx))
      let put := fun (s : State) (k : Nat) (v : W64) =>
        match s.translateIn 0 s.cur.g.ctx (va + BitVec.ofNat 64 (8 * k)) .write false with
        | .ok tr => ((s.markWalk tr.path .write).snapshot (some s.cur.g.tcb) tr.pa).keepWrite tr.pa (dwordBytes v)
        | .error _ => s
      put (put (put (put s 0 s.teamReg) 1 s.groupReg) 2 v3) 3 v4
  | _, _, _ => s

/-- The frames a group owns, the innermost first. -/
def State.ownedFrames (s : State) : List Nat :=
  let l := s.frames.filter fun p => s.owns p.2
  ([3, 2, 1, 0].map fun d => (l.filter fun p => handleDepth p.2.handle == d).map (·.1)).flatten

/-- The selected group is the last of its team, which ends as it leaves. -/
def State.lastOfTeam (s : State) : Bool :=
  match s.team? with
  | none => false
  | some t => !t.isTask && decide (t.groups ≤ t.left + (if s.cur.g.task = .team then 1 else 0)) && !s.teamBusy (s.cur.g.team, t) &&
      s.others.all fun r => r.g.id == 0 || r.g.team != s.cur.g.team

/-- The references that the selected group drops as it leaves: its own frames, those it holds, those of its access slice; the
last of a team its team's frame, the last of a cluster's teams its cluster's. -/
def State.leavingFrames (s : State) : List Nat :=
  let last := s.lastOfTeam
  let ends := last && s.teams.all fun p => p.2.cluster != s.clusterNo || p.2.ended || p.1 == s.cur.g.team
  s.ownedFrames ++ s.heldFrom 0 ++ s.axdFrames ++
    (s.frames.filter fun p => (last && p.2.owner == .team s.cur.g.team) || (ends && p.2.owner == .cluster s.clusterNo)).map (·.1)

/-- What both slices of the group have issued stands where the release of the frames that retire asks (17, R294; 18, R315), and
what these publish may be published. -/
def State.mayLeave (s : State) : Bool :=
  let l := s.retiring s.leavingFrames
  l == [] || (((s.cur.sl :: s.cur.g.companion.toList).all fun x => !x.slotsOut && s.releaseDone x x.nextSeq (s.retireAgents l) false 0) &&
    l.all s.publishable)

/-- The selected group is gone from its quarter of a core; what it has still under way goes on without it. -/
def State.depart (s : State) (core : Nat) : State :=
  let r : Resident := { s.cur with g := { s.cur.g with team := 0, gone := some core, v := [], oq := [], d := [], axd := [], holds := 0 } }
  { s.modCore core fun c => { c with alatch := c.alatch.filter (· != r.g.id) } with
    cur := ⟨Group.idle, Slice.idle .execute⟩, others := if r.over then s.others else s.others ++ [r] }

/-- Every team, cluster and grid that has nothing left ends; a command whose effect is complete is answered; starving pieces
take their turn. -/
def State.endings (s : State) : State :=
  let s := (s.teams.map (·.1)).foldl State.endTeam s
  let s := (s.clusters.map (·.1)).foldl State.endCluster s
  let s := (s.tcbs.map (·.1)).foldl (fun s i => ((s.endPhase i).endGrid i).sweep i) s
  s.settleRoom.reserveAll.settlePend

/-- GROUP_LEAVE (R275): the selected group has ended, its flags are clear and its tokens written: its completion record is
written, it leaves its frames and its quarter, its registers are freed, and with it its team, cluster and grid may end. -/
def execGroupLeave (s : State) : Host.Outcome State Fault Refusal :=
  let s := s.onExecute
  let g := s.cur.g
  if g.id = 0 ∨ g.gone.isSome ∨ g.alive ∨ !s.cur.sl.quiet ∨ !s.mayLeave then .next s.endings
  else
    let core := s.coreNo
    let s := s.detachedRecord.dropAxd
    let s := (s.ownedFrames.foldl State.leaveFrame s).dropHolds 0
    let s := s.modTeam fun t => { t with
      bars := t.bars.map fun b => (b.1, { b.2 with rel := b.2.rel &&& ~~~(maskBit g.gidx) })
      left := if g.task = .team then t.left + 1 else t.left }
    .next (s.depart core).endings

/-! ## Task slots (R315, R316) -/

/-- Task slots of a team. -/
def Team.slots (t : Team) : Nat := if t.isTask then 32 else 32 - t.groups

def State.slotFree (s : State) (team slot : Nat) : Bool :=
  (s.cur :: s.others).all fun r => r.g.id == 0 || r.g.team != team || r.g.slot != some slot

/-- The quarter for one more group of a launch: the fewest resident groups among those with room, the lowest on ties. -/
def State.slotQuarter (s : State) (core : Nat) (k : Kernel) : Option Nat :=
  let gs := s.groupsOn core
  let n := fun q => (gs.filter fun g => g.quarter == q).length
  (List.range 4).foldl (fun best q =>
    if !s.quarterRoom core q 1 k.base k.grow then best
    else match best with
      | none => some q
      | some b => if n q < n b then some q else some b) none

/-- The lowest free slot of a team whose core has room, is not suspect (21, R364) and is not being pre-empted. -/
def State.idleSlot (s : State) (p : Nat × Team) : Option (Nat × Nat) :=
  match alFind s.tcbs p.2.tcb with
  | none => none
  | some t =>
    if p.2.ended ∨ p.2.stop ≠ 0 ∨ t.st ≠ .running ∨ t.rolling ∨ (s.core p.2.core).suspect then none
    else
      match (List.range p.2.slots).find? (s.slotFree p.1), s.slotQuarter p.2.core t.kernel with
      | some k, some _ => some (p.1, k)
      | _, _ => none

/-- The first idle slot of a cluster: the team on the lowest cluster core, its lowest slot. -/
def State.firstSlot (s : State) (cl : Nat) : Option (Nat × Nat) :=
  let ts := s.teams.filter fun p => p.2.cluster == cl
  ((List.range 12).map fun c => (ts.filter fun p => p.2.cidx == c).filterMap s.idleSlot).flatten.head?

/-- The record an idle slot takes: highest class, first in first out, the cluster's queues before the tile queue. -/
def State.nextRec (s : State) (cl tcb : Nat) : Option ContRec :=
  match alFind s.clusters cl, alFind s.tcbs tcb with
  | some c, some t =>
    ([3, 2, 1, 0].filterMap fun p =>
      match kvGet [] c.crqs p with
      | r :: _ => some r
      | [] => t.tiles.find? fun r => r.prio == p).head?
  | _, _ => none

/-- The record leaves its queue. -/
def State.takeRec (s : State) (cl tcb : Nat) (r : ContRec) : State :=
  if r.kind = 3 then { s with tcbs := alMod s.tcbs tcb fun t => { t with tiles := t.tiles.erase r } }
  else { s with clusters := alMod s.clusters cl fun c => { c with crqs := kvPut [] c.crqs r.prio (kvGet [] c.crqs r.prio).tail } }

def taskKindOf (k : Nat) : TaskKind := if k = 1 then .spawned else if k = 2 then .continuation else .tile

/-- A record runs as one group of a team's slot: it owns the record's frame, whose static chain fills the outer display
registers (R316; 17, R293). -/
def State.runRec (s : State) (team slot : Nat) (t : Team) (c : Tcb) (q : Nat) (r : ContRec) : State :=
  let fr := s.frameIn c.ctx t.cluster r.frame
  let chain := match fr with
    | some (f, _) => s.chainOf 4 (some f)
    | none => []
  let d : Kv W64 := match fr with
    | some (_, x) => kvPut 0 (s.chain 4 x.link []) (handleDepth x.handle) x.handle
    | none => []
  let gidx := if t.isTask then slot else t.groups + slot
  let x := s.mkGroup c.kernel t.tcb c.ctx team gidx q r.prio c.packet d
  let x := { x with
    g := { x.g with pcv := tab fun _ => r.code, task := taskKindOf r.kind, slot := some slot, kin := chain }
    sl := { x.sl with s := startReg 1 (BitVec.ofNat 64 (pktParam c.packet)) } }
  let s := { s with nextId := s.nextId + 1 }
  let s := if c.kernel.detached then s else chain.foldl State.addRef s
  let s := match fr with
    | some (f, _) => s.modFrame f fun y => { y with
        owner := .group x.g.id
        cluster := if r.kind = 3 then t.cluster else y.cluster, core := if r.kind = 3 then t.core else y.core
        join := if r.kind ≠ 3 ∧ r.join ≠ 0 then (s.frameIn c.ctx t.cluster r.join).map (fun p : Nat × Frame => p.1) else y.join
        combine := if r.kind = 3 then some (r.join.toNat % 4096) else y.combine }
    | none => s
  { s with others := s.others ++ [x] }

/-- CR_POP (R316, R317), the step in which a slot asks: slot `slot` of a team, idle and first among those that could, takes
the next record. -/
def execCrPop (team slot : Nat) (s : State) : Host.Outcome State Fault Refusal :=
  match alFind s.teams team with
  | none => .next s
  | some t =>
    if s.firstSlot t.cluster ≠ some (team, slot) then .next s
    else
      match alFind s.tcbs t.tcb, s.nextRec t.cluster t.tcb with
      | some c, some r =>
        match s.slotQuarter t.core c.kernel with
        | none => .next s
        | some q => .next ((s.takeRec t.cluster t.tcb r).runRec team slot t c q r).settleRoom
      | _, _ => .next s

/-! ## Splits (R311, R312, R323) -/

/-- A spawnr frame that can be split: its number, record, lo, hi.  One whose slots are uncorrectable is left (log 86). -/
def State.spawnPieces (s : State) (cl : Nat) : List (Nat × Frame × Nat × Nat) :=
  s.frames.filterMap fun p =>
    match p.2.piece with
    | none => none
    | some g =>
      let lo := (s.getSlot p.1 0).toNat
      let hi := (s.getSlot p.1 1).toNat
      if p.2.grid || p.2.cluster != cl || s.slotBad p.1 0 || s.slotBad p.1 1 || decide (hi - lo < 2 * g) then none else some (p.1, p.2, lo, hi)

/-- The one with the most remaining iterations, ties to the lower lo (R311). -/
def mostLeft : List (Nat × Frame × Nat × Nat) → Option (Nat × Frame × Nat × Nat)
  | [] => none
  | h :: t =>
    match mostLeft t with
    | none => some h
    | some b =>
      if h.2.2.2 - h.2.2.1 < b.2.2.2 - b.2.2.1 ∨ (h.2.2.2 - h.2.2.1 = b.2.2.2 - b.2.2.1 ∧ b.2.2.1 < h.2.2.1) then some b else some h

/-- A spawnr piece split: the frame keeps [lo, mid), a new frame and record take [mid, hi), with the same JOIN and
static link (R323). -/
def State.splitSpawn (s : State) (e : Nat × Frame × Nat × Nat) : State :=
  let (f, x, lo, hi) := e
  let mid := lo + (hi - lo) / 2
  let cidx := match s.teams.find? fun p => p.2.cluster == x.cluster && p.2.core == x.core with
    | some p => p.2.cidx
    | none => 0
  match x.born, s.placeFrame x.core cidx x.ctx 3 x.size with
  | some r, some h =>
    let joined := x.join.bind fun j => (alFind s.frames j).map fun y => (j, y.handle)
    let r := { r with frame := h, join := (joined.map (·.2)).getD 0 }
    let s := match joined with
      | some (j, _) => s.addRef j
      | none => s
    let s := s.setSlot f 1 (BitVec.ofNat 64 mid)
    let (s, n) := s.newFrame { x with handle := h, slots := [], count := 1, owner := .nobody, saved := none, cont := none,
                                      buf := [], join := none, combine := none, born := some r }
    ((s.setSlot n 0 (BitVec.ofNat 64 mid)).setSlot n 1 (BitVec.ofNat 64 hi)).pushRec x.cluster x.tcb r
  | _, _ => s

/-- An idle task slot of the core that finds every queue empty splits a spawnr piece of its cluster. -/
def State.slotSplit (s : State) (core : Nat) : State :=
  let ts := s.teams.filter fun p => p.2.core == core && (s.idleSlot p).isSome && (s.nextRec p.2.cluster p.2.tcb).isNone
  match ts.findSome? fun p => mostLeft (s.spawnPieces p.2.cluster) with
  | some e => s.splitSpawn e
  | none => s

end Sys2Proof.Machine
end

