-- ==== Sys2Proof/Machine/Bounds.lean ====
section
/-! DEFINITION. Tensor bound registers and vstb (06, R115; 21, R360-R362). -/

namespace Sys2Proof.Machine

/-- The element formats of FMT (R360). -/
inductive ElFmt where
  | f32 | bf16 | f16 | e4m3 | e5m2 | i32 | i8
  deriving DecidableEq, Repr

def elFmtOf (n : Nat) : Option ElFmt := ([.f32, .bf16, .f16, .e4m3, .e5m2, .i32, .i8] : List ElFmt)[n]?

def ElFmt.width : ElFmt → Nat
  | .f32 => 32
  | .bf16 => 16
  | .f16 => 16
  | .e4m3 => 8
  | .e5m2 => 8
  | .i32 => 32
  | .i8 => 8

/-- The value of an element. -/
def ElFmt.decode (f : ElFmt) (x : Nat) : Num :=
  match f with
  | .f32 => fp32.decode x
  | .bf16 => Machine.bf16.decode x
  | .f16 => fp16.decode x
  | .e4m3 => Fmt8.e4m3.decode x
  | .e5m2 => Fmt8.e5m2.decode x
  | .i32 => numOfInt (BitVec.ofNat 32 x).toInt
  | .i8 => numOfInt (BitVec.ofNat 8 x).toInt

/-- The values of a format in rising order by an index from `−lo` to `hi`; 0 has the index 0. -/
def ElFmt.span : ElFmt → Nat × Nat
  | .f32 => (fp32.infCode, fp32.infCode)
  | .bf16 => (Machine.bf16.infCode, Machine.bf16.infCode)
  | .f16 => (fp16.infCode, fp16.infCode)
  | .e4m3 => (127, 126)
  | .e5m2 => (125, 124)
  | .i32 => (2 ^ 31, 2 ^ 31 - 1)
  | .i8 => (128, 127)

/-- The code at an index. -/
def ElFmt.code (f : ElFmt) (i : Int) : Nat :=
  match f with
  | .i32 => wrapI 32 i
  | .i8 => wrapI 8 i
  | .e4m3 => if i < 0 then 127 + i.natAbs else i.natAbs
  | .e5m2 => if i < 0 then 127 + i.natAbs else i.natAbs
  | _ => if i < 0 then 2 ^ (f.width - 1) + i.natAbs else i.natAbs

/-- The least index from `lo` to `lo + 2^n - 1` that meets a condition that stays true above it. -/
def leastIdx (p : Int → Bool) : Nat → Int → Int
  | 0, lo => lo
  | n + 1, lo => if p (lo + 2 ^ n - 1) then leastIdx p n lo else leastIdx p n (lo + 2 ^ n)

/-- LO′: the code of the least value of the format that is at least LO (R361). -/
def ElFmt.above (f : ElFmt) (x : Num) : Option Int :=
  let i := leastIdx (fun i => decide ((f.span.2 : Int) < i) || !(f.decode (f.code i)).lt x) 33 (-(f.span.1 : Int))
  if (f.span.2 : Int) < i then none else some i

/-- HI′: the code of the greatest value that is at most HI (R361). -/
def ElFmt.below (f : ElFmt) (x : Num) : Option Int :=
  let i := leastIdx (fun i => decide ((f.span.2 : Int) < i) || x.lt (f.decode (f.code i))) 33 (-(f.span.1 : Int))
  if i ≤ -(f.span.1 : Int) then none else some (i - 1)

inductive BoundAct where
  | flag | clamp | trap
  deriving DecidableEq, Repr

/-- A bound as a use of it sees it: the action, the limits, the codes of LO′ and HI′ in the checked format; an unusable
entry traps with every element outside (R361). -/
structure Bound where
  act  : BoundAct
  lo   : Num
  hi   : Num
  fmt  : ElFmt
  loC  : Nat
  hiC  : Nat
  none' : Bool
  deriving DecidableEq, Repr

def Bound.unusable : Bound := ⟨.trap, .nan false, .nan false, .f32, 0, 0, true⟩

/-- An entry's four dwords, for a use that checks FMT (`vstb`) or FP32. -/
def parseBound (v : List W64) (useFmt : Bool) : Bound :=
  let lo := fp64.decode (v.getD 0 0).toNat
  let hi := fp64.decode (v.getD 1 0).toNat
  let c := (v.getD 2 0).toNat
  let f := if useFmt then elFmtOf (c / 16 % 8) else some .f32
  let act : Option BoundAct := ([.flag, .clamp, .trap] : List BoundAct)[c % 4]?
  if c / 2 ^ 8 ≠ 0 ∨ c / 4 % 4 ≠ 0 ∨ c / 128 % 2 = 0 ∨ c / 16 % 8 = 7 ∨ lo.isNan ∨ hi.isNan then .unusable
  else
    match f, act with
    | some f, some a =>
      match f.above lo, f.below hi with
      | some i, some j => if j < i then .unusable else ⟨a, lo, hi, f, f.code i, f.code j, false⟩
      | _, _ => .unusable
    | _, _ => .unusable

/-- The element is in range (R361). -/
def Bound.has (b : Bound) (x : Nat) : Bool :=
  !b.none' && !(b.fmt.decode x).isNan && !(b.fmt.decode x).lt b.lo && !b.hi.lt (b.fmt.decode x)

/-- The element clamped: above HI to HI′, below LO and a NaN to LO′. -/
def Bound.clamp (b : Bound) (x : Nat) : Nat :=
  if b.has x then x else if b.hi.lt (b.fmt.decode x) then b.hiC else b.loC

def State.boundVa (s : State) (n : Nat) : W64 := (s.ctx?.map (·.r.boundTab)).getD 0 + BitVec.ofNat 64 (32 * n)

/-- A bound register read by a word under the conditions of LOAD (R360; unreadable data 20, R354). -/
def State.readBound (s : State) (n : Nat) (useFmt : Bool) : Res (Bound × List (List Nat)) :=
  match s.readVas (s.boundVa n) 4 with
  | .error (c, a) => .fail c s.exec' a
  | .ok (v, ps) => .ok (parseBound v useFmt, ps)

/-- HITS of bound `n` raised by one (R362): a redadd.w64 at sg3, without a flag, performed once operation `after` has
completed (its number stands in the access); it cannot trap. -/
def State.hit (s : State) (n after : Nat) : State :=
  let va := s.boundVa n + 24
  let c : Checked := ⟨0, va, s.checkVa va 8 .both⟩
  (s.markAll (pathsOf [c]) .both).issue (.atomic .add true .nowhere 0x0F false) none
    (accessesOf [c] 8 (fun _ => 1) fun _ => BitVec.ofNat 64 after)

/-- vstb (06, R115). -/
def execVstb (d : BitVec 7) (b : BitVec 9) (t : BitVec 6) (f : BitVec 1) (s : State) : Host.Outcome State Fault Refusal :=
  let addr := s.unitAddr false b 0
  s.run (s.vectorOnly (s.flagged (s.fsFlag f) (State.alignFirst (s.checkLanes false .write addr) (
    (s.sources [⟨d.toNat, false⟩] none).bind fun (vs, g) =>
    let x := vs.getD 0 zeroLanes
    s.checkedWord (s.checkLanes false .write addr) .write false fun s' =>
      (s'.readBound t.toNat true).bind fun (bd, ps) =>
        let w := bd.fmt.width
        let out := maskOf fun l => inMask s.exec' l && (bd.none' || (List.range (64 / w)).any fun k =>
          !bd.has (subEl (lane x l) k w))
        if bd.act = .trap ∧ out ≠ 0 then .trap 0x0F out (addr ((lanesOf out).headD 0))
        else
          let y := if bd.act = .clamp then tab fun l => mapEls w fun k =>
              bd.clamp (subEl (lane x l) k w) else x
          let id := s'.nextId
          let s' := ((s'.markAll ps .read).setG fun _ => g).issue .store (s.fsFlag f)
            (accessesOf (s.checkLanes false .write addr) 8 (lane y) fun _ => 0)
          .ok (if bd.act = .flag ∧ out ≠ 0 then s'.hit t.toNat id else s')))))

end Sys2Proof.Machine
end

