-- ==== Sys2Proof/Machine/Real.lean ====
section
/-! DEFINITION. Enclosures of real functions: intervals with 256 fraction bits, exponential, logarithm, sine and cosine of
multiples of π (for 11, R214, and 12, R218). -/

namespace Sys2Proof.Machine

/-- An interval of reals, its ends times 2^256. -/
structure Iv where
  lo : Int
  hi : Int
  deriving DecidableEq, Repr

def ivOne : Int := 2 ^ 256

def ceilDiv (a b : Int) : Int := -((-a) / b)

def Iv.point (x : Int) : Iv := ⟨x, x⟩
def Iv.ofNat (n : Nat) : Iv := .point (n * ivOne)
def Iv.add (a b : Iv) : Iv := ⟨a.lo + b.lo, a.hi + b.hi⟩
def Iv.neg (a : Iv) : Iv := ⟨-a.hi, -a.lo⟩
def Iv.sub (a b : Iv) : Iv := a.add b.neg

def min4 (a b c d : Int) : Int := min (min a b) (min c d)
def max4 (a b c d : Int) : Int := max (max a b) (max c d)

def Iv.mul (a b : Iv) : Iv :=
  ⟨min4 (a.lo * b.lo) (a.lo * b.hi) (a.hi * b.lo) (a.hi * b.hi) / ivOne,
   ceilDiv (max4 (a.lo * b.lo) (a.lo * b.hi) (a.hi * b.lo) (a.hi * b.hi)) ivOne⟩

/-- An enclosure of a real known to lie below `c`. -/
def Iv.below (a : Iv) (c : Int) : Iv := ⟨min a.lo (c - 1), min a.hi c⟩

def Iv.divNat (a : Iv) (n : Nat) : Iv := ⟨a.lo / n, ceilDiv a.hi n⟩

/-- 1 / a for a positive interval. -/
def Iv.inv (a : Iv) : Iv := if a.lo ≤ 0 then ⟨0, ivOne * ivOne⟩ else ⟨ivOne * ivOne / a.hi, ceilDiv (ivOne * ivOne) a.lo⟩

def Iv.pow (a : Iv) : Nat → Iv
  | 0 => .point ivOne
  | n + 1 => (a.pow n).mul a

/-- Terms of the exponential series from the `k`-th on. -/
def expTerms (z : Iv) : Nat → Nat → Iv → Iv → Iv
  | 0, _, _, sum => ⟨sum.lo, sum.hi + 2⟩
  | fuel + 1, k, term, sum =>
    let t := (term.mul z).divNat (k + 1)
    expTerms z fuel (k + 1) t (sum.add t)

/-- e^z for 0 ≤ z ≤ 1. -/
def exp01 (z : Iv) : Iv := expTerms z 70 0 (.point ivOne) (.point ivOne)

def ivE : Iv := exp01 (.point ivOne)

/-- e^x at one point: exact at 0, below −1000 a value next to 0. -/
def expAt (x : Int) : Iv :=
  let n := x / ivOne
  let f := exp01 (.point (x % ivOne))
  if x = 0 then .point ivOne
  else if n < -1000 then ⟨0, 1⟩
  else if 0 ≤ n then f.mul (ivE.pow n.toNat)
  else f.mul (ivE.pow (-n).toNat).inv

def Iv.exp (z : Iv) : Iv := if z.lo = z.hi then expAt z.lo else ⟨(expAt z.lo).lo, (expAt z.hi).hi⟩

/-- Terms of t + t^3/3 + …. -/
def atanhTerms (t2 : Iv) : Nat → Nat → Iv → Iv → Iv
  | 0, _, _, sum => ⟨sum.lo, sum.hi + 2⟩
  | fuel + 1, k, p, sum =>
    let p := p.mul t2
    atanhTerms t2 fuel (k + 1) p (sum.add (p.divNat (2 * k + 3)))

/-- ln m for a point 1 ≤ m ≤ 2. -/
def ln12 (m : Int) : Iv :=
  let t := (Iv.point (m - ivOne)).mul (Iv.point (m + ivOne)).inv
  let a := atanhTerms (t.mul t) 85 0 t t
  ⟨2 * a.lo, 2 * a.hi⟩

def ivLn2 : Iv := ln12 (2 * ivOne)

/-- An interval times an integer. -/
def Iv.scale (a : Iv) (k : Int) : Iv := if 0 ≤ k then ⟨k * a.lo, k * a.hi⟩ else ⟨k * a.hi, k * a.lo⟩

/-- ln of m × 2^e, m positive; 0 exactly for 1. -/
def lnDy (m : Nat) (e : Int) : Iv :=
  let l := m.log2
  if m = 2 ^ l then ivLn2.scale (e + l)
  else
    let a := ln12 (m * 2 ^ 256 / 2 ^ l)
    let b := ln12 (ceilDiv (m * 2 ^ 256) (2 ^ l))
    (Iv.mk a.lo b.hi).add (ivLn2.scale (e + l))

/-- ln of a positive interval. -/
def Iv.ln (a : Iv) : Iv :=
  if a.lo = a.hi then lnDy a.lo.toNat (-256) else ⟨(lnDy a.lo.toNat (-256)).lo, (lnDy a.hi.toNat (-256)).hi⟩

/-- e^z as 2^k times an interval near [1, 2). -/
def Iv.expScaled (z : Iv) : Int × Iv :=
  let k := z.lo / ivLn2.hi
  (k, (z.sub (ivLn2.scale k)).exp)

/-! ## sin and cos of multiples of π -/

/-- The arc tangent of 1/n. -/
def atanInv (n : Nat) : Nat → Nat → Iv → Iv → Iv
  | 0, _, _, sum => ⟨sum.lo - 2, sum.hi + 2⟩
  | fuel + 1, k, p, sum =>
    let p := p.divNat (n * n)
    let t := p.divNat (2 * k + 3)
    atanInv n fuel (k + 1) p (if k % 2 = 0 then sum.sub t else sum.add t)

/-- π by 16 atan(1/5) − 4 atan(1/239). -/
def ivPi : Iv :=
  let a := atanInv 5 60 0 ((Iv.point ivOne).divNat 5) ((Iv.point ivOne).divNat 5)
  let b := atanInv 239 60 0 ((Iv.point ivOne).divNat 239) ((Iv.point ivOne).divNat 239)
  (a.scale 16).sub (b.scale 4)

/-- Terms of the series of sine and cosine: signs alternate, powers rise by two. -/
def trigTerms (z2 : Iv) : Nat → Nat → Iv → Iv → Iv
  | 0, _, _, sum => ⟨sum.lo - 2, sum.hi + 2⟩
  | fuel + 1, k, term, sum =>
    let t := ((term.mul z2).divNat ((k + 1) * (k + 2))).neg
    trigTerms z2 fuel (k + 2) t (sum.add t)

/-- sin z for z in [0, 2]. -/
def Iv.sin (z : Iv) : Iv := trigTerms (z.mul z) 45 1 z z

/-- cos z for z in [0, 2]. -/
def Iv.cos (z : Iv) : Iv := trigTerms (z.mul z) 45 0 (.point ivOne) (.point ivOne)

/-! ## FP32 values within a bound of an enclosed result (11, R214) -/

/-- The FP32 code of a signed place: places run through the values in order, 0 the zero,
which is delivered as +0 (DESIGN CHOICE, log 7). -/
def placeCode (i : Int) : Nat := fp32.signed (decide (i < 0)) i.natAbs

/-- The value of a place, as an integer times 2^-149. -/
def placeValue (i : Int) : Int :=
  match fp32.decode i.natAbs with
  | .fin _ m e => (if i < 0 then -1 else 1) * ((m : Int) * 2 ^ (e + 149).toNat)
  | _ => 0

/-- The places within `k` units of the last place of a positive real enclosed by `y` times 2^s: those within that of both
ends, so of the real itself. -/
def placesWithin (k : Nat) (s : Int) (y : Iv) : List Int :=
  let top := s - 256 + y.lo.toNat.log2
  let ulp := (if top < -126 then -126 else top) - 23
  let near : Int := (fp32.roundFin false y.lo.toNat (s - 256) true).1
  let cand : List Int := (List.range 11).map fun i : Nat => near + (i : Int) - 5
  cand.filter fun i => decide (i.natAbs < fp32.infCode) &&
    decide (dyDiff (placeValue i, -149) (y.lo, s - 256) ≤ (k : Int) * 2 ^ (ulp - min (-149) (s - 256)).toNat) &&
    decide (dyDiff (y.hi, s - 256) (placeValue i, -149) ≤ (k : Int) * 2 ^ (ulp - min (-149) (s - 256)).toNat)

end Sys2Proof.Machine
end

