-- ==== Sys2Proof/Machine/Vfpu.lean ====
section
/-! DEFINITION. VFPU: floating-point elements within each lane (11, R202-R206). -/

namespace Sys2Proof.Machine

/-! ## Elements with flags (09, R184) -/

/-- A lane value of `n` elements with the flags they raise. -/
def elsF (w n : Nat) (f : Nat → Nat × W64) : W64 × W64 :=
  (packEls w n fun e => (f e).1, (List.range n).foldl (fun v e => v ||| (f e).2) 0)

/-- Lane values, with the flags of the lanes of a mask. -/
def lanesF (m : Mask) (f : Nat → W64 × W64) : Lanes × W64 :=
  (tab fun l => (f l).1, (lanesOf m).foldl (fun v l => v ||| (f l).2) 0)

/-- The lane `l` of source `k`. -/
def srcLane (vs : List Lanes) (k l : Nat) : W64 := lane (vs.getD k zeroLanes) l

/-- A word with two sources: elements of width `w` (R202). -/
def State.vf2 (s : State) (d a b : BitVec 7) (x y h k : BitVec 1) (w : Nat) (f : Nat → Nat → Nat × W64) : Res Resident :=
  s.vectorOnly (s.vfword d.toNat ⟨a.toNat, x == 1⟩ (h == 1) (some (⟨b.toNat, y == 1⟩, k == 1)) false fun vs =>
    lanesF s.exec' fun l => elsF w (64 / w) fun e => f (subEl (srcLane vs 0 l) e w) (subEl (srcLane vs 1 l) e w))

/-- A word that reads its destination too; a queue there traps with cause 0x03 (R202). -/
def State.vf3 (s : State) (d a b : BitVec 7) (x y h k : BitVec 1) (f : W64 → W64 → W64 → W64 × W64) : Res Resident :=
  s.vectorOnly (s.noQueue d.toNat (s.vfword d.toNat ⟨a.toNat, x == 1⟩ (h == 1) (some (⟨b.toNat, y == 1⟩, k == 1)) true fun vs =>
    lanesF s.exec' fun l => f (srcLane vs 0 l) (srcLane vs 1 l) (srcLane vs 2 l)))

/-- A word with one source: a lane to a lane. -/
def State.vf1 (s : State) (d a : BitVec 7) (x h : BitVec 1) (f : W64 → W64 × W64) : Res Resident :=
  s.vectorOnly (s.vfword d.toNat ⟨a.toNat, x == 1⟩ (h == 1) none false fun vs => lanesF s.exec' fun l => f (srcLane vs 0 l))

/-- An element result that is the exact result rounded once (R170). -/
def Fmt.bin (f : Fmt) (op : Num → Num → Num) (a b : Nat) : Nat × W64 := f.round (op (f.decode a) (f.decode b))

/-- c + a × b, or c − a × b, with one rounding (R203). -/
def Fmt.fma (f : Fmt) (minus : Bool) (a b c : W64) : W64 × W64 :=
  elsF f.width (64 / f.width) fun e =>
    let p := (f.decode (subEl a e f.width)).mul (f.decode (subEl b e f.width))
    f.round (sumNums [f.decode (subEl c e f.width), if minus then p.neg else p])

/-- c + a0 × b0 + a1 × b1 into FP32, one rounding (R205). -/
def Fmt.dot2 (f : Fmt) (a b c : W64) : W64 × W64 :=
  elsF 32 2 fun e =>
    let p := fun k => (f.decode (subEl a (2 * e + k) 16)).mul (f.decode (subEl b (2 * e + k) 16))
    fp32.round (sumNums [fp32.decode (subEl c e 32), p 0, p 1])

def addNum (a b : Num) : Num := sumNums [a, b]
def subNum (a b : Num) : Num := sumNums [a, b.neg]

/-- NV where an operand is a signalling NaN. -/
def sigFlag (a b : Num) : W64 := flagIf (a.isSig || b.isSig) fNV

/-- Minimum, maximum and comparisons raise only NV (R204). -/
def pick32 (f : Num → Num → Num) (a b : Nat) : Nat × W64 :=
  ((fp32.round (f (fp32.decode a) (fp32.decode b))).1, sigFlag (fp32.decode a) (fp32.decode b))

/-- A comparison: all ones or 0; `any`: NV for a quiet NaN too. -/
def cmp32 (any : Bool) (f : Num → Num → Bool) (a b : Nat) : Nat × W64 :=
  (allOnesIf 32 (f (fp32.decode a) (fp32.decode b)),
   if any then flagIf ((fp32.decode a).isNan || (fp32.decode b).isNan) fNV else sigFlag (fp32.decode a) (fp32.decode b))

/-! ## The arithmetic members (R203-R205) -/

def execFaddF32 (d a b : BitVec 7) (x y h k : BitVec 1) (s : State) : Host.Outcome State Fault Refusal :=
  s.runCur (s.vf2 d a b x y h k 32 (fp32.bin addNum))

def execFaddBf16 (d a b : BitVec 7) (x y h k : BitVec 1) (s : State) : Host.Outcome State Fault Refusal :=
  s.runCur (s.vf2 d a b x y h k 16 (bf16.bin addNum))

def execFaddF16 (d a b : BitVec 7) (x y h k : BitVec 1) (s : State) : Host.Outcome State Fault Refusal :=
  s.runCur (s.vf2 d a b x y h k 16 (fp16.bin addNum))

def execFaddF64 (d a b : BitVec 7) (x y h k : BitVec 1) (s : State) : Host.Outcome State Fault Refusal :=
  s.runCur (s.vf2 d a b x y h k 64 (fp64.bin addNum))

def execFmulF32 (d a b : BitVec 7) (x y h k : BitVec 1) (s : State) : Host.Outcome State Fault Refusal :=
  s.runCur (s.vf2 d a b x y h k 32 (fp32.bin Num.mul))

def execFmulBf16 (d a b : BitVec 7) (x y h k : BitVec 1) (s : State) : Host.Outcome State Fault Refusal :=
  s.runCur (s.vf2 d a b x y h k 16 (bf16.bin Num.mul))

def execFmulF16 (d a b : BitVec 7) (x y h k : BitVec 1) (s : State) : Host.Outcome State Fault Refusal :=
  s.runCur (s.vf2 d a b x y h k 16 (fp16.bin Num.mul))

def execFmulF64 (d a b : BitVec 7) (x y h k : BitVec 1) (s : State) : Host.Outcome State Fault Refusal :=
  s.runCur (s.vf2 d a b x y h k 64 (fp64.bin Num.mul))

def execFsubF32 (d a b : BitVec 7) (x y h k : BitVec 1) (s : State) : Host.Outcome State Fault Refusal :=
  s.runCur (s.vf2 d a b x y h k 32 (fp32.bin subNum))

def execFfmaF32 (d a b : BitVec 7) (x y h k : BitVec 1) (s : State) : Host.Outcome State Fault Refusal :=
  s.runCur (s.vf3 d a b x y h k (fp32.fma false))

def execFfmaBf16 (d a b : BitVec 7) (x y h k : BitVec 1) (s : State) : Host.Outcome State Fault Refusal :=
  s.runCur (s.vf3 d a b x y h k (bf16.fma false))

def execFfmaF16 (d a b : BitVec 7) (x y h k : BitVec 1) (s : State) : Host.Outcome State Fault Refusal :=
  s.runCur (s.vf3 d a b x y h k (fp16.fma false))

def execFfmaF64 (d a b : BitVec 7) (x y h k : BitVec 1) (s : State) : Host.Outcome State Fault Refusal :=
  s.runCur (s.vf3 d a b x y h k (fp64.fma false))

def execFfmsF32 (d a b : BitVec 7) (x y h k : BitVec 1) (s : State) : Host.Outcome State Fault Refusal :=
  s.runCur (s.vf3 d a b x y h k (fp32.fma true))

def execFminF32 (d a b : BitVec 7) (x y h k : BitVec 1) (s : State) : Host.Outcome State Fault Refusal :=
  s.runCur (s.vf2 d a b x y h k 32 (pick32 Num.min))

def execFmaxF32 (d a b : BitVec 7) (x y h k : BitVec 1) (s : State) : Host.Outcome State Fault Refusal :=
  s.runCur (s.vf2 d a b x y h k 32 (pick32 Num.max))

def execFceqF32 (d a b : BitVec 7) (x y h k : BitVec 1) (s : State) : Host.Outcome State Fault Refusal :=
  s.runCur (s.vf2 d a b x y h k 32 (cmp32 false Num.eq))

def execFcltF32 (d a b : BitVec 7) (x y h k : BitVec 1) (s : State) : Host.Outcome State Fault Refusal :=
  s.runCur (s.vf2 d a b x y h k 32 (cmp32 true Num.lt))

def execFcleF32 (d a b : BitVec 7) (x y h k : BitVec 1) (s : State) : Host.Outcome State Fault Refusal :=
  s.runCur (s.vf2 d a b x y h k 32 (cmp32 true fun a b => a.lt b || a.eq b))

def execFabsF32 (d a : BitVec 7) (x h : BitVec 1) (s : State) : Host.Outcome State Fault Refusal :=
  s.runCur (s.vf1 d a x h fun v => elsF 32 2 fun e => fp32.round (Num.abs (fp32.decode (subEl v e 32))))

def execFnegF32 (d a : BitVec 7) (x h : BitVec 1) (s : State) : Host.Outcome State Fault Refusal :=
  s.runCur (s.vf1 d a x h fun v => elsF 32 2 fun e => fp32.round (Num.neg (fp32.decode (subEl v e 32))))

def execFdot2Bf16 (d a b : BitVec 7) (x y h k : BitVec 1) (s : State) : Host.Outcome State Fault Refusal :=
  s.runCur (s.vf3 d a b x y h k bf16.dot2)

def execFdot2F16 (d a b : BitVec 7) (x y h k : BitVec 1) (s : State) : Host.Outcome State Fault Refusal :=
  s.runCur (s.vf3 d a b x y h k fp16.dot2)

/-! ## Conversions (R206) -/

/-- `n` elements of width `ws` at the low end of the source become `n` elements of width `wd`; zero above. -/
def convEls (ws wd n : Nat) (f : Nat → Nat × W64) (v : W64) : W64 × W64 := elsF wd n fun e => f (subEl v e ws)

def execFcvtF32Bf16 (d a : BitVec 7) (x h : BitVec 1) (s : State) : Host.Outcome State Fault Refusal :=
  s.runCur (s.vf1 d a x h (convEls 16 32 2 fun c => fp32.round (bf16.decode c)))

def execFcvtBf16F32 (d a : BitVec 7) (x h : BitVec 1) (s : State) : Host.Outcome State Fault Refusal :=
  s.runCur (s.vf1 d a x h (convEls 32 16 2 fun c => bf16.round (fp32.decode c)))

def execFcvtF32F16 (d a : BitVec 7) (x h : BitVec 1) (s : State) : Host.Outcome State Fault Refusal :=
  s.runCur (s.vf1 d a x h (convEls 16 32 2 fun c => fp32.round (fp16.decode c)))

def execFcvtF16F32 (d a : BitVec 7) (x h : BitVec 1) (s : State) : Host.Outcome State Fault Refusal :=
  s.runCur (s.vf1 d a x h (convEls 32 16 2 fun c => fp16.round (fp32.decode c)))

def execFcvtF32E4m3 (d a : BitVec 7) (x h : BitVec 1) (s : State) : Host.Outcome State Fault Refusal :=
  s.runCur (s.vf1 d a x h (convEls 8 32 2 fun c => fp32.round (Fmt8.e4m3.decode c)))

def execFcvtE4m3F32 (d a : BitVec 7) (x h : BitVec 1) (s : State) : Host.Outcome State Fault Refusal :=
  s.runCur (s.vf1 d a x h (convEls 32 8 2 fun c => Fmt8.e4m3.round (fp32.decode c)))

def execFcvtF32E5m2 (d a : BitVec 7) (x h : BitVec 1) (s : State) : Host.Outcome State Fault Refusal :=
  s.runCur (s.vf1 d a x h (convEls 8 32 2 fun c => fp32.round (Fmt8.e5m2.decode c)))

def execFcvtE5m2F32 (d a : BitVec 7) (x h : BitVec 1) (s : State) : Host.Outcome State Fault Refusal :=
  s.runCur (s.vf1 d a x h (convEls 32 8 2 fun c => Fmt8.e5m2.round (fp32.decode c)))

def execFcvtF32I32 (d a : BitVec 7) (x h : BitVec 1) (s : State) : Host.Outcome State Fault Refusal :=
  s.runCur (s.vf1 d a x h (convEls 32 32 2 fun c => fp32.round (numOfInt (sx 32 c))))

def execFcvtI32F32 (d a : BitVec 7) (x h : BitVec 1) (s : State) : Host.Outcome State Fault Refusal :=
  s.runCur (s.vf1 d a x h (convEls 32 32 2 fun c => (fp32.decode c).toInt32 true))

def execFcvtI32F32z (d a : BitVec 7) (x h : BitVec 1) (s : State) : Host.Outcome State Fault Refusal :=
  s.runCur (s.vf1 d a x h (convEls 32 32 2 fun c => (fp32.decode c).toInt32 false))

def execFcvtF64F32 (d a : BitVec 7) (x h : BitVec 1) (s : State) : Host.Outcome State Fault Refusal :=
  s.runCur (s.vf1 d a x h (convEls 32 64 1 fun c => fp64.round (fp32.decode c)))

def execFcvtF32F64 (d a : BitVec 7) (x h : BitVec 1) (s : State) : Host.Outcome State Fault Refusal :=
  s.runCur (s.vf1 d a x h (convEls 64 32 1 fun c => fp32.round (fp64.decode c)))

end Sys2Proof.Machine
end

