-- ==== Sys2Proof/Machine/Sfu.lean ====
section
/-! DEFINITION. SFU: FP32 special functions, exact where R215 lists the input, elsewhere any value within the bound of R214
(11, R213-R215). -/

namespace Sys2Proof.Machine

/-! ## Delivery (R214) -/

/-- A result within `k` units of a real whose magnitude `y` × 2^s encloses: which of the values within the bound is a free
value, one for each operation and operand (log 7); infinity where rounding gives one; NX always, UF below the normal
range. -/
def sfuNear (op key : Nat) (neg : Bool) (k : Nat) (s : Int) (y : Iv) : Nat × W64 :=
  if fp32.infCode ≤ (fp32.roundFin false y.lo.toNat (s - 256) true).1 then (fp32.signed neg fp32.infCode, fOF ||| fNX)
  else
    let l := placesWithin k s y
    let i := l.getD (Config.within op key % l.length) 0
    (placeCode (if neg then -i else i), fNX ||| flagIf (decide (i.natAbs < 2 ^ 23)) fUF)

/-- An exact result. -/
def exact32 (neg : Bool) (m : Nat) (e : Int) : Nat × W64 := (fp32.roundFin neg m e false)

def inf32 (neg : Bool) : Nat := fp32.signed neg fp32.infCode
def zero32 (neg : Bool) : Nat := fp32.signed neg 0
def one32 : Nat := 0x3F800000

/-- m is a power of two. -/
def isPow2 (m : Nat) : Bool := m == 2 ^ m.log2

/-- A finite operand scaled by 2^256. -/
def scaled (m : Nat) (e : Int) : Int := if e < -256 then 0 else (m : Int) * 2 ^ (e + 256).toNat

/-- A positive real next to 0. -/
def ivTiny : Iv := ⟨0, 1⟩

/-- Integer square root of a number of at most 2 × `k` bits. -/
def isqrt : Nat → Nat → Nat → Nat
  | 0, _, r => r
  | k + 1, n, r => isqrt k n (if (r + 2 ^ k) * (r + 2 ^ k) ≤ n then r + 2 ^ k else r)

/-- m × 2^e with an even exponent. -/
def evenExp (m : Nat) (e : Int) : Nat × Int := if e % 2 = 0 then (m, e) else (2 * m, e - 1)

/-- The special cases every member shares: a NaN gives the canonical one. -/
def sfuCases (f : Bool → Nat → Int → Nat × W64) (onInf : Bool → Nat × W64) (a : Nat) : Nat × W64 :=
  match fp32.decode a with
  | .nan g => (fp32.nanCode, flagIf g fNV)
  | .inf s => onInf s
  | .fin s m e => f s m e

def nanNV : Nat × W64 := (fp32.nanCode, fNV)

/-! ## The members -/

def srcpEl (a : Nat) : Nat × W64 := sfuCases
  (fun s m e =>
    if m = 0 then (inf32 s, fDZ)
    else if isPow2 m ∧ -149 ≤ -(e + m.log2) ∧ -(e + m.log2) ≤ 127 then exact32 s 1 (-(e + m.log2))
    else sfuNear 1 a s 1 (-e) (Iv.ofNat m).inv)
  (fun s => (zero32 s, 0)) a

/-- √m × 2^256, enclosed. -/
def sqrtIv (m : Nat) : Iv :=
  let r := isqrt 280 (m * 2 ^ 512) 0
  ⟨r, if r * r = m * 2 ^ 512 then r else r + 1⟩

def srsqrtEl (a : Nat) : Nat × W64 := sfuCases
  (fun s m e =>
    if m = 0 then (inf32 s, fDZ)
    else if s then nanNV
    else
      let (m', e') := evenExp m e
      if isPow2 m' ∧ m'.log2 % 2 = 0 then exact32 false 1 (-(e' + m'.log2) / 2)
      else sfuNear 2 a false 1 (-e' / 2) (sqrtIv m').inv)
  (fun s => if s then nanNV else (0, 0)) a

def ssqrtEl : Nat → Nat × W64 := sfuCases
  (fun s m e =>
    if m = 0 then (zero32 s, 0)
    else if s then nanNV
    else
      let (m', e') := evenExp m e
      let r := isqrt 60 (m' * 2 ^ 80) 0
      fp32.roundFin false r (e' / 2 - 40) (r * r != m' * 2 ^ 80))
  (fun s => if s then nanNV else (inf32 false, 0))

def sexp2El (a : Nat) : Nat × W64 := sfuCases
  (fun s m e =>
    let x := (if s then -1 else 1) * scaled m e
    let n := x / ivOne
    if m = 0 then (one32, 0)
    else if 128 * ivOne ≤ x then (inf32 false, fOF ||| fNX)
    else if x < -150 * ivOne then (0, fUF ||| fNX)
    else if x % ivOne = 0 ∧ -149 ≤ n then exact32 false 1 n
    else sfuNear 4 a false 2 n ((Iv.point (x % ivOne)).mul ivLn2).exp)
  (fun s => (if s then 0 else inf32 false, 0)) a

def slog2El (a : Nat) : Nat × W64 := sfuCases
  (fun s m e =>
    if m = 0 then (inf32 true, fDZ)
    else if s then nanNV
    else if isPow2 m then
      let k := e + m.log2
      exact32 (decide (k < 0)) k.natAbs 0
    else
      let y := (lnDy m e).mul ivLn2.inv
      if y.hi < 0 then sfuNear 5 a true 2 0 y.neg else sfuNear 5 a false 2 0 y)
  (fun s => if s then nanNV else (inf32 false, 0)) a

def sexpEl (a : Nat) : Nat × W64 := sfuCases
  (fun s m e =>
    let x := (if s then -1 else 1) * scaled m e
    if m = 0 then (one32, 0)
    else if 200 * ivOne ≤ x then (inf32 false, fOF ||| fNX)
    else if x < -1000 * ivOne then sfuNear 6 a false 2 0 ivTiny
    else
      let (k, y) := (Iv.point x).expScaled
      sfuNear 6 a false 2 k y)
  (fun s => (if s then 0 else inf32 false, 0)) a

/-- sin(π t) of a t, scaled, in [0, 4): its sign and magnitude. -/
def sinpiIv (x : Int) : Bool × Iv :=
  let x := x % (2 * ivOne)
  let neg := decide (ivOne < x)
  let t := if neg then x - ivOne else x
  let t := if ivOne < 2 * t then ivOne - t else t
  (neg, ((Iv.point t).mul ivPi).sin.below ivOne)

def ssinpiEl (a : Nat) : Nat × W64 := sfuCases
  (fun s m e =>
    let x := scaled m e
    if x % ivOne = 0 then (zero32 s, 0)
    else if x % ivOne = ivOne / 2 then (fp32.signed (s != (x / ivOne % 2 == 1)) one32, 0)
    else
      let (neg, y) := sinpiIv x
      sfuNear 7 (a % 2 ^ 31) (s != neg) 1 0 y)
  (fun _ => nanNV) a

def scospiEl (a : Nat) : Nat × W64 := sfuCases
  (fun _ m e =>
    let x := scaled m e
    if x % ivOne = 0 then (fp32.signed (x / ivOne % 2 == 1) one32, 0)
    else if x % ivOne = ivOne / 2 then (0, 0)
    else
      let (neg, y) := sinpiIv (x + ivOne / 2)
      sfuNear 8 (a % 2 ^ 31) neg 1 0 y)
  (fun _ => nanNV) a

def stanhEl (a : Nat) : Nat × W64 := sfuCases
  (fun s m e =>
    let x := scaled m e
    if m = 0 then (zero32 s, 0)
    else if 80 * ivOne ≤ x then sfuNear 9 a s 2 0 ⟨ivOne - 2, ivOne - 1⟩  -- next to 1
    else
      let u := (Iv.point (-2 * x)).exp
      sfuNear 9 a s 2 0 ((((Iv.point ivOne).sub u).mul (u.add (.point ivOne)).inv).below (min x ivOne)))
  (fun s => (fp32.signed s one32, 0)) a

def ssigmEl (a : Nat) : Nat × W64 := sfuCases
  (fun s m e =>
    let x := (if s then -1 else 1) * scaled m e
    if m = 0 then (0x3F000000, 0)
    else if x < -1000 * ivOne then sfuNear 10 a false 2 0 ivTiny
    else if s then
      let t := (Iv.point x).exp
      sfuNear 10 a false 2 0 (t.mul (t.add (.point ivOne)).inv)
    else
      let t := if 1000 * ivOne ≤ x then ivTiny else (Iv.point (-x)).exp
      sfuNear 10 a false 2 0 ((t.add (.point ivOne)).inv.below ivOne))
  (fun s => (if s then 0 else one32, 0)) a

/-! ## The words (R213) -/

/-- A member on the two FP32 elements of each executing lane. -/
def State.sfu (s : State) (d a : BitVec 7) (x h : BitVec 1) (f : Nat → Nat × W64) : Res Resident :=
  s.vf1 d a x h fun v => elsF 32 2 fun e => f (subEl v e 32)

def execSrcp (d a : BitVec 7) (x h : BitVec 1) (s : State) : Host.Outcome State Fault Refusal :=
  s.runCur (s.sfu d a x h srcpEl)

def execSrsqrt (d a : BitVec 7) (x h : BitVec 1) (s : State) : Host.Outcome State Fault Refusal :=
  s.runCur (s.sfu d a x h srsqrtEl)

def execSsqrt (d a : BitVec 7) (x h : BitVec 1) (s : State) : Host.Outcome State Fault Refusal :=
  s.runCur (s.sfu d a x h ssqrtEl)

def execSexp2 (d a : BitVec 7) (x h : BitVec 1) (s : State) : Host.Outcome State Fault Refusal :=
  s.runCur (s.sfu d a x h sexp2El)

def execSlog2 (d a : BitVec 7) (x h : BitVec 1) (s : State) : Host.Outcome State Fault Refusal :=
  s.runCur (s.sfu d a x h slog2El)

def execSexp (d a : BitVec 7) (x h : BitVec 1) (s : State) : Host.Outcome State Fault Refusal :=
  s.runCur (s.sfu d a x h sexpEl)

def execSsinpi (d a : BitVec 7) (x h : BitVec 1) (s : State) : Host.Outcome State Fault Refusal :=
  s.runCur (s.sfu d a x h ssinpiEl)

def execScospi (d a : BitVec 7) (x h : BitVec 1) (s : State) : Host.Outcome State Fault Refusal :=
  s.runCur (s.sfu d a x h scospiEl)

def execStanh (d a : BitVec 7) (x h : BitVec 1) (s : State) : Host.Outcome State Fault Refusal :=
  s.runCur (s.sfu d a x h stanhEl)

def execSsigm (d a : BitVec 7) (x h : BitVec 1) (s : State) : Host.Outcome State Fault Refusal :=
  s.runCur (s.sfu d a x h ssigmEl)

end Sys2Proof.Machine
end

