-- ==== Sys2Proof/Machine/Vsli.lean ====
section
/-! DEFINITION. Level-index arithmetic and VSLI (09, R180-R183; 12, R216-R226). -/

namespace Sys2Proof.Machine

def lUP : W64 := 1
def lDN : W64 := 2
def lSAT : W64 := 4
def lCVO : W64 := 8

/-! ## Codes (R180, R181) -/

/-- The two formats: fraction bits F, levels Λ, width. -/
structure SliFmt where
  f   : Nat
  top : Nat
  w   : Nat
  deriving DecidableEq, Repr

def sli32 : SliFmt := ⟨27, 8, 32⟩
def sli16 : SliFmt := ⟨12, 4, 16⟩

/-- A value: NaN, zero, or sign, reciprocation flag and ψ times 2^27. -/
inductive Sli where
  | nan
  | zero
  | num (s r : Bool) (p : Nat)
  deriving DecidableEq, Repr

/-- ψ = 1. -/
def psiOne : Nat := 2 ^ 27

def SliFmt.zeroCode (t : SliFmt) : Nat := 2 ^ (t.w - 2)
def SliFmt.nanCode (t : SliFmt) : Nat := 2 ^ (t.w - 1) + 2 ^ (t.w - 2)

def SliFmt.decode (t : SliFmt) (x : Nat) : Sli :=
  if x = t.nanCode then .nan
  else if x = t.zeroCode then .zero
  else .num (x / 2 ^ (t.w - 1) == 1) (x / 2 ^ (t.w - 2) % 2 == 1) (psiOne + x % 2 ^ (t.w - 2) * 2 ^ (27 - t.f))

/-- The code of sign, flag and ψ times 2^F. -/
def SliFmt.code (t : SliFmt) (s r : Bool) (q : Nat) : Nat :=
  (if s then 2 ^ (t.w - 1) else 0) + (if r then 2 ^ (t.w - 2) else 0) + (q - 2 ^ t.f)

/-- The largest magnitude. -/
def SliFmt.largest (t : SliFmt) (s : Bool) : Nat := t.code s false ((t.top + 1) * 2 ^ t.f - 1)

/-- The level of an operand; zero and NaN count as level 1 (R183). -/
def Sli.level : Sli → Nat
  | .num _ _ p => p / psiOne
  | _ => 1

/-! ## Towers -/

/-- φ(p) of a ψ times 2^27, none above e^200. -/
def phiAt : Nat → Nat → Option Iv
  | 0, p => some (.point (p * 2 ^ 229))
  | fuel + 1, p =>
    if p < psiOne then some (.point (p * 2 ^ 229))
    else
      match phiAt fuel (p - psiOne) with
      | none => none
      | some v => if 200 * ivOne ≤ v.lo then none else some v.exp

/-- φ of a ψ of at most 9. -/
def phi (p : Nat) : Option Iv := phiAt 9 p

/-- Ψ of a non-negative real (R182). -/
def psiIv : Nat → Iv → Iv
  | 0, y => y
  | fuel + 1, y =>
    if y.hi < ivOne then y
    else if ivOne ≤ y.lo then (Iv.point ivOne).add (psiIv fuel y.ln)
    else ⟨y.lo, ivOne + (lnDy y.hi.toNat (-256)).hi⟩

def psiOf (y : Iv) : Iv := psiIv 10 y

/-- A ψ as an interval. -/
def psiPoint (p : Nat) : Iv := .point (p * 2 ^ 229)

/-- ln(1 ± e^d) for d ≤ 0. -/
def lnOnePm (minus : Bool) (d : Iv) : Iv :=
  let w : Iv := if d.hi < -1000 * ivOne then ⟨0, 1⟩ else d.exp
  (if minus then (Iv.point ivOne).sub w else (Iv.point ivOne).add w).ln

/-- ln φ(q), none where φ(q) is 0 or its logarithm is out of range. -/
def lnPhi (q : Nat) : Option Iv :=
  if psiOne ≤ q then phi (q - psiOne) else if q = 0 then none else some (lnDy q (-27))

/-- Ψ(φ(p) ± φ(q)) for p ≥ q, p > q for a difference.  Where φ(p) is out of range the sum is taken on logarithms; where
those are out of range too the other term moves Ψ by less than 2^-63, and p is exact to every place that counts. -/
def towerSum (p q : Nat) (minus : Bool) : Iv :=
  match phi p, phi q with
  | some x, some y => psiOf (if minus then x.sub y else x.add y)
  | _, _ =>
    match phi (p - psiOne), lnPhi q with
    | some u, some v => (Iv.point ivOne).add (psiOf (u.add (lnOnePm minus (v.sub u))))
    | _, _ => psiPoint p

/-! ## Rounding (R182) -/

/-- A magnitude with flag `r` whose ψ an interval encloses, rounded in ψ to nearest even: the exact decision of R225, an
enclosure about a midpoint being that of a tie (log 7). -/
def SliFmt.round (t : SliFmt) (s r : Bool) (p : Iv) : Nat × W64 :=
  let a := (roundAt p.lo.toNat (256 - t.f) false).1
  let b := (roundAt p.hi.toNat (256 - t.f) false).1
  let q := if a = b ∨ a % 2 = 0 then a else b
  if (t.top + 1) * 2 ^ t.f ≤ q then (t.code s r ((t.top + 1) * 2 ^ t.f - 1), lSAT)
  else (t.code s (r && q != 2 ^ t.f) q, 0)

/-- A value whose magnitude has the natural logarithm enclosed by `l`. -/
def SliFmt.ofLog (t : SliFmt) (s : Bool) (l : Iv) : Nat × W64 :=
  let one := Iv.point ivOne
  if 0 ≤ l.lo then t.round s false (one.add (psiOf l))
  else if l.hi ≤ 0 then t.round s true (one.add (psiOf l.neg))
  else t.round s false one

/-- A code of the format from an exact value. -/
def SliFmt.exact (t : SliFmt) (s r : Bool) (p : Nat) : Nat × W64 := t.round s r (psiPoint p)

/-! ## Magnitudes -/

/-- The magnitude (r, p) is below (r', p'). -/
def magLt (a b : Bool × Nat) : Bool :=
  if a.1 != b.1 then a.1 && !(a.2 == psiOne && b.2 == psiOne) else if a.1 then decide (b.2 < a.2) else decide (a.2 < b.2)

/-- ±φ(p − 1), the logarithm of a magnitude, where it is in range. -/
def logOf (r : Bool) (p : Nat) : Option Iv := (phi (p - psiOne)).map fun v => if r then v.neg else v

/-- The sum or difference of two magnitudes, the first not below the second (and above it for a difference). -/
def SliFmt.addMag (t : SliFmt) (s : Bool) (a b : Bool × Nat) (minus : Bool) : Nat × W64 :=
  match logOf a.1 a.2, logOf b.1 b.2 with
  | some u, some v => t.ofLog s (u.add (lnOnePm minus (v.sub u)))
  | _, _ => t.exact s a.1 a.2

/-- The product of two magnitudes: logarithms add (R218). -/
def SliFmt.mulMag (t : SliFmt) (s : Bool) (a b : Bool × Nat) : Nat × W64 :=
  let pa := a.2 - psiOne
  let pb := b.2 - psiOne
  let hi := if pa < pb then b else a
  let one := Iv.point ivOne
  if a.1 = b.1 then t.round s a.1 (one.add (towerSum (if pa < pb then pb else pa) (if pa < pb then pa else pb) false))
  else if pa = pb then t.exact s false psiOne
  else t.round s hi.1 (one.add (towerSum (if pa < pb then pb else pa) (if pa < pb then pa else pb) true))

/-! ## The arithmetic members (R218, R219) -/

def SliFmt.add (t : SliFmt) (a b : Nat) : Nat × W64 :=
  match t.decode a, t.decode b with
  | .nan, _ => (t.nanCode, 0)
  | _, .nan => (t.nanCode, 0)
  | .zero, _ => (b, 0)
  | _, .zero => (a, 0)
  | .num s r p, .num s' r' p' =>
    if s = s' then
      if magLt (r, p) (r', p') then t.addMag s (r', p') (r, p) false else t.addMag s (r, p) (r', p') false
    else if magLt (r, p) (r', p') then t.addMag s' (r', p') (r, p) true
    else if magLt (r', p') (r, p) then t.addMag s (r, p) (r', p') true
    else (t.zeroCode, 0)

/-- −a: exact; NaN and zero keep their codes. -/
def SliFmt.neg (t : SliFmt) (a : Nat) : Nat :=
  if a = t.nanCode ∨ a = t.zeroCode then a else (a + 2 ^ (t.w - 1)) % 2 ^ t.w

def SliFmt.mul (t : SliFmt) (a b : Nat) : Nat × W64 :=
  match t.decode a, t.decode b with
  | .nan, _ => (t.nanCode, 0)
  | _, .nan => (t.nanCode, 0)
  | .zero, _ => (t.zeroCode, 0)
  | _, .zero => (t.zeroCode, 0)
  | .num s r p, .num s' r' p' => t.mulMag (s != s') (r, p) (r', p')

def SliFmt.div (t : SliFmt) (a b : Nat) : Nat × W64 :=
  match t.decode a, t.decode b with
  | .nan, _ => (t.nanCode, 0)
  | _, .nan => (t.nanCode, 0)
  | .zero, .zero => (t.nanCode, 0)
  | .num s _ _, .zero => (t.largest s, lSAT)
  | .zero, _ => (t.zeroCode, 0)
  | .num s r p, .num s' r' p' => t.mulMag (s != s') (r, p) (!r', p')

/-- Half a logarithm. -/
def Iv.half (a : Iv) : Iv := ⟨a.lo / 2, ceilDiv a.hi 2⟩

def SliFmt.sqrt (t : SliFmt) (a : Nat) : Nat × W64 :=
  match t.decode a with
  | .nan => (t.nanCode, 0)
  | .zero => (t.zeroCode, 0)
  | .num s r p =>
    let one := Iv.point ivOne
    if s then (t.nanCode, 0)
    else
      match phi (p - psiOne) with
      | some v => t.round false r (one.add (psiOf v.half))
      | none =>
        match phi (p - 2 * psiOne) with
        | some u => t.round false r (one.add (one.add (psiOf (u.sub ivLn2))))
        | none => t.exact false r p

def SliFmt.rcp (t : SliFmt) (a : Nat) : Nat × W64 :=
  match t.decode a with
  | .nan => (t.nanCode, 0)
  | .zero => (t.largest false, lSAT)
  | .num s r p => if !r && p == psiOne then (a, 0) else t.exact s (!r) p

def SliFmt.abs (t : SliFmt) (a : Nat) : Nat := if a = t.nanCode ∨ a = t.zeroCode then a else a % 2 ^ (t.w - 1)

def SliFmt.exp (t : SliFmt) (a : Nat) : Nat × W64 :=
  match t.decode a with
  | .nan => (t.nanCode, 0)
  | .zero => (0, 0)
  | .num s r p =>
    if r then
      let y : Iv := match phi p with
        | some v => v.inv
        | none => ⟨0, 2 ^ 194⟩
      t.ofLog false (if s then y.neg else y)
    else t.exact false s (p + psiOne)

def SliFmt.log (t : SliFmt) (a : Nat) : Nat × W64 :=
  match t.decode a with
  | .nan => (t.nanCode, 0)
  | .zero => (t.largest true, lSAT)
  | .num s r p =>
    if s then (t.nanCode, 0)
    else if 2 * psiOne ≤ p then t.exact r false (p - psiOne)
    else if p = psiOne then (t.zeroCode, 0)
    else t.ofLog r (lnDy (p - psiOne) (-27))

/-! ## Order (R220) -/

/-- a < b by value; false with a NaN. -/
def SliFmt.lt (t : SliFmt) (a b : Nat) : Bool :=
  match t.decode a, t.decode b with
  | .nan, _ => false
  | _, .nan => false
  | .zero, .zero => false
  | .zero, .num s _ _ => !s
  | .num s _ _, .zero => s
  | .num s r p, .num s' r' p' =>
    if s != s' then s else if s then magLt (r', p') (r, p) else magLt (r, p) (r', p')

def SliFmt.min (t : SliFmt) (a b : Nat) : Nat :=
  if a = t.nanCode then b else if b = t.nanCode then a else if t.lt b a then b else a

def SliFmt.max (t : SliFmt) (a b : Nat) : Nat :=
  if a = t.nanCode then b else if b = t.nanCode then a else if t.lt a b then b else a

def SliFmt.ceq (t : SliFmt) (a b : Nat) : Bool := a != t.nanCode && b != t.nanCode && a == b

/-- sllvl (R221). -/
def SliFmt.lvl (t : SliFmt) (a : Nat) : Nat :=
  (if a = t.nanCode then 128 else 0) + (if a = t.zeroCode then 64 else 0) + a / 2 ^ (t.w - 1) * 32
    + a / 2 ^ (t.w - 2) % 2 * 16 + (a % 2 ^ (t.w - 2) / 2 ^ t.f + 1)

/-! ## Level flags (R183, R223) -/

/-- LUP and LDN of a result against the larger and smaller operand level. -/
def SliFmt.levelFlags (t : SliFmt) (hi lo : Nat) (r : Nat × W64) : Nat × W64 :=
  match t.decode r.1 with
  | .num _ _ p => (r.1, r.2 ||| flagIf (decide (hi < p / psiOne)) lUP ||| flagIf (decide (p / psiOne < lo)) lDN)
  | _ => r

def SliFmt.flagged2 (t : SliFmt) (f : Nat → Nat → Nat × W64) (a b : Nat) : Nat × W64 :=
  let x := (t.decode a).level
  let y := (t.decode b).level
  t.levelFlags (if x < y then y else x) (if x < y then x else y) (f a b)

def SliFmt.flagged1 (t : SliFmt) (f : Nat → Nat × W64) (a : Nat) : Nat × W64 :=
  t.levelFlags (t.decode a).level (t.decode a).level (f a)

/-! ## Conversions (R222) -/

/-- An IEEE value into SLI32: NV in the second part, SAT in the third. -/
def sliOfNum (x : Num) : Nat × W64 × W64 :=
  match x with
  | .nan g => (sli32.nanCode, flagIf g fNV, 0)
  | .inf s => (sli32.largest s, 0, lSAT)
  | .fin s m e => if m = 0 then (sli32.zeroCode, 0, 0) else
    let r := sli32.ofLog s (lnDy m e)
    (r.1, 0, r.2)

/-- e^l rounded to an IEEE format from its enclosure; one about a midpoint is that of a tie (R225; log 7). -/
def Fmt.ofExp (f : Fmt) (s : Bool) (l : Iv) : Nat × W64 :=
  let (k, y) := l.expScaled
  let a := f.roundFin s y.lo.toNat (k - 256) true
  let b := f.roundFin s y.hi.toNat (k - 256) true
  if a.1 = b.1 ∨ a.1 % 2 = 0 then a else b

/-- An SLI32 code into an IEEE format: fflg bits, then CVO. -/
def numOfSli (f : Fmt) (x : Nat) : Nat × W64 × W64 :=
  match sli32.decode x with
  | .nan => (f.nanCode, 0, 0)
  | .zero => (0, 0, 0)
  | .num s r p =>
    if p = psiOne then (f.signed s (f.roundFin false 1 0 false).1, 0, 0)
    else
      let big := match phi (p - psiOne) with
        | some v => decide (2000 * ivOne ≤ v.lo)
        | none => true
      let r' := if big then
          if r then (f.signed s 0, fUF ||| fNX) else (f.signed s f.infCode, fOF ||| fNX)
        else f.ofExp s ((logOf r p).getD (.point 0))
      (r'.1, r'.2, flagIf (r'.1 % 2 ^ (f.eb + f.fb) == f.infCode) lCVO)

/-! ## The words -/

/-- A VSLI word whose element results carry slflg bits. -/
def State.vsliWord (s : State) (d : Nat) (srcs : List Src) (f : List Lanes → Nat → W64 × W64 × W64) : Res Resident :=
  (s.sources srcs (some d)).bind fun (vs, g) =>
    let fl := (lanesOf s.exec').foldl (fun (t : W64 × W64) l => (t.1 ||| (f vs l).2.1, t.2 ||| (f vs l).2.2)) (0, 0)
    (s.writeName g d s.exec' (tab fun l => (f vs l).1)).bind fun g =>
      .ok { s.cur with g := { g with fflg := g.fflg ||| fl.1, slflg := g.slflg ||| fl.2 } }

/-- The format a W names: 10 or 01; other values trap (02, R31). -/
def State.sliWidth (s : State) (w : BitVec 2) (k : SliFmt → Res α) : Res α :=
  if w = 2 then k sli32 else if w = 1 then k sli16 else .trap 0x02 s.exec' s.wordAux

/-- A lane of element results with slflg bits. -/
def sliLane (t : SliFmt) (f : Nat → Nat × W64) : W64 × W64 × W64 :=
  let r := elsF t.w (64 / t.w) f
  (r.1, 0, r.2)

def State.sl2 (s : State) (d a b : BitVec 7) (x y : BitVec 1) (w : BitVec 2) (f : SliFmt → Nat → Nat → Nat × W64) : Res Resident :=
  s.vectorOnly (s.sliWidth w fun t => s.vsliWord d.toNat [⟨a.toNat, x == 1⟩, ⟨b.toNat, y == 1⟩] fun vs l =>
    sliLane t fun e => f t (subEl (srcLane vs 0 l) e t.w) (subEl (srcLane vs 1 l) e t.w))

def State.sl1 (s : State) (d a : BitVec 7) (x : BitVec 1) (w : BitVec 2) (f : SliFmt → Nat → Nat × W64) : Res Resident :=
  s.vectorOnly (s.sliWidth w fun t => s.vsliWord d.toNat [⟨a.toNat, x == 1⟩] fun vs l =>
    sliLane t fun e => f t (subEl (srcLane vs 0 l) e t.w))

/-- A conversion of `n` elements of width `ws` to width `wd`. -/
def State.slcvt (s : State) (d a : BitVec 7) (x : BitVec 1) (ws wd n : Nat) (f : Nat → Nat × W64 × W64) : Res Resident :=
  s.vectorOnly (s.vsliWord d.toNat [⟨a.toNat, x == 1⟩] fun vs l =>
    let g := fun e => f (subEl (srcLane vs 0 l) e ws)
    (packEls wd n fun e => (g e).1,
     (List.range n).foldl (fun v e => v ||| (g e).2.1) 0, (List.range n).foldl (fun v e => v ||| (g e).2.2) 0))

def execSladd (d a b : BitVec 7) (x y : BitVec 1) (w : BitVec 2) (s : State) : Host.Outcome State Fault Refusal :=
  s.runCur (s.sl2 d a b x y w fun t => t.flagged2 t.add)

def execSlsub (d a b : BitVec 7) (x y : BitVec 1) (w : BitVec 2) (s : State) : Host.Outcome State Fault Refusal :=
  s.runCur (s.sl2 d a b x y w fun t => t.flagged2 fun a b => t.add a (t.neg b))

def execSlmul (d a b : BitVec 7) (x y : BitVec 1) (w : BitVec 2) (s : State) : Host.Outcome State Fault Refusal :=
  s.runCur (s.sl2 d a b x y w fun t => t.flagged2 t.mul)

def execSldiv (d a b : BitVec 7) (x y : BitVec 1) (w : BitVec 2) (s : State) : Host.Outcome State Fault Refusal :=
  s.runCur (s.sl2 d a b x y w fun t => t.flagged2 t.div)

def execSlrcp (d a : BitVec 7) (x : BitVec 1) (w : BitVec 2) (s : State) : Host.Outcome State Fault Refusal :=
  s.runCur (s.sl1 d a x w fun t => t.rcp)

def execSlneg (d a : BitVec 7) (x : BitVec 1) (w : BitVec 2) (s : State) : Host.Outcome State Fault Refusal :=
  s.runCur (s.sl1 d a x w fun t a => (t.neg a, 0))

def execSlabs (d a : BitVec 7) (x : BitVec 1) (w : BitVec 2) (s : State) : Host.Outcome State Fault Refusal :=
  s.runCur (s.sl1 d a x w fun t a => (t.abs a, 0))

def execSlexp (d a : BitVec 7) (x : BitVec 1) (w : BitVec 2) (s : State) : Host.Outcome State Fault Refusal :=
  s.runCur (s.sl1 d a x w fun t => t.flagged1 t.exp)

def execSllog (d a : BitVec 7) (x : BitVec 1) (w : BitVec 2) (s : State) : Host.Outcome State Fault Refusal :=
  s.runCur (s.sl1 d a x w fun t => t.flagged1 t.log)

def execSlmin (d a b : BitVec 7) (x y : BitVec 1) (w : BitVec 2) (s : State) : Host.Outcome State Fault Refusal :=
  s.runCur (s.sl2 d a b x y w fun t a b => (t.min a b, 0))

def execSlmax (d a b : BitVec 7) (x y : BitVec 1) (w : BitVec 2) (s : State) : Host.Outcome State Fault Refusal :=
  s.runCur (s.sl2 d a b x y w fun t a b => (t.max a b, 0))

def execSlceq (d a b : BitVec 7) (x y : BitVec 1) (w : BitVec 2) (s : State) : Host.Outcome State Fault Refusal :=
  s.runCur (s.sl2 d a b x y w fun t a b => (allOnesIf t.w (t.ceq a b), 0))

def execSlclt (d a b : BitVec 7) (x y : BitVec 1) (w : BitVec 2) (s : State) : Host.Outcome State Fault Refusal :=
  s.runCur (s.sl2 d a b x y w fun t a b => (allOnesIf t.w (t.lt a b), 0))

def execSlsqrt (d a : BitVec 7) (x : BitVec 1) (w : BitVec 2) (s : State) : Host.Outcome State Fault Refusal :=
  s.runCur (s.sl1 d a x w fun t => t.flagged1 t.sqrt)

def execSllvl (d a : BitVec 7) (x : BitVec 1) (w : BitVec 2) (s : State) : Host.Outcome State Fault Refusal :=
  s.runCur (s.sl1 d a x w fun t a => (t.lvl a, 0))

def execSlcvtSlF32 (d a : BitVec 7) (x : BitVec 1) (s : State) : Host.Outcome State Fault Refusal :=
  s.runCur (s.slcvt d a x 32 32 2 fun c => sliOfNum (fp32.decode c))

def execSlcvtF32Sl (d a : BitVec 7) (x : BitVec 1) (s : State) : Host.Outcome State Fault Refusal :=
  s.runCur (s.slcvt d a x 32 32 2 (numOfSli fp32))

def execSlcvtSlF64 (d a : BitVec 7) (x : BitVec 1) (s : State) : Host.Outcome State Fault Refusal :=
  s.runCur (s.slcvt d a x 64 32 1 fun c => sliOfNum (fp64.decode c))

def execSlcvtF64Sl (d a : BitVec 7) (x : BitVec 1) (s : State) : Host.Outcome State Fault Refusal :=
  s.runCur (s.slcvt d a x 32 64 1 (numOfSli fp64))

/-- An SLI value in the other format; SLI32 into SLI16 rounds, the other way is exact (R222). -/
def SliFmt.ofSli (t : SliFmt) : Sli → Nat × W64 × W64
  | .nan => (t.nanCode, 0, 0)
  | .zero => (t.zeroCode, 0, 0)
  | .num s r p => ((t.exact s r p).1, 0, (t.exact s r p).2)

def execSlcvtSl16Sl32 (d a : BitVec 7) (x : BitVec 1) (s : State) : Host.Outcome State Fault Refusal :=
  s.runCur (s.slcvt d a x 32 16 2 fun c => sli16.ofSli (sli32.decode c))

def execSlcvtSl32Sl16 (d a : BitVec 7) (x : BitVec 1) (s : State) : Host.Outcome State Fault Refusal :=
  s.runCur (s.slcvt d a x 16 32 2 fun c => sli32.ofSli (sli16.decode c))

end Sys2Proof.Machine
end

