-- ==== Sys2Proof/Machine/Epilogue.lean ====
section
/-! DEFINITION. Values of the matrix formats, E2M1 blocks, the parameter block and the element steps of the epilogue
(09, R176-R178; 13, R243-R245). -/

namespace Sys2Proof.Machine

/-! ## E2M1 (09, R176, R177) -/

/-- Four times the magnitude of a code. -/
def e2m1Quarters (c : Nat) : Nat := [0, 3, 4, 6, 8, 12, 16, 24].getD (c % 8) 0

/-- The value of a code with a block's SPECIAL. -/
def e2m1Code (special c : Nat) : Num :=
  if c = 8 then Fmt8.e4m3.decode special else .fin (decide (8 < c)) (e2m1Quarters c) (-2)

/-- The value of an element under its block's metadata half. -/
def e2m1Num (half c : Nat) : Num :=
  if half % 256 = 255 then .nan false
  else
    match e2m1Code (half / 256) c with
    | .fin s m e => .fin s m (e + (half % 256 : Nat) - 127)
    | x => x

/-- floor(log2) of a positive finite magnitude. -/
def Num.log2 : Num → Int
  | .fin _ m e => e + m.log2
  | _ => 0

/-- A value times 2^k. -/
def Num.scale (x : Num) (k : Int) : Num :=
  match x with
  | .fin s m e => .fin s m (e + k)
  | x => x

/-- The distance of two finite values as a signed integer and exponent. -/
def Num.dist (a b : Num) : Int × Int :=
  ((dyDiff a.dy b.dy).natAbs, if a.dy.2 < b.dy.2 then a.dy.2 else b.dy.2)

/-- Code `a` is nearer to the value than `b`; at a tie bit 0 clear, then the smaller magnitude (R178). -/
def e2m1Better (special : Nat) (x : Num) (a b : Nat) : Bool :=
  let va := e2m1Code special a
  let vb := e2m1Code special b
  let d := dyDiff (va.dist x) (vb.dist x)
  if d ≠ 0 then decide (d < 0)
  else if a % 2 ≠ b % 2 then a % 2 == 0
  else va.abs.lt vb.abs

def e2m1Nearest (special : Nat) (x : Num) : Nat :=
  (List.range 16).foldl (fun b c => if e2m1Better special x c b then c else b) 0

/-- 32 FP32 values quantised to one block: codes, metadata half, flags; a block of NaN codes delivers every other value
changed (R178). -/
def quantise (xs : List Nat) : List Nat × Nat × W64 :=
  let v := xs.map fp32.decode
  let mags := xs.map (· % 2 ^ 31)
  let amax := mags.foldl Nat.max 0
  if fp32.infCode ≤ amax then (xs.map fun _ => 0, 0x7FFF, flagIf (v.any Num.isSig) fNV ||| flagIf (v.any (!·.isNan)) fNX)
  else if amax = 0 then (xs.map fun _ => 0, 0x307F, 0)
  else
    let l := (fp32.decode amax).log2 - 2
    let e : Int := if l < -127 then -127 else if 127 < l then 127 else l
    let neg : Bool := match xs.find? fun x => x % 2 ^ 31 == amax with
      | some x => decide (2 ^ 31 ≤ x)
      | none => false
    let top := (fp32.decode amax).scale (-e)
    let u := (Fmt8.e4m3.round (cond neg top.neg top)).1
    let special := if ((List.range 16).filter (· != 8)).any fun c => (e2m1Code 0 c).eq (Fmt8.e4m3.decode u) then 0x30 else u
    let codes := v.map fun x => e2m1Nearest special (x.scale (-e))
    let nx := (codes.zip v).any fun p => !((e2m1Code special p.1).scale e).eq p.2
    (codes, special * 256 + (e + 127).toNat, flagIf nx fNX)

/-! ## Elements of A and B (R227-R229) -/

/-- Bits of an element of a format code of R234. -/
def matWidth (f : Nat) : Nat := if f = 5 then 4 else if f = 1 ∨ f = 2 then 16 else 8

/-- K of a format. -/
def matK (f : Nat) : Nat := 512 / matWidth f

/-- An element's value; `half` is its block's metadata for E2M1. -/
def matNum (f half x : Nat) : Num :=
  if f = 1 then bf16.decode x
  else if f = 2 then fp16.decode x
  else if f = 3 then Fmt8.e4m3.decode x
  else if f = 4 then Fmt8.e5m2.decode x
  else e2m1Num half x

/-- The format word is legal (R234). -/
def mfmtOk (w : W64) : Bool :=
  let n := w.toNat
  let a := n % 16
  let b := n / 16 % 16
  let c := n / 256 % 16
  n / 2 ^ 16 == 0 && n / 2 ^ 14 % 2 == 0 && n / 2 ^ 12 % 4 == 0 && decide (c ≤ 1) && decide (1 ≤ a) && decide (a ≤ 6)
    && decide (1 ≤ b) && decide (b ≤ 6) && matWidth a == matWidth b && ((a == 6) == (b == 6)) && ((c == 1) == (a == 6))

def mfmtA (w : W64) : Nat := w.toNat % 16
def mfmtB (w : W64) : Nat := w.toNat / 16 % 16
def mfmtInt (w : W64) : Bool := w.toNat / 256 % 16 == 1
def mfmtRed (w : W64) : Bool := w.getLsbD 15

/-- Element k of row i of the captured A registers, `h` their height. -/
def aEl (a : List Lanes) (f i k : Nat) : Nat :=
  let w := matWidth f
  subEl (lane (a.getD (i / 4) zeroLanes) (8 * (i % 4) + k * w / 64)) (k % (64 / w)) w

/-- The metadata half of block `b` of row i. -/
def aHalf (a : List Lanes) (h i b : Nat) : Nat := subEl (lane (a.getD (h / 4 + i / 32) zeroLanes) (i % 32)) b 16

/-- Element (k, n) of a tile's bytes. -/
def bEl (b : List Byte) (f k n : Nat) : Nat :=
  let j := 128 * k + n
  let at' := fun i => (b.getD i 0).toNat
  if f = 5 then at' (j / 2) / 2 ^ (4 * (j % 2)) % 16
  else if matWidth f = 16 then at' (2 * j) + 256 * at' (2 * j + 1)
  else at' j

/-- The metadata half of block `blk` of column n. -/
def bHalf (b : List Byte) (blk n : Nat) : Nat :=
  let j := 8192 + 2 * (128 * blk + n)
  (b.getD j 0).toNat + 256 * (b.getD (j + 1) 0).toNat

/-! ## The parameter block (R243) -/

def epiNum (b : List Byte) (lo n : Nat) : Nat := leNat ((b.drop lo).take n)
def epiCtrl (b : List Byte) : Nat := epiNum b 8 8
def epiNowr (b : List Byte) : Bool := (epiCtrl b).testBit 18
def epiTb (b : List Byte) : Nat := epiCtrl b / 2 ^ 12 % 64
def epiTben (b : List Byte) : Bool := (epiCtrl b).testBit 11
def epiGate (b : List Byte) : Bool := (epiCtrl b).testBit 10
def epiDivl (b : List Byte) : Bool := (epiCtrl b).testBit 9
def epiDsp (b : List Byte) : Bool := (epiCtrl b).testBit 8
def epiBiasBf (b : List Byte) : Bool := (epiCtrl b).testBit 6
def epiOfmt (b : List Byte) : Nat := epiCtrl b / 8 % 8
def epiAct (b : List Byte) : Nat := epiCtrl b % 8
def epiScale (b : List Byte) : Nat := epiNum b 20 4
def epiBias (b : List Byte) : Nat := epiNum b 24 8
def epiStride (b : List Byte) : W64 := BitVec.ofNat 64 (epiNum b 32 8)

/-- The block holds no illegal value. -/
def epiOk (b : List Byte) : Bool :=
  (b.drop 40).all (· == 0) && epiNum b 16 4 == 0 && epiNum b 0 8 == 0 && epiCtrl b / 2 ^ 19 == 0
    && !(epiCtrl b).testBit 7 && decide (epiOfmt b ≤ 5) && decide (epiAct b ≤ 3)

/-- Bytes of a destination row. -/
def epiRowBytes (b : List Byte) : Nat := [512, 256, 256, 128, 128, 72].getD (epiOfmt b) 0

/-! ## Element steps (R244) -/

/-- x / value(l): exact quotient, rounded once. -/
def divL (x l : Nat) : Nat × W64 :=
  match fp32.decode x, sli32.decode l with
  | .nan g, _ => (fp32.nanCode, flagIf g fNV)
  | _, .nan => (fp32.nanCode, 0)
  | .inf s, .zero => (inf32 s, 0)
  | .fin s m _, .zero => if m = 0 then nanNV else (inf32 s, fDZ)
  | .inf s, .num t _ _ => (inf32 (s != t), 0)
  | .fin s m e, .num t r p =>
    if m = 0 then (zero32 (s != t), 0)
    else if p = psiOne then (fp32.signed (s != t) (x % 2 ^ 31), 0)
    else
      match logOf r p with
      | none => if r then (inf32 (s != t), fOF ||| fNX) else (zero32 (s != t), fUF ||| fNX)
      | some u =>
        let d := (lnDy m e).sub u
        if d.hi < -1000 * ivOne then (zero32 (s != t), fUF ||| fNX)
        else if 1000 * ivOne < d.lo then (inf32 (s != t), fOF ||| fNX)
        else fp32.ofExp (s != t) d

/-- |x| / (1 + e^(−z)) for a real z of x's sign, within 4 units, or 0 and ∞ by rounding. -/
def gateNear (op x : Nat) (s : Bool) (ax : Int) (z : Iv) : Nat × W64 :=
  if s then
    -- z < 0: |x| e^z / (1 + e^z)
    if z.hi < -1000 * ivOne then sfuNear op x s 4 0 ivTiny
    else
      let (k, y) := z.expScaled
      sfuNear op x s 4 k (((Iv.point ax).mul y).mul ((Iv.point ivOne).add z.exp).inv)
  else
    let t := if 1000 * ivOne < z.lo then ivTiny else z.neg.exp
    sfuNear op x s 4 0 ((Iv.point ax).mul ((Iv.point ivOne).add t).inv)

/-- √(2/π). -/
def ivSqrt2Pi : Iv :=
  let q := (Iv.ofNat 2).mul ivPi.inv
  ⟨(isqrt 280 (q.lo.toNat * 2 ^ 256) 0 : Nat), (isqrt 280 (q.hi.toNat * 2 ^ 256) 0 + 1 : Nat)⟩

/-- 2 √(2/π) (x + 0.044715 x³). -/
def geluArg (x : Int) : Iv :=
  let p := Iv.point x
  let cube := ((p.mul p).mul p).scale 44715
  (ivSqrt2Pi.mul (p.add ⟨cube.lo / 1000000, ceilDiv cube.hi 1000000⟩)).scale 2

/-- The activation: none, ReLU, GELU-tanh, SiLU. -/
def actEl (act x : Nat) : Nat × W64 :=
  match fp32.decode x with
  | .nan g => (fp32.nanCode, flagIf g fNV)
  | .inf s => (if act = 0 then x else if s then (if act = 1 then 0 else zero32 true) else inf32 false, 0)
  | .fin s m e =>
    if act = 0 then (x, 0)
    else if act = 1 then (if s then 0 else x, 0)
    else if m = 0 then (x, 0)
    else
      let ax := scaled m e
      let sx' : Int := if s then -ax else ax
      gateNear (10 + act) x s ax (if act = 2 then geluArg sx' else .point sx')

/-- An element up to its bound step: C, the row's l, the bias element; `int` for INT32 rows. -/
def epiEl (b : List Byte) (int : Bool) (c l : Nat) (bias : Option Nat) : Nat × W64 :=
  let (x, f) := if int then fp32.round (numOfInt (BitVec.ofNat 32 c).toInt) else (c, (0 : W64))
  let (x, f) := if epiDivl b then let r := divL x l; (r.1, f ||| r.2) else (x, f)
  let r := fp32.bin Num.mul x (epiScale b)
  let (x, f) := (r.1, f ||| r.2)
  let (x, f) := match bias with
    | some k => let r := fp32.bin addNum x k; (r.1, f ||| r.2)
    | none => (x, f)
  let r := actEl (epiAct b) x
  (r.1, f ||| r.2)

/-- A row converted to OFMT: offset, bytes and value of each store, with the flags. -/
def epiOut (b : List Byte) (xs : List Nat) : List (Nat × Nat × Nat) × W64 :=
  let conv := fun (n : Nat) (f : Nat → Nat × W64) =>
    (((List.range xs.length).zip xs).map fun p => (n * p.1, n, (f p.2).1), xs.foldl (fun v x => v ||| (f x).2) 0)
  let o := epiOfmt b
  if o = 0 then conv 4 fun x => fp32.round (fp32.decode x)
  else if o = 1 then conv 2 fun x => bf16.round (fp32.decode x)
  else if o = 2 then conv 2 fun x => fp16.round (fp32.decode x)
  else if o = 3 then conv 1 fun x => Fmt8.e4m3.round (fp32.decode x)
  else if o = 4 then conv 1 fun x => Fmt8.e5m2.round (fp32.decode x)
  else
    let bl := (List.range 4).map fun k => quantise ((xs.drop (32 * k)).take 32)
    let codes := (bl.map (·.1)).flatten
    ((List.range 64).map (fun i => (i, 1, codes.getD (2 * i) 0 + 16 * codes.getD (2 * i + 1) 0)) ++
      ((List.range 4).zip bl).map fun p => (64 + 2 * p.1, 2, p.2.2.1),
     bl.foldl (fun v r => v ||| r.2.2) 0)

end Sys2Proof.Machine
end

