-- ==== Sys2Proof/Machine/Matrix.lean ====
section
/-! DEFINITION. The MTX words and the matrix engine's step (13, R227-R246). -/

namespace Sys2Proof.Machine

/-! ## Shared checks (R228-R233, R239) -/

def State.issCore (s : State) : Core := s.core s.coreNo

def State.modIss (s : State) (f : Core → Core) : State := s.modCore s.coreNo f

/-- H of an H3 (02, R26). -/
def h3Rows (h : Nat) : Nat := 8 * 2 ^ h

/-- The rows lie in the store (R230). -/
def State.rowsOk (s : State) (row n : Nat) (r : Res α) : Res α :=
  if 1024 < row + n then .trap 0x03 s.exec' (BitVec.ofNat 64 (row + n - 1)) else r

/-- A legal count (R232). -/
def State.countOk (s : State) (v : W64) (row : Nat) (r : Res α) : Res α :=
  if v.toNat % 8 ≠ 0 ∨ v.toNat = 0 ∨ 1024 < row + v.toNat then .trap 0x03 s.exec' v else r

/-- The team owns every block of the rows; cause 0x0D with the first row of one it does not own (R239). -/
def State.ownsRows (s : State) (row n : Nat) (r : Res α) : Res α :=
  match (List.range (n / 8)).find? fun b => kvGet none s.issCore.owner (row / 8 + b) != some s.cur.g.team with
  | some b => .trap 0x0D s.exec' (BitVec.ofNat 64 (row + 8 * b))
  | none => r

/-- Two row ranges share a row. -/
def rowsMeet (a n b m : Nat) : Bool := decide (a < b + m) && decide (b < a + n)

def MatJob.names (j : MatJob) (row n : Nat) : Bool := rowsMeet j.row j.n row n || rowsMeet j.row2 j.n2 row n

/-- A matrix word in flight names a row of the range. -/
def Core.busyRows (c : Core) (row n : Nat) : Bool := c.mjobs.any fun j => j.names row n

/-- An operation is outstanding in some slice. -/
def State.opOut (s : State) (id : Nat) : Bool :=
  (s.cur :: s.others).any fun r => r.allOps.any fun o => o.id == id

/-- A drain of a row of the range is outstanding. -/
def State.draining (s : State) (core row n : Nat) : Bool :=
  (s.core core).drains.any fun d => rowsMeet d.2.1 d.2.2 row n && s.opOut d.1

/-- Block `b` is in use: a matrix word that names it is outstanding, or one has written it since it was last drained
(R239). -/
def State.blockUsed (s : State) (core b : Nat) : Bool :=
  (s.core core).busyRows (8 * b) 8 || s.draining core (8 * b) 8 || kvGet false (s.core core).inUse b

def Core.useRows (c : Core) (row n : Nat) (u : Bool) : Core :=
  { c with inUse := (List.range (n / 8)).foldl (fun k b => kvPut false k (row / 8 + b) u) c.inUse }

/-- Drain `op` of rows issues: what they hold from now on is written after it. -/
def State.drainRows (s : State) (row n op : Nat) : State :=
  let out := s.opOut
  s.modIss fun c => { c.useRows row n false with drains := (c.drains.filter fun d => out d.1) ++ [(op, row, n)] }

def Core.row (c : Core) (r : Nat) : Row := kvGet Row.cleared c.rows r

def Core.modRow (c : Core) (r : Nat) (f : Row → Row) : Core := { c with rows := kvPut Row.cleared c.rows r (f (c.row r)) }

/-- Rows cleared with their side pairs and status. -/
def Core.clearRows (c : Core) (row n : Nat) : Core :=
  { c with rows := c.rows.filter fun r => !(decide (row ≤ r.1) && decide (r.1 < row + n)) }

/-- Blocks freed and cleared. -/
def Core.freeRows (c : Core) (row n : Nat) : Core :=
  let c := (c.clearRows row n).useRows row n false
  { c with owner := (List.range (n / 8)).foldl (fun k b => kvPut none k (row / 8 + b) none) c.owner }

/-- fflg bits as status bits NV, OF, UF, NX, and back (R230). -/
def stOf (f : W64) : BitVec 4 :=
  (if f &&& fNV ≠ 0 then 1 else 0) ||| (if f &&& fOF ≠ 0 then 2 else 0) ||| (if f &&& fUF ≠ 0 then 4 else 0)
    ||| (if f &&& fNX ≠ 0 then 8 else 0)

def stFlags (s : BitVec 4) : W64 :=
  flagIf (s.getLsbD 0) fNV ||| flagIf (s.getLsbD 1) fOF ||| flagIf (s.getLsbD 2) fUF ||| flagIf (s.getLsbD 3) fNX

/-- The vector names d to d + k − 1 taken at issue for a result that comes at completion. -/
def State.takeNames (s : State) (d : Nat) : Nat → Group → Res Group
  | 0, g => .ok g
  | k + 1, g => (s.writeName g d 0 zeroLanes).bind fun g => s.takeNames (d + 1) k g

/-- The first of the names d to d + k − 1, as they take registers in order, for which the group may hold none more (08,
R150), whether or not a register is to be had for those before it. -/
def Group.fullName (d : Nat) : Nat → Group → Option Nat
  | 0, _ => none
  | k + 1, g =>
    if g.full d then some d
    else
      let t : VName := match g.name d with
        | .unmapped => .mapped zeroLanes
        | x => x
      Group.fullName (d + 1) k ((g.setName d t).touch d)

/-- The allocation's cause 0x03 comes before the causes of the word's entry (02, R37; R233). -/
def State.takeFirst (s : State) (d k : Nat) (r : Res α) : Res α :=
  match Group.fullName d k s.cur.g with
  | some n => .trap 0x03 s.exec' (BitVec.ofNat 64 n)
  | none => r

/-- Names that none is a queue, at most v127 (R231, R241, R242, R246). -/
def State.namesOk (s : State) (d k : Nat) (r : Res α) : Res α :=
  if 127 < d then .trap 0x03 s.exec' (BitVec.ofNat 64 d) else s.spanOk d k r

/-- A matrix word enters the engine: its operation counts on SETA and its job joins the core's. -/
def State.enqueue (s : State) (g : Group) (d n : Nat) (j : MatJob) : State :=
  let id := s.nextId
  let s := (s.setG fun _ => g).issue (.matrix d n) s.setaFlag []
  s.modIss fun c => { c with mjobs := c.mjobs ++ [{ j with id := id, grp := g.id, team := g.team }] }

def MatJob.start (op : MatOp) (row n : Nat) (fmt : W64) : MatJob :=
  { id := 0, op := op, row := row, n := n, row2 := 0, n2 := 0, d := 0, a := [], tile := 0, b := [], mid := [], fmt := fmt,
    scale := 0, grp := 0, team := 0 }

/-! ## mma, mmaz (R228-R238) -/

/-- The first byte of the B tile, or the cause (R229). -/
def State.tileOf (s : State) (x : W64) (lines : Nat) (k : Nat → Res State) : Res State :=
  let n := x.toNat
  let own := match s.team? with
    | some t => (t.cidx, t.scrl)
    | none => (0, 0)
  if n % 1024 ≠ 0 then .trap 0x09 s.exec' x
  else if n / 2 ^ 24 ≠ 0 ∨ (n / 2 ^ 20 % 16 ≠ 15 ∧ n / 2 ^ 20 % 16 ≠ own.1) ∨ own.2 < n / 2 ^ 10 % 1024 + lines then
    .trap 0x15 s.exec' x
  else k (n / 2 ^ 10 % 1024 * 2048)

/-- The latch after a word with the A operand `l`, taken from it where group, name, height and format match, else from the
registers, to the same effect: a write of a name that the latch covers has released it (R236).  Where a last-read bit has
freed a name that the latch covers, the word has read the name as zero (DESIGN CHOICE, log 104: the tag still matches, and RU
may change no result). -/
def State.latchA (s : State) (l : ALatch) (ru : Bool) : State :=
  if s.issCore.alatch = some s.cur.g.id ∧ s.cur.g.alatch = some l then if ru then s else s.setG fun g => { g with alatch := none }
  else if ru then (s.modIss fun c => { c with alatch := some s.cur.g.id }).setG fun g => { g with alatch := some l } else s

/-- Names of the A operand and of its metadata. -/
def aNames (fmt : W64) (h : Nat) : Nat := h / 4 + (if mfmtA fmt = 5 then (if h < 32 then 1 else h / 32) else 0)

def State.mma (s : State) (va bt acc : BitVec 7) (h : BitVec 3) (ru : BitVec 1) (zero : Bool) : Res State :=
  let fmt := s.cur.g.mfmt
  let n := h3Rows h.toNat
  let row := 8 * acc.toNat
  let k := aNames fmt n
  s.vectorOnly (
    if !h3Ok h then .trap 0x02 s.exec' s.wordAux
    else s.spanOk va.toNat k (s.rowsOk row n (s.tileOf (s.rd bt.toNat) (if mfmtA fmt = 5 then 5 else 4) fun tile =>
      if fmt = 0 then .trap 0x06 s.exec' 0
      else s.ownsRows row n (s.flagged s.setaFlag (
        let a := (List.range k).map fun i => s.cur.g.val (va.toNat + i)
        let b := match s.team? with
          | some t => readBytes t.mem tile (if mfmtA fmt = 5 then 9216 else 8192)
          | none => []
        let s' := s.enqueue s.cur.g 0 0 { MatJob.start (.mma zero) row n fmt with a := a, tile := tile, b := b }
        .ok (s'.latchA ⟨va.toNat, n, fmt, a⟩ (ru == 1)))))))

/-- A redundant word holds its group until its comparisons are done (R238). -/
def State.matOutcome (s : State) (r : Res State) : Host.Outcome State Fault Refusal :=
  match s.cur.sl.wait with
  | some (.matrix _) => .next s
  | _ =>
    match r with
    | .ok t => if mfmtRed s.cur.g.mfmt then .next (t.setWait none (.matrix s.nextId)) else .next t.advance
    | .trap c m a => .next (s.trap c m a)
    | .denied c m a n => .next (s.trap c m a n)
    | .stall => .next s

def execMma (a b c : BitVec 7) (h : BitVec 3) (u : BitVec 1) (s : State) : Host.Outcome State Fault Refusal :=
  s.matOutcome (s.mma a b c h u false)

def execMmaz (a b c : BitVec 7) (h : BitVec 3) (u : BitVec 1) (s : State) : Host.Outcome State Fault Refusal :=
  s.matOutcome (s.mma a b c h u true)

/-! ## mset, mpar (R234, R243) -/

def execMset (a : BitVec 7) (s : State) : Host.Outcome State Fault Refusal :=
  s.run (s.vectorOnly (s.flagged s.setaFlag ((s.sources [⟨a.toNat, false⟩] none).bind fun (vs, g) =>
    let x := lane (vs.getD 0 zeroLanes)
    let w := x ((lanesOf s.exec').headD 0)
    let diff := maskOf fun l => inMask s.exec' l && x l != w
    if diff ≠ 0 then .trap 0x06 diff w
    else if !mfmtOk w then .trap 0x02 s.exec' w
    else
      .ok (s.setG fun _ => { g with mfmt := w, alatch := none }))))

def execMpar (a : BitVec 9) (s : State) : Host.Outcome State Fault Refusal :=
  let va := s.rd a.toNat
  s.run (s.vectorOnly (s.flagged s.setaFlag (
    if va.toNat % 128 ≠ 0 then .trap 0x09 s.exec' va
    else
      match s.readVas va 16 with
      | .error (c, x) => .fail c s.exec' x
      | .ok (vs, ps) =>
        let b := (vs.map dwordBytes).flatten
        if !epiOk b then .trap 0x02 s.exec' (BitVec.ofNat 64 (epiCtrl b))
        else .ok ((s.markAll ps .read).setG fun g => { g with epi := some b }))))

/-! ## macq, mrel, mrelf, mzero, mred (R240) -/

def execMacq (a b : BitVec 9) (c : BitVec 7) (s : State) : Host.Outcome State Fault Refusal :=
  let v := s.rd a.toNat
  let row := 8 * c.toNat
  s.run (s.vectorOnly (s.flagged s.setaFlag (s.destOk b.toNat (s.countOk v row (
    let l := (List.range (v.toNat / 8)).map (row / 8 + ·)
    if l.all fun k => kvGet none s.issCore.owner k == none || kvGet none s.issCore.owner k == some s.cur.g.team then
      .ok ((s.modIss fun x => { x with owner := l.foldl (fun o k => kvPut none o k (some s.cur.g.team)) x.owner }).wr b.toNat 0)
    else .ok (s.wr b.toNat 1))))))

def execMrel (a : BitVec 9) (c : BitVec 7) (s : State) : Host.Outcome State Fault Refusal :=
  let v := s.rd a.toNat
  let row := 8 * c.toNat
  s.run (s.vectorOnly (s.flagged s.setaFlag (s.countOk v row (s.ownsRows row v.toNat (
    match (List.range (v.toNat / 8)).find? fun b => s.blockUsed s.coreNo (row / 8 + b) with
    | some b => .trap 0x0D s.exec' (BitVec.ofNat 64 (row + 8 * b))
    | none => .ok (s.modIss fun x => x.freeRows row v.toNat))))))

/-- A word over a row range that enters the engine. -/
def State.rangeJob (s : State) (a : BitVec 9) (c : BitVec 7) (op : MatOp) : Res State :=
  let v := s.rd a.toNat
  let row := 8 * c.toNat
  s.vectorOnly (s.countOk v row (s.ownsRows row v.toNat (s.flagged s.setaFlag
    (.ok (s.enqueue s.cur.g 0 0 (MatJob.start op row v.toNat s.cur.g.mfmt))))))

def execMrelf (a : BitVec 9) (c : BitVec 7) (s : State) : Host.Outcome State Fault Refusal := s.run (s.rangeJob a c .mrelf)

def execMzero (a : BitVec 9) (c : BitVec 7) (s : State) : Host.Outcome State Fault Refusal := s.run (s.rangeJob a c .mzero)

def execMred (a b : BitVec 9) (c : BitVec 7) (s : State) : Host.Outcome State Fault Refusal :=
  let v := s.rd a.toNat
  let row := 8 * c.toNat
  let v0 := s.rd b.toNat
  s.run (s.vectorOnly (s.countOk v row (
    if v0.toNat % 8 ≠ 0 ∨ 1024 < v0.toNat + v.toNat ∨ rowsMeet row v.toNat v0.toNat v.toNat then .trap 0x03 s.exec' v0
    else if s.cur.g.mfmt = 0 then .trap 0x06 s.exec' 0
    else s.ownsRows row v.toNat (s.ownsRows v0.toNat v.toNat (s.flagged s.setaFlag
      (.ok (s.enqueue s.cur.g 0 0 { MatJob.start .mred row v.toNat s.cur.g.mfmt with row2 := v0.toNat, n2 := v.toNat }))))))) 

/-! ## msoft, mside, mdrainv (R241, R242, R246) -/

def execMsoft (a b : BitVec 9) (c : BitVec 7) (s : State) : Host.Outcome State Fault Refusal :=
  let v := s.rd b.toNat
  let h := v.toNat / 2 ^ 12 % 8
  let n := h3Rows h
  let row := 8 * c.toNat
  let o := v.toNat % 1024
  s.run (s.vectorOnly (
    if v.toNat / 2 ^ 15 % 2 ^ 17 ≠ 0 ∨ v.toNat / 2 ^ 10 % 4 ≠ 0 ∨ 5 < h then .trap 0x02 s.exec' v
    else s.namesOk a.toNat n (s.rowsOk row n (
      if o % 8 ≠ 0 ∨ 1024 < o + n ∨ rowsMeet row n o n then .trap 0x03 s.exec' (BitVec.ofNat 64 o)
      else s.takeFirst a.toNat n (if s.cur.g.mfmt = 0 ∨ mfmtInt s.cur.g.mfmt then .trap 0x06 s.exec' s.cur.g.mfmt
      else s.ownsRows row n (s.ownsRows o n (s.flagged s.setaFlag ((s.takeNames a.toNat n s.cur.g).bind fun g =>
        .ok (s.enqueue g a.toNat n { MatJob.start .msoft row n s.cur.g.mfmt with
          row2 := o, n2 := n, d := a.toNat, scale := BitVec.ofNat 32 (v.toNat / 2 ^ 32) })))))))))

def execMside (a b : BitVec 9) (c : BitVec 7) (s : State) : Host.Outcome State Fault Refusal :=
  let v := s.rd b.toNat
  let row := 8 * c.toNat
  s.run (s.vectorOnly (
    if 1 < v.toNat then .trap 0x02 s.exec' v
    else s.namesOk a.toNat 1 (s.rowsOk row 32 (s.takeFirst a.toNat (if v = 0 then 1 else 0) (s.ownsRows row 32 (s.flagged s.setaFlag (
      if v = 0 then (s.takeNames a.toNat 1 s.cur.g).bind fun g =>
        .ok (s.enqueue g a.toNat 1 { MatJob.start (.mside false) row 32 0 with d := a.toNat })
      else .ok (s.enqueue s.cur.g 0 0 { MatJob.start (.mside true) row 32 0 with a := [s.cur.g.val a.toNat] }))))))))

def execMdrainv (a : BitVec 9) (c : BitVec 7) (s : State) : Host.Outcome State Fault Refusal :=
  let row := 8 * c.toNat
  s.run (s.vectorOnly (
    if 112 < a.toNat then .trap 0x03 s.exec' (BitVec.ofNat 64 a.toNat)
    else s.spanOk a.toNat 16 (s.takeFirst a.toNat 16 (s.ownsRows row 8 (s.flagged s.setaFlag ((s.takeNames a.toNat 16 s.cur.g).bind fun g =>
      .ok (s.enqueue g a.toNat 16 { MatJob.start .mdrainv row 8 0 with d := a.toNat })))))))

/-! ## mdrain (R244, R245) -/

/-- Where a piece of a destination row goes, with the walk, or the cause and its address. -/
abbrev Piece := Except (Nat × W64) (Target × List Nat)

/-- A destination row: its address and its 8-byte pieces. -/
abbrev RowTargets := W64 × List Piece

/-- The 8-byte pieces of a destination row. -/
def State.rowTargets (s : State) (b : List Byte) (a : W64) : List Piece :=
  (List.range (epiRowBytes b / 8)).map fun k =>
    let x := a + BitVec.ofNat 64 (if epiDsp b then 4 * k else 8 * k)
    match if epiDsp b then s.checkSpa x 8 else s.checkVa x 8 .write with
    | .ok t => .ok t
    | .error c => .error (c, x)

/-- The first cause of R233 that the rows and the bias elements meet, with the address it reports: that of the lowest
failing row, or what the walk of unreadable table entries was for (20, R354). -/
def firstRowCause (l : List RowTargets) (bias : Except (Nat × W64) (List Nat)) :
    Option (Nat × W64 × Need) :=
  let meets := fun (k : Nat) (r : W64 × List (Except (Nat × W64) (Target × List Nat))) =>
    (if r.1.toNat % 8 ≠ 0 then [(0x09, r.1)] else r.2.filterMap fun e => match e with
      | .error e => some e
      | .ok _ => none).find? fun e => e.1 == k
  (causeOrder.filterMap fun k =>
    match l.filterMap fun r => (meets k r).map fun e => (r.1, e.2) with
    | (a, x) :: _ => some (k, if k = 0x0A then x else a, Need.write)
    | [] =>
      match bias with
      | .error e => if e.1 = k then some (e.1, e.2, Need.read) else none
      | .ok _ => none).head?

/-- The bias elements as FP32 codes, read as the slice's loads would read them. -/
def State.readBias (s : State) (b : List Byte) : Except (Nat × W64) (List Nat) :=
  let w := if epiBiasBf b then 2 else 4
  let byte := fun (i : Nat) =>
    let a := BitVec.ofNat 64 (epiBias b + i)
    match s.readVa s.cur.sl.nextSeq a with
    | .ok (v, t) => (.ok (picked t.pa 1 v).toNat : Except (Nat × W64) Nat)
    | .error c => .error (c, a)
  match (List.range (128 * w)).mapM byte with
  | .error e => .error e
  | .ok bs => .ok ((List.range 128).map fun n =>
      (List.range w).foldr (fun i v => bs.getD (n * w + i) 0 + 256 * v) 0 * (if w = 2 then 2 ^ 16 else 1))

/-- The walks to the first and the last byte of the bias row: the pages it lies on. -/
def State.biasPaths (s : State) (b : List Byte) : List (List Nat) :=
  if epiBias b = 0 then []
  else [0, 128 * (if epiBiasBf b then 2 else 4) - 1].filterMap fun i =>
    match s.translate (BitVec.ofNat 64 (epiBias b + i)) .read with
    | .ok t => some t.path
    | .error _ => none

/-- The rows of a drain up to the bound step: 128 values and flags each. -/
def State.epiRows (s : State) (b : List Byte) (row n : Nat) (bias : Option (List Nat)) : List (List Nat × W64) :=
  (List.range n).map fun j =>
    let r := s.issCore.row (row + j)
    let es := (List.range 128).map fun k =>
      epiEl b (mfmtInt s.cur.g.mfmt) (r.c.getD k 0).toNat r.l.toNat (bias.map fun l => l.getD k 0)
    (es.map (·.1), es.foldl (fun v e => v ||| e.2) (stFlags r.st))

/-- Rows of drain `op` on their way to the gate queue of the die's Lantern, in row order (18, R318). -/
def State.pushGate (s : State) (op : Nat) (rows : List (List Nat)) : State :=
  let l := kvGet Lantern.idle s.lanterns s.die
  let l := { l with feeds := l.feeds ++ [(op, rows.map fun r => r.map (BitVec.ofNat 32))] }
  { s with lanterns := kvPut Lantern.idle s.lanterns s.die l }

/-- The stores of a drain: each element's bytes at its place in the piece that holds it; to a scratchpad, byte by byte (02,
R18). -/
def drainAccesses (targets : List RowTargets) (rows : List (List (Nat × Nat × Nat))) :
    List Access :=
  ((targets.zip rows).map fun (p : RowTargets × List (Nat × Nat × Nat)) => p.2.filterMap fun (e : Nat × Nat × Nat) =>
    match (p.1.2.drop (e.1 / 8)).head? with
    | some (.ok (t, _)) =>
      let whole : Access := { lane := 0, va := p.1.1 + BitVec.ofNat 64 e.1, tgt := t, size := e.2.1,
                              data := BitVec.ofNat 64 e.2.2, new := 0, got := 0, st := .waiting }
      some (match t with
        | .mem pa hc => [{ whole with tgt := .mem (pa + e.1 % 8) hc }]
        | .spad k o => (List.range e.2.1).map fun i =>
            { whole with tgt := .spad k (o + e.1 % 8 + i), size := 1, data := BitVec.ofNat 64 (e.2.2 / 2 ^ (8 * i) % 256) }
        | _ => [whole])
    | _ => none).flatten.flatten

/-- What is left of `mdrain` once its address checks are passed: the bound step, the stores, the rows' status. -/
def State.drain (s : State) (b : List Byte) (row n : Nat) (bias : Option (List Nat))
    (targets : List RowTargets) (bound : Option Bound) : Res State :=
  let rows := s.epiRows b row n bias
  let out := fun (x : List Nat) => match bound with
    | some bd => x.any fun v => !bd.has v
    | none => false
  let trap : Bool := match bound with
    | some bd => bd.act == .trap
    | none => false
  match if trap then (List.range n).find? fun j => out ((rows.getD j ([], 0)).1) else none with
  | some j => .trap 0x0F s.exec' (BitVec.ofNat 64 j)
  | none =>
    let vals := rows.map fun r => match bound with
      | some bd => if bd.act = .clamp then r.1.map bd.clamp else r.1
      | none => r.1
    let outs := vals.map (epiOut b)
    let fl := rows.foldl (fun v r => v ||| r.2) (outs.foldl (fun v r => v ||| r.2) 0)
    let op := s.nextId
    let s' := s.issue .store s.setaFlag (if epiNowr b then [] else drainAccesses targets (outs.map (·.1)))
    let s' := s'.setSl fun x => { x with ops := x.ops.map fun o => if o.id = op then { o with fl := fl } else o }
    let s' := (s'.modIss fun c =>
      (List.range n).foldl (fun c j => c.modRow (row + j) fun r => { r with st := 0 }) c).drainRows row n op
    let s' := if epiGate b then s'.pushGate op vals else s'
    .ok (match bound with
      | some bd => if bd.act = .flag ∧ rows.any fun r => out r.1 then s'.hit (epiTb b) op else s'
      | none => s')

/-- The cause a result is, with the address and the access it reports. -/
def Res.cause? (r : Res α) : Option (Nat × W64 × Need) :=
  match r with
  | .trap c _ a => some (c, a, .read)
  | .denied c _ a n => some (c, a, n)
  | _ => none

/-- The cause of two that stands first in the order of the address checks (R233; 06, R111). -/
def soonest (a b : Option (Nat × W64 × Need)) : Option (Nat × W64 × Need) :=
  causeOrder.findSome? fun k => (a.toList ++ b.toList).find? fun c => c.1 == k

/-- mdrain (R233, R244, R245): the address checks of rows, bias and bound, then ownership; data that a walk cannot read come
last.  With NOWR no row address is checked (DESIGN CHOICE, log 103: R244 does not say whether the checks of rows that are not
written are made). -/
def execMdrain (a d : BitVec 9) (c : BitVec 7) (s : State) : Host.Outcome State Fault Refusal :=
  let v := s.rd a.toNat
  let row := 8 * c.toNat
  s.run (s.vectorOnly (s.countOk v row (
    match s.cur.g.epi with
    | none => .trap 0x06 s.exec' 0
    | some b =>
      let addr := fun (j : Nat) => s.rd d.toNat + BitVec.ofNat 64 j * epiStride b
      let targets := if epiNowr b then [] else (List.range v.toNat).map fun j => (addr j, s.rowTargets b (addr j))
      let bias := if epiBias b = 0 then .ok [] else s.readBias b
      let bound : Res (Option (Bound × List (List Nat))) :=
        if epiTben b then (s.readBound (epiTb b) false).bind fun r => .ok (some r) else .ok none
      let cause := soonest (firstRowCause targets bias) bound.cause?
      let stop := fun (late : Bool) (r : Res State) => match cause with
        | some (k, x, n) => if (k == 0x0A) = late then .denied k s.exec' x n else r
        | none => r
      stop false (s.ownsRows row v.toNat (stop true (bound.bind fun bd => match bias with
        | .error _ => .stall
        | .ok l =>
          if s.issCore.busyRows row v.toNat then .stall
          else s.flagged s.setaFlag (
            let s' := s.markAll ((targets.map fun r => r.2.filterMap fun e => match e with
              | .ok (_, p) => some p
              | .error _ => none).flatten) .write
            let s' := (s'.markAll (s.biasPaths b) .read).markAll ((bd.map (·.2)).getD []) .read
            s'.drain b row v.toNat (if l = [] then none else some l) targets (bd.map (·.1)))))))))

/-! ## Effects at completion (R235, R237-R242, R246) -/

/-- The B bytes a word reads: a byte written since issue is read as it was then, as any write since left it, or as it is: a
free choice for each byte (R237; 02, R18; log 45). -/
def mixBytes (tick : Nat) (old new : List Byte) (mid : List (Nat × Byte)) : List Byte :=
  ((List.range old.length).zip (old.zip new)).map fun p =>
    let l := p.2.1 :: (mid.filterMap fun m => if m.1 = p.1 then some m.2 else none) ++ [p.2.2]
    if l.all (· == p.2.2) then p.2.2 else l.getD (Config.pick (tick + p.1) % l.length) p.2.2

/-- One element of C after a word (R235). -/
def mmaEl (fmt : W64) (a : List Lanes) (b : List Byte) (h i n c : Nat) : Nat × W64 :=
  let fa := mfmtA fmt
  let fb := mfmtB fmt
  if mfmtInt fmt then
    (wrapI 32 ((List.range (matK fa)).foldl (fun t k => t + sx 8 (aEl a fa i k) * sx 8 (bEl b fb k n)) (c : Int)), 0)
  else
    fp32.round (sumNums (fp32.decode c :: (List.range (matK fa)).map fun k =>
      (matNum fa (if fa = 5 then aHalf a h i (k / 32) else 0) (aEl a fa i k)).mul
        (matNum fb (if fb = 5 then bHalf b (k / 32) n else 0) (bEl b fb k n))))

/-- A row given new columns and flags. -/
def Row.put (r : Row) (es : List (Nat × W64)) : Row :=
  { r with c := es.map fun e => BitVec.ofNat 32 e.1, st := r.st ||| stOf (es.foldl (fun v e => v ||| e.2) 0) }

def Core.mmaRows (c : Core) (j : MatJob) (zero : Bool) (b : List Byte) : Core :=
  (List.range j.n).foldl (fun c i => c.modRow (j.row + i) fun r =>
    r.put ((List.range 128).map fun n => mmaEl j.fmt j.a b j.n i n (if zero then 0 else (r.c.getD n 0).toNat))) c

def Core.redRows (c : Core) (j : MatJob) : Core :=
  (List.range j.n).foldl (fun c i =>
    let s := c.row (j.row2 + i)
    c.modRow (j.row + i) fun r => r.put ((List.range 128).map fun n =>
      let x := (r.c.getD n 0).toNat
      let y := (s.c.getD n 0).toNat
      if mfmtInt j.fmt then ((x + y) % 2 ^ 32, 0) else fp32.bin addNum x y)) c

/-- The difference of two finite FP32 values times 2^256. -/
def fpDiff (a b : Nat) : Int :=
  match fp32.decode a, fp32.decode b with
  | .fin s m e, .fin t n k => (if s then -scaled m e else scaled m e) - (if t then -scaled n k else scaled n k)
  | _, _ => 0

def negInf32 : Nat := inf32 true

/-- P of a score t against the new maximum (R241). -/
def softP (t m : Nat) : Nat × W64 :=
  if t = negInf32 then (0, 0)
  else if t = m then (0x3F80, 0)
  else if m = inf32 false then (0, 0)
  else
    let d := fpDiff t m
    if d = 0 then (0x3F80, 0)
    else if d < -1000 * ivOne then (0, fUF ||| fNX)
    else bf16.ofExp false (.point d)

/-- g of the old and new maximum: 1, 0, or e^d of a negative d. -/
inductive SoftG where
  | one
  | zero
  | exp (d : Int)
  deriving DecidableEq, Repr

def softG (m m' : Nat) : SoftG :=
  if m = m' then .one
  else if m = negInf32 ∨ m' = inf32 false then .zero
  else if fpDiff m m' = 0 then .one else .exp (fpDiff m m')

/-- An element of O rescaled by g (R241). -/
def softO (g : SoftG) (x : Nat) : Nat × W64 :=
  match fp32.decode x with
  | .nan sig => (fp32.nanCode, flagIf sig fNV)
  | .inf s => match g with
    | .zero => nanNV
    | _ => (inf32 s, 0)
  | .fin s m e => match g with
    | .one => (x, 0)
    | .zero => (zero32 s, 0)
    | .exp d =>
      if m = 0 then (zero32 s, 0)
      else if d < -1000 * ivOne then (zero32 s, fUF ||| fNX)
      else
        let (k, y) := (Iv.point d).expScaled
        let a := fp32.roundFin s (m * y.lo.toNat) (e + k - 256) true
        let b := fp32.roundFin s (m * y.hi.toNat) (e + k - 256) true
        if a.1 = b.1 ∨ a.1 % 2 = 0 then a else b

/-- The logarithm of value(l) × g. -/
def softLog (r : Bool) (p : Nat) (d : Int) : Option Iv := (logOf r p).map fun u => u.add (.point d)

/-- l′: value(l) × g + ΣP rounded in ψ (R182, R241); `sum` the exact sum of the P as m × 2^e.  Terms whose enclosures do not
tell apart are equal (log 7). -/
def softL (l : Nat) (g : SoftG) (m : Nat) (e : Int) : Nat :=
  let b := if m = 0 then sli32.zeroCode else (sli32.ofLog false (lnDy m e)).1
  match sli32.decode l, g with
  | .nan, _ => sli32.nanCode
  | .zero, _ => b
  | _, .zero => b
  | .num s r p, g =>
    let d := match g with
      | .exp d => d
      | _ => 0
    match softLog r p d with
    | none => if r then (if m = 0 then l else b) else l
    | some u =>
      if m = 0 then (sli32.ofLog s u).1
      else
        let v := lnDy m e
        if v.hi < u.lo then (sli32.ofLog s (u.add (lnOnePm s (v.sub u)))).1
        else if u.hi < v.lo then (sli32.ofLog false (v.add (lnOnePm s (u.sub v)))).1
        else if s then sli32.zeroCode
        else (sli32.ofLog false (u.add ivLn2)).1

/-- One row of msoft: P, the O row and its side pair after it. -/
def softRow (scale : Nat) (sc : List Nat) (o : Row) : List Nat × Row :=
  let sig := (fp32.decode scale).isSig
  let ts := sc.map fun x =>
    let r := fp32.bin Num.mul scale x
    (r.1, if (fp32.decode x).isSig && !sig then r.2 &&& ~~~fNV else r.2)
  let st0 := ts.foldl (fun v t => v ||| t.2) 0
  if (fp32.decode o.m.toNat).isNan || ts.any fun t => (fp32.decode t.1).isNan then
    (sc.map fun _ => bf16.nanCode,
     { c := o.c.map fun _ => BitVec.ofNat 32 fp32.nanCode, m := BitVec.ofNat 32 fp32.nanCode
       l := BitVec.ofNat 32 sli32.nanCode, st := o.st ||| stOf st0 })
  else
    let m' := ts.foldl (fun m t => (fp32.round ((fp32.decode m).max (fp32.decode t.1))).1) o.m.toNat
    let ps := ts.map fun t => softP t.1 m'
    let g := softG o.m.toNat m'
    let sum := sumNums (ps.map fun p => bf16.decode p.1)
    let (sm, se) := match sum with
      | .fin _ m e => (m, e)
      | _ => (0, 0)
    let os := o.c.map fun x => softO g x.toNat
    let st := os.foldl (fun v t => v ||| t.2) (ps.foldl (fun v t => v ||| t.2) st0)
    (ps.map (·.1),
     { c := os.map fun t => BitVec.ofNat 32 t.1, m := BitVec.ofNat 32 m', l := BitVec.ofNat 32 (softL o.l.toNat g sm se)
       st := o.st ||| stOf st })

/-- msoft over its rows: the core after it and the P rows. -/
def Core.softRows (c : Core) (j : MatJob) : Core × List (List Nat) :=
  (List.range j.n).foldl (fun (t : Core × List (List Nat)) i =>
    let (p, o) := softRow j.scale.toNat ((t.1.row (j.row + i)).c.map (·.toNat)) (t.1.row (j.row2 + i))
    (t.1.modRow (j.row2 + i) fun _ => o, t.2 ++ [p])) (c, [])

/-- P as the A operand of BF16 words: name q × H/4 + i div 4, lanes 8 (i mod 4) up (R241). -/
def softNames (h : Nat) (ps : List (List Nat)) : List Lanes :=
  (List.range h).map fun k =>
    let q := k / (h / 4)
    tab fun l =>
      let i := k % (h / 4) * 4 + l / 8
      mapEls 16 fun e => (ps.getD i []).getD (32 * q + l % 8 * 4 + e) 0

/-- Raw columns of eight rows (R246). -/
def rawNames (c : Core) (row : Nat) : List Lanes :=
  (List.range 16).map fun k => tab fun l => mapEls 32 fun e => ((c.row (row + k / 2)).c.getD (k % 2 * 64 + 2 * l + e) 0).toNat

/-- Side pairs of 32 rows (R242). -/
def sideName (c : Core) (row : Nat) : Lanes := tab fun l =>
  (c.row (row + l)).m.setWidth 64 ||| (c.row (row + l)).l.setWidth 64 <<< 32

/-- The core after a matrix word, the names it delivers, the flags it sets. -/
def Core.finish (c : Core) (j : MatJob) (b : List Byte) : Core × List Lanes × W64 :=
  match j.op with
  | .mma z => ((c.mmaRows j z b).useRows j.row j.n true, [], 0)
  | .mzero => ((c.clearRows j.row j.n).useRows j.row j.n false, [], 0)
  | .mrelf => (c.freeRows j.row j.n, [], 0)
  | .mred => ((c.redRows j).useRows j.row j.n true, [], 0)
  | .mside true =>
    let x := j.a.headD zeroLanes
    (((List.range 32).foldl (fun c i => c.modRow (j.row + i) fun r =>
      { r with m := (lane x i).setWidth 32, l := (lane x i >>> 32).setWidth 32 }) c).useRows j.row j.n true, [], 0)
  | .mside false => (c, [sideName c j.row], 0)
  | .msoft =>
    let (c, ps) := c.softRows j
    (c.useRows j.row2 j.n2 true, softNames j.n ps, 0)
  | .mdrainv =>
    let fl := (List.range 8).foldl (fun v i => v ||| stFlags (c.row (j.row + i)).st) 0
    (((List.range 8).foldl (fun c i => c.modRow (j.row + i) fun r => { r with st := 0 }) c).useRows j.row 8 false,
     rawNames c j.row, fl)

/-- Word `i` must take effect before word `j` (R237, R241). -/
def MatJob.before (i j : MatJob) : Bool :=
  j.names i.row i.n || j.names i.row2 i.n2 || (i.op == .msoft) == (j.op == .msoft)

/-- The words issued before word `id`. -/
def earlierJobs (id : Nat) : List MatJob → List MatJob
  | [] => []
  | h :: t => if h.id = id then [] else h :: earlierJobs id t

/-- The operation of a matrix word leaves its slice: flag, names, sticky flags. -/
def Resident.matDone (r : Resident) (o : Op) (d : Nat) (xs : List Lanes) (fl : W64) : Resident :=
  let sl := { r.sl.lower o.flag with ops := r.sl.ops.filter fun p => p.id != o.id }
  let g := ((List.range xs.length).zip xs).foldl (fun (g : Group) p => g.fill (d + p.1) (BitVec.allOnes 32) p.2) r.g
  let r : Resident := { g := { g with fflg := g.fflg ||| fl }, sl := sl }
  if r.sl.wait = some (.matrix o.id) then { r with sl := { r.sl with wait := none } }.advance else r

/-- A 32-bit counter that saturates (21, R372). -/
def satCount (n : Nat) : Nat := if n + 1 < 2 ^ 32 then n + 1 else 2 ^ 32 - 1

/-- A counter of a core: 0 transient and 1 lasting matrix mismatches, 2 squashes, 3 corrected storage words. -/
def Core.count (c : Core) (k : Nat) : Core := { c with ctrs := kvPut 0 c.ctrs k (satCount (kvGet 0 c.ctrs k)) }

/-- The launch of a group. -/
def State.tcbOf (s : State) (grp : Nat) : Option Nat :=
  ((s.cur :: s.others).find? fun r => r.g.id == grp).map (·.g.tcb)

/-- A lasting mismatch: C unchanged, the core suspect, trap 0x0E at the word (R238; 21, R364, R365). -/
def State.mismatch (s : State) (core : Nat) (j : MatJob) : State :=
  let s := s.modCore core fun c => { (c.count 1) with mjobs := c.mjobs.filter (·.id != j.id), suspect := true }
  let s := s.logEvent (BitVec.ofNat 64 j.row) (some core) (s.tcbOf j.grp) 4 2 1
  let s := s.onOp j.id fun r o =>
    { r with sl := { r.sl.lower o.flag with wait := none, ops := r.sl.ops.filter fun p => p.id != o.id } }
  s.onSlice j.grp .execute fun s => s.trap 0x0E s.exec' (BitVec.ofNat 64 j.row)

/-- MATRIX_WORD_COMPLETE (R237, R238): word `op` of a core takes effect; `mismatches` of its two comparisons differ in
redundant mode. -/
def execMatrixWordComplete (core op mismatches : Nat) (s : State) : Host.Outcome State Fault Refusal :=
  let c := s.core core
  match c.mjobs.find? fun j => j.id == op with
  | none => .next s
  | some j =>
    let red : Bool := match j.op with
      | .mma _ => mfmtRed j.fmt
      | _ => false
    let waits : Bool := match j.op with
      | .mzero => s.draining core j.row j.n
      | .mrelf => s.draining core j.row j.n
      | _ => false
    if (earlierJobs op c.mjobs).any (fun i => i.before j) || waits then .next s
    else if red ∧ 2 ≤ mismatches then .next (s.mismatch core j)
    else
      let now := match alFind s.teams j.team with
        | some t => readBytes t.mem j.tile j.b.length
        | none => j.b
      let (c', xs, fl) := c.finish j (mixBytes s.tick j.b now j.mid)
      let c' := { c' with mjobs := c'.mjobs.filter (·.id != op) }
      let c' := if red ∧ mismatches = 1 then c'.count 0 else c'
      let s := { s.modCore core (fun _ => c') with tick := s.tick + 1 + j.b.length }
      let s := if red ∧ mismatches = 1 then s.logRepaired (BitVec.ofNat 64 j.row) core (s.tcbOf j.grp) 1 1 else s
      .next (s.onOp op fun r o => r.matDone o j.d xs fl)

end Sys2Proof.Machine
end

