-- ==== Sys2Proof/Machine/Engines.lean ====
section
/-! DEFINITION. The engine queues: cpy, gath, scat, chain, coll, tfill, tevict, and the engines' steps (07, R118-R136; 15,
R263). -/

namespace Sys2Proof.Machine

/-! ## Descriptors (R120-R123) -/

def dNum (b : List Byte) (lo n : Nat) : Nat := leNat ((b.drop lo).take n)
def dWord (b : List Byte) (lo : Nat) : W64 := BitVec.ofNat 64 (dNum b lo 8)
def dSrc (b : List Byte) : W64 := dWord b 0
def dDst (b : List Byte) : W64 := dWord b 8
def dAux (b : List Byte) : W64 := dWord b 16
/-- The count of level k. -/
def dN (b : List Byte) (k : Nat) : Nat := dNum b (48 + 4 * k) 4
/-- The source and destination strides of level k, 1 to 3. -/
def dSS (b : List Byte) (k : Nat) : W64 := dWord b (64 + 8 * (k - 1))
def dDS (b : List Byte) (k : Nat) : W64 := dWord b (88 + 8 * (k - 1))

/-- A bit and a field of a control word. -/
def cBit (c : W64) (k : Nat) : Bool := c.getLsbD k
def cField (c : W64) (lo n : Nat) : Nat := c.toNat / 2 ^ lo % 2 ^ n
def cEsz (c : W64) : Nat := 2 ^ cField c 18 2

/-- Positions of an element by its linear index (R122). -/
def dIdx (b : List Byte) (i k : Nat) : Nat :=
  i / ((List.range k).foldl (fun p j => p * dN b j) 1) % dN b k

def bv (n : Nat) : W64 := BitVec.ofNat 64 n

/-- Source and destination offsets of an element (R122). -/
def srcOff (b : List Byte) (esz i : Nat) : W64 :=
  bv (dIdx b i 0 * esz) + bv (dIdx b i 1) * dSS b 1 + bv (dIdx b i 2) * dSS b 2 + bv (dIdx b i 3) * dSS b 3

/-- doff of R123. -/
def dOff (b : List Byte) (xform esz r c : Nat) : W64 :=
  if xform = 0 then bv (c * esz) + bv r * dDS b 1
  else if xform = 1 then bv (r * esz) + bv c * dDS b 1
  else if xform = 2 then (bv (c * esz) + bv r * dDS b 1) ^^^ bv (r % 8 * 64)
  else
    let t := (dN b 0 * esz + 255) / 256
    let x := c * esz
    bv ((r / 8 * t + x / 256) * 2048 + r % 8 * 256 + x % 256)

def dstOff (b : List Byte) (xform esz i : Nat) : W64 :=
  dOff b xform esz (dIdx b i 1) (dIdx b i 0) + bv (dIdx b i 2) * dDS b 2 + bv (dIdx b i 3) * dDS b 3

/-! ## Issue (R126, R128, R129) -/

/-- The conditions every ASYNC word shares: its flag's count, its token register not pending; then cause 0x02 of its
control word or line register, reported as `x`, before cause 0x03 of its token register (02, R37; R129). -/
def State.asyncWord (s : State) (tok : Nat) (ok : Bool) (x : W64) (r : Res State) : Res State :=
  s.flagged s.setaFlag (
    if tok ≠ 0 ∧ s.cur.sl.pending.contains tok then .stall
    else if !ok then .trap 0x02 s.exec' x
    else s.destOk tok r)

/-- The descriptor read whole (R120). -/
def State.readDesc (s : State) (va : W64) : Res (List Byte × List (List Nat)) :=
  if va.toNat % 128 ≠ 0 then .trap 0x09 s.exec' va
  else
    match s.readVas va 16 with
    | .error (c, a) => .fail c s.exec' a
    | .ok (vs, ps) => .ok ((vs.map dwordBytes).flatten, ps)

/-- The stores and bag puts of the slice that AFTS waits for (R119). -/
def Slice.afts (x : Slice) : List Nat :=
  (x.ops.filter fun o => match o.kind with
    | .store => true
    | .bag b _ _ _ _ _ => b == .put || b == .putl || b == .write
    | _ => false).map (·.id)

/-- A token register marked pending (R126). -/
def Slice.pend (x : Slice) (tok : Nat) : Slice := if tok = 0 then x else { x with pending := x.pending ++ [tok] }

def Core.queue (c : Core) (q : Nat) : List EngOp := kvGet [] c.eq q

/-- An operation as it enters queue `q`; a full queue holds the word back (R118). -/
def State.enterQueue (s : State) (q tok : Nat) (o : EngOp) : Res State :=
  if 32 ≤ (s.issCore.queue q).length then .stall
  else
    let id := s.nextId
    let s' := (s.issue (.engine q tok) s.setaFlag []).setSl fun x => x.pend tok
    .ok (s'.modIss fun c => { c with eq := kvPut [] c.eq q (c.queue q ++ [{ o with id := id }]) })

/-- The operation of a word, before its fields are filled in. -/
def State.engOp (s : State) (code : Nat) : EngOp :=
  { id := 0, code := code, desc := [], dva := 0, ctrl := 0, addr := 0, line := 0, grp := s.cur.g.id, slice := s.cur.sl.kind,
    team := s.cur.g.team, core := s.coreNo, ctx := s.cur.g.ctx, tcb := s.cur.g.tcb, afts := [], started := false, total := 0,
    next := 0, ahead := [], asks := none, codes := [], tbs := [], got := [], served := [], out := [], writes := [], remote := [],
    cause := 0, fail := 0, fva := 0, told := false, value := 0, fflg := 0, hits := [] }

/-- A scratchpad base of a descriptor (R122). -/
def State.spaBase (s : State) (on : Bool) (x : W64) (r : Res α) : Res α :=
  if !on then r
  else
    match s.spadTarget s.cur.g.team x 4 with
    | .error c => .trap c s.exec' x
    | .ok _ => r

/-- A member with a descriptor and the control word of R121. -/
def State.descWord (s : State) (t d : BitVec 9) (a : BitVec 7) (code q : Nat) (ok : W64 → Bool)
    (total : List Byte → Nat) : Res State :=
  let c := s.rd a.toNat
  let va := s.rd d.toNat
  s.asyncWord t.toNat (ok c) c (
    (s.readDesc va).bind fun (b, ps) =>
      s.spaBase (cBit c 27) (dSrc b) (s.spaBase (cBit c 26) (dDst b) (
        (s.markAll ps .read).enterQueue q t.toNat { s.engOp code with
          desc := b, dva := va, ctrl := c, total := total b, afts := if cBit c 28 then s.cur.sl.afts else [] })))

def nAll (b : List Byte) : Nat := dN b 0 * dN b 1 * dN b 2 * dN b 3

/-- The unused fields of each member are zero, and no field is illegal (R121, R133, R134). -/
def cpyOk (c : W64) : Bool :=
  cField c 32 32 == 0 && (decide (cField c 29 3 ≤ 3) || cField c 29 3 == 6) && !(cBit c 25 && cBit c 27)
    && (!cBit c 24 || (cBit c 26 && cField c 20 4 == 0)) && decide (cField c 20 4 ≤ 3) && cField c 0 18 == 0

def gathOk (c : W64) : Bool := cField c 29 3 == 0 && !cBit c 27 && cField c 20 6 == 0 && cField c 0 18 == 0

def scatOk (c : W64) : Bool := cField c 29 3 == 0 && cField c 20 7 == 0 && cField c 0 18 == 0

def chainOk (c : W64) : Bool :=
  cField c 32 32 == 0 && cField c 29 3 == 0 && cField c 18 8 == 0 && decide (1 ≤ cField c 14 4) && decide (cField c 14 4 ≤ 8)
    && decide (cField c 11 3 ≤ 1) && decide (cField c 8 3 ≤ 2) && cField c 0 8 == 0

def collOk (c : W64) : Bool :=
  cField c 32 32 == 0 && cField c 29 3 == 0 && cField c 18 8 == 0 && decide (cField c 14 4 ≤ 3)
    && decide (cField c 11 3 ≤ 3) && cField c 0 11 == 0

def execCpy (t d : BitVec 9) (a : BitVec 7) (s : State) : Host.Outcome State Fault Refusal :=
  s.run (s.descWord t d a 1 (cField (s.rd a.toNat) 29 3) cpyOk nAll)

def execGath (t d : BitVec 9) (a : BitVec 7) (s : State) : Host.Outcome State Fault Refusal :=
  s.run (s.descWord t d a 2 4 gathOk fun b => dN b 0)

def execScat (t d : BitVec 9) (a : BitVec 7) (s : State) : Host.Outcome State Fault Refusal :=
  s.run (s.descWord t d a 3 4 scatOk fun b => dN b 0)

def execChain (t d : BitVec 9) (a : BitVec 7) (s : State) : Host.Outcome State Fault Refusal :=
  s.run (s.descWord t d a 4 5 chainOk nAll)

def execColl (t d : BitVec 9) (a : BitVec 7) (s : State) : Host.Outcome State Fault Refusal :=
  s.run (s.descWord t d a 12 7 collOk nAll)

/-! ## Lines: tlook, tfill, tevict, tinval (R135, R136; 06, R108) -/

def tagState (t : W64) : Nat := t.toNat / 2 ^ 62
def tagAge (t : W64) : Nat := t.toNat / 2 ^ 56 % 64
def tagVa (t : W64) : Nat := t.toNat / 2 ^ 11 % 2 ^ 45 * 2 ^ 11
def tagPin (t : W64) : Bool := t.getLsbD 0
def mkTag (st age va : Nat) (pin : Bool) : W64 :=
  BitVec.ofNat 64 (st * 2 ^ 62 + age * 2 ^ 56 + va % 2 ^ 56 / 2 ^ 11 * 2 ^ 11 + if pin then 1 else 0)

def Team.tagAt (t : Team) (l : Nat) : W64 := kvGet 0 t.tags l

/-- The line a tlook finds: lowest clean or dirty match, else lowest filling match, else the victim hint. -/
def Team.look (t : Team) (va : Nat) : Option Nat × W64 :=
  let ls := List.range t.scrl
  let hit := ls.find? fun l => decide (2 ≤ tagState (t.tagAt l)) && tagVa (t.tagAt l) == va
  let fil := ls.find? fun l => tagState (t.tagAt l) == 1 && tagVa (t.tagAt l) == va
  match hit, fil with
  | some l, _ => (some l, bv l)
  | none, some l => (some l, bv (2 ^ 62 + l))
  | none, none =>
    let vic := ls.foldl (fun (b : Option Nat) l =>
      if tagState (t.tagAt l) != 2 || tagPin (t.tagAt l) then b
      else match b with
        | none => some l
        | some k => if tagAge (t.tagAt k) < tagAge (t.tagAt l) then some l else some k) none
    (none, bv (2 ^ 63 + vic.getD 0x7FF))

/-- The tags after a tlook: AGE 0 in a clean or dirty match, one more in every other valid line. -/
def Team.ageTags (t : Team) (hit : Option Nat) : Team :=
  (List.range t.scrl).foldl (fun t l =>
    let x := t.tagAt l
    if hit = some l then (if 2 ≤ tagState x then t.tag l fun x => mkTag (tagState x) 0 (tagVa x) (tagPin x) else t)
    else if tagState x = 0 then t
    else t.tag l fun x => mkTag (tagState x) (if tagAge x < 63 then tagAge x + 1 else 63) (tagVa x) (tagPin x)) t

/-- tlook is performed at issue and its result written at once (R135; timing log 6). -/
def execTlook (t d : BitVec 9) (s : State) : Host.Outcome State Fault Refusal :=
  s.run (s.asyncWord t.toNat true 0 (
    match s.team? with
    | none => .trap 0x15 s.exec' s.wordAux
    | some k =>
      let (hit, v) := k.look ((s.rd d.toNat).toNat % 2 ^ 56 / 2 ^ 11 * 2 ^ 11)
      .ok ((s.modTeam fun k => k.ageTags hit).wr t.toNat v)))

/-- The reserved bits of a line register are zero (R136); bit 16 is a field of `tfill` alone. -/
def lineBits (v : W64) (pin : Bool) : Bool :=
  !(decide (v.toNat / 1024 % 64 ≠ 0) || decide (v.toNat / 2 ^ 17 ≠ 0) || (!pin && v.getLsbD 16))

/-- The line a line register names; cause 0x15 outside 0 to SCRL − 1, with the register's value (DESIGN CHOICE, log 54: the
spec names no value of s509 here). -/
def State.lineOk (s : State) (v : W64) (r : Nat → Res State) : Res State :=
  match s.team? with
  | none => .trap 0x15 s.exec' v
  | some t => if t.scrl ≤ v.toNat % 1024 then .trap 0x15 s.exec' v else r (v.toNat % 1024)

def State.setTag (s : State) (team line : Nat) (x : W64) : State :=
  { s with teams := alMod s.teams team fun t => t.tag line fun _ => x }

def execTfill (t d : BitVec 9) (a : BitVec 7) (s : State) : Host.Outcome State Fault Refusal :=
  let v := s.rd a.toNat
  let va := s.rd d.toNat
  s.run (s.asyncWord t.toNat (lineBits v true) s.wordAux (s.lineOk v fun l =>
    if va.toNat % 2048 ≠ 0 then .trap 0x09 s.exec' va
    else (s.enterQueue 6 t.toNat { s.engOp 9 with addr := va, line := l, total := 256 }).bind fun s =>
      .ok (s.setTag s.cur.g.team l (mkTag 1 0 va.toNat (v.getLsbD 16)))))

def execTevict (t : BitVec 9) (a : BitVec 7) (s : State) : Host.Outcome State Fault Refusal :=
  s.run (s.asyncWord t.toNat (lineBits (s.rd a.toNat) false) s.wordAux (s.lineOk (s.rd a.toNat) fun l =>
    s.enterQueue 6 t.toNat { s.engOp 10 with line := l }))

def execTinval (t : BitVec 9) (a : BitVec 7) (s : State) : Host.Outcome State Fault Refusal :=
  s.run (s.asyncWord t.toNat (lineBits (s.rd a.toNat) false) s.wordAux (s.lineOk (s.rd a.toNat) fun l =>
    .ok ((s.modTeam fun k => k.tag l fun x => mkTag 0 (tagAge x) (tagVa x) (tagPin x)).wr t.toNat (bv (2 ^ 63)))))

/-! ## Element accesses (R122, R127; 15, R263) -/

/-- An access that has been translated: the entries its walk passed, what it does there, and its physical address. -/
structure Visit where
  path : List Nat
  need : Need
  pa   : Nat

/-- What comes of an element, each with the accesses made: its result; a failure, with the bounds it had left before; or
remote data still to come. -/
inductive EngRes (α : Type) where
  | ok (a : α) (seen : List Visit)
  | fail (cause : Nat) (addr : W64) (seen : List Visit) (hits : List Nat)
  | ask (x : Nat)

def EngRes.bind {α β : Type} (r : EngRes α) (f : α → EngRes β) : EngRes β :=
  match r with
  | .ok a w =>
    match f a with
    | .ok b w' => .ok b (w ++ w')
    | .fail c x w' h => .fail c x (w ++ w') h
    | .ask x => .ask x
  | .fail c x w h => .fail c x w h
  | .ask x => .ask x

def EngRes.pure {α : Type} (a : α) : EngRes α := .ok a []

/-- A failure before any access. -/
def EngRes.stop {α : Type} (cause : Nat) (addr : W64) : EngRes α := .fail cause addr [] []

/-- A failure keeps the bounds that the element had left before it (21, R362). -/
def EngRes.noting {α : Type} (r : EngRes α) (hits : List Nat) : EngRes α :=
  match r with
  | .fail c x w h => .fail c x w (h ++ hits)
  | r => r

/-- Where an element lies: a virtual address, or a byte of the line space a scratchpad base names. -/
def State.engAt (s : State) (o : EngOp) (spad : Bool) (base off : W64) (size : Nat) (n : Need) : EngRes Target :=
  if spad then
    match s.spadTarget o.team base 4 with
    | .error c => .stop c base
    | .ok (k, byte) =>
      let p := (byte : Int) + off.toInt
      let lines := match alFind s.teams k with
        | some t => t.scrl * 2048
        | none => 0
      if p < 0 ∨ (lines : Int) < p + size then .stop 0x15 (base + BitVec.ofInt 64 (off.toInt / 2)) else .pure (.spad k p.toNat)
  else
    let a := base + off
    if a.toNat % size ≠ 0 then .stop 0x09 a
    else
      match s.translateIn o.core o.ctx a n false with
      | .error c => .stop c a
      | .ok t => .ok (.mem t.pa t.hc) [⟨t.path, n, t.pa⟩]

/-- A value of `size` bytes at a target, read at its home; `a` the address a failure names. -/
def State.engGet (s : State) (o : EngOp) (t : Target) (size : Nat) (a : W64) : EngRes Nat :=
  match t with
  | .spad k p => .pure (leNat (s.spadRead k p size))
  | .slot _ _ => .pure 0
  | .home _ => .pure 0
  | .mem pa _ =>
    match homeOf pa with
    | some h =>
      if s.poisoned pa then .stop 0x0A a else .pure (picked pa size (readDword (s.views.get h) (pa / 8 * 8))).toNat
    | none =>
      match alFind o.got (pa / 8 * 8) with
      | some (some v) => .pure (picked pa size v).toNat
      | some none => .stop 0x0A a
      | none => .ask (pa / 8 * 8)

/-- An element read. -/
def State.engRead (s : State) (o : EngOp) (spad : Bool) (base off : W64) (size : Nat) : EngRes Nat :=
  (s.engAt o spad base off size .read).bind fun t => s.engGet o t size (base + off)

/-- A source element of a launch's snapshot where it has one of the block, of memory otherwise (R132). -/
def State.engSnap (s : State) (o : EngOp) (tcb : Nat) (base off : W64) (size : Nat) : EngRes Nat :=
  (s.engAt o false base off size .read).bind fun t =>
    match t with
    | .mem pa _ =>
      match s.snaps.find? fun p => p.tcb == tcb && p.block == blockOf pa && regionOf pa == 0 with
      | some p =>
        if p.poison.any fun q => q.burst == burstOf pa then .stop 0x0A (base + off)
        else .pure (leNat (readBytes p.cells pa size))
      | none => s.engGet o t size (base + off)
    | _ => s.engGet o t size (base + off)

/-- A write: where, size, value, and the address a failure of it names. -/
structure Put where
  tgt  : Target
  size : Nat
  val  : Nat
  va   : W64

/-- Writes of an element, with what it adds to the result: flags, count, bounds left, a repeated index's value. -/
structure ElemOut where
  puts   : List Put
  flags  : W64
  count  : Nat
  hits   : List Nat
  served : List (Nat × Nat)

def ElemOut.one (t : Target) (size v : Nat) (va : W64) : ElemOut := ⟨[⟨t, size, v, va⟩], 0, 0, [], []⟩

/-! ## The members' elements (R124, R131, R133, R134) -/

/-- A source element of `cpy` at an offset: of memory or scratchpad, or of a snapshot with SNAP (R132). -/
def State.engSource (s : State) (o : EngOp) (off : W64) (size : Nat) : EngRes Nat :=
  if cBit o.ctrl 25 then s.engSnap o (dAux o.desc).toNat (dSrc o.desc) off size
  else s.engRead o (cBit o.ctrl 27) (dSrc o.desc) off size

/-- The dense element of a 2:4 row (R124); its metadata come from memory. -/
def State.sparseEl (s : State) (o : EngOp) (i : Nat) : EngRes Nat :=
  let b := o.desc
  let e := cEsz o.ctrl
  let c := dIdx b i 0
  let g := c / 4
  let rho := dIdx b i 1 + dN b 1 * (dIdx b i 2 + dN b 2 * dIdx b i 3)
  let row := bv (dIdx b i 1) * dSS b 1 + bv (dIdx b i 2) * dSS b 2 + bv (dIdx b i 3) * dSS b 3
  (s.engRead o false (dAux b) (bv (rho * ((dN b 0 + 7) / 8) + g / 2)) 1).bind fun m =>
    let nib := m / 2 ^ (4 * (g % 2)) % 16
    let val := fun k => s.engSource o (bv ((2 * g + k) * e) + row) e
    if nib / 4 = c % 4 then val 1 else if nib % 4 = c % 4 then val 0 else .pure 0

/-- An element written. -/
def State.engOut (s : State) (o : EngOp) (spad : Bool) (base off : W64) (size v : Nat) : EngRes ElemOut :=
  (s.engAt o spad base off size .write).bind fun t => .pure (.one t size v (base + off))

def State.cpyEl (s : State) (o : EngOp) (i : Nat) : EngRes ElemOut :=
  let b := o.desc
  let c := o.ctrl
  let e := cEsz c
  (if cBit c 24 then s.sparseEl o i else s.engSource o (srcOff b e i) e).bind fun v =>
    s.engOut o (cBit c 26) (dDst b) (dstOff b (cField c 20 4) e i) e v

/-- Index k of the index array, and whether it is in bounds (06, R117). -/
def State.indexAt (s : State) (o : EngOp) (k : Nat) : EngRes (Int × Bool) :=
  (s.engRead o false (dAux o.desc) (bv (8 * k)) 8).bind fun v =>
    let i := (BitVec.ofNat 64 v).toInt
    .pure (i, decide (0 ≤ i) && decide (i < (cField o.ctrl 32 32 : Nat)))

/-- Indices that repeat within one descriptor are served by one access (06, R117). -/
def State.gathEl (s : State) (o : EngOp) (k : Nat) : EngRes ElemOut :=
  let e := cEsz o.ctrl
  (s.indexAt o k).bind fun (i, inb) =>
    (if !inb then EngRes.pure (dNum o.desc 24 8 % 2 ^ (8 * e))
     else match alFind o.served i.toNat with
      | some v => EngRes.pure v
      | none => s.engRead o false (dSrc o.desc) (bv (i.toNat * e)) e).bind fun v =>
      (s.engOut o (cBit o.ctrl 26) (dDst o.desc) (bv (k * e)) e v).bind fun r =>
        .pure { r with flags := flagIf (!inb) fGR, served := if inb then [(i.toNat, v)] else [] }

def State.scatEl (s : State) (o : EngOp) (k : Nat) : EngRes ElemOut :=
  let e := cEsz o.ctrl
  (s.indexAt o k).bind fun (i, inb) =>
    if !inb then .pure ⟨[], fGR, 0, [], []⟩
    else
      (s.engRead o (cBit o.ctrl 27) (dSrc o.desc) (bv (k * e)) e).bind fun v =>
        (s.engOut o false (dDst o.desc) (bv (i.toNat * e)) e v).bind fun r => .pure { r with count := 1 }

/-- One op word of `chain` on a value: the value with its flags, none at a trapping bound, and the bound it left. -/
def chainOp (c : W64) (tb : List W64) (x : Nat) : Option (Nat × W64) × List Nat :=
  let k := cField c 0 32
  let op := cField c 56 8
  let fl := fun (r : Nat × W64) => (some r, ([] : List Nat))
  if op = 1 then fl (fp32.bin addNum x k)
  else if op = 2 then fl (fp32.bin Num.mul x k)
  else if op = 3 then fl (pick32 Num.max x k)
  else if op = 4 then fl (pick32 Num.min x k)
  else if op = 5 then fl (actEl 1 x)
  else if op = 6 then fl (sexpEl x)
  else if op = 7 then fl (stanhEl x)
  else if op = 8 then fl (ssigmEl x)
  else
    let b := parseBound tb false
    if b.has x then (some (x, 0), [])
    else match b.act with
      | .trap => (none, [])
      | .clamp => (some (b.clamp x, 0), [])
      | .flag => (some (x, 0), [cField c 32 6])

/-- The op words in turn; the bounds left are kept where a later one traps (21, R362). -/
def chainOps : List W64 → List (List W64) → Nat → Option (Nat × W64) × List Nat
  | [], _, x => (some (x, 0), [])
  | c :: cs, tbs, x =>
    match chainOp c (tbs.headD []) x with
    | (none, h) => (none, h)
    | (some (y, f), h) =>
      let (r, h') := chainOps cs tbs.tail y
      (r.map fun z => (z.1, f ||| z.2), h ++ h')

/-- The op words are legal (R133). -/
def chainCodeOk (c : W64) : Bool :=
  ((decide (1 ≤ cField c 56 8) && decide (cField c 56 8 ≤ 8)) || cField c 56 8 == 0x10) && cField c 38 18 == 0

def State.chainEl (s : State) (o : EngOp) (i : Nat) : EngRes ElemOut :=
  let b := o.desc
  let c := o.ctrl
  let se := if cField c 11 3 = 0 then 4 else 2
  let de := [4, 2, 1].getD (cField c 8 3) 4
  (s.engRead o (cBit c 27) (dSrc b) (srcOff b se i) se).bind fun v =>
    let (x, f0) := if se = 4 then (v, (0 : W64)) else fp32.round (bf16.decode v)
    match chainOps o.codes o.tbs x with
    | (none, h) =>
      (EngRes.stop 0x0F (if cBit c 27 then dSrc b + BitVec.ofInt 64 ((srcOff b se i).toInt / 2) else dSrc b + srcOff b se i)).noting
        h.eraseDups
    | (some (y, f), h) =>
      let (z, f') := if de = 4 then (y, (0 : W64)) else if de = 2 then bf16.round (fp32.decode y)
        else Fmt8.e4m3.round (fp32.decode y)
      ((s.engOut o (cBit c 26) (dDst b) (dstOff b 0 de i) de z).bind fun r =>
        .pure { r with flags := f0 ||| f ||| f', hits := h.eraseDups }).noting h.eraseDups

/-- op(dst, src) of `coll` (R134). -/
def collOp (op ty d x : Nat) : Nat :=
  let w := [32, 64, 32, 16].getD ty 32
  if op = 0 then x
  else if ty ≤ 1 then
    if op = 1 then (d + x) % 2 ^ w else if (op = 2) = (sx w x < sx w d) then x else d
  else
    let f := if ty = 2 then fp32 else bf16
    (f.round ((if op = 1 then addNum else if op = 2 then Num.min else Num.max) (f.decode d) (f.decode x))).1

def State.collEl (s : State) (o : EngOp) (i : Nat) : EngRes ElemOut :=
  let b := o.desc
  let c := o.ctrl
  let e := [4, 8, 4, 2].getD (cField c 11 3) 4
  let copy := cField c 14 4 == 0
  (s.engRead o (cBit c 27) (dSrc b) (srcOff b e i) e).bind fun x =>
    (s.engAt o (cBit c 26) (dDst b) (dstOff b 0 e i) e (if copy then .write else .both)).bind fun t =>
      (if copy then .pure 0 else s.engGet o t e (dDst b + dstOff b 0 e i)).bind fun d =>
        .pure (.one t e (collOp (cField c 14 4) (cField c 11 3) d x) (dDst b + dstOff b 0 e i))

/-- Unit k of a line fill or write-back (R136). -/
def State.lineEl (s : State) (o : EngOp) (k : Nat) : EngRes ElemOut :=
  let p := o.line * 2048 + 8 * k
  if o.code = 9 then
    (s.engRead o false o.addr (bv (8 * k)) 8).bind fun v => .pure (.one (.spad o.team p) 8 v 0)
  else s.engOut o false o.addr (bv (8 * k)) 8 (leNat (s.spadRead o.team p 8))

def State.engEl (s : State) (o : EngOp) (i : Nat) : EngRes ElemOut :=
  if o.code = 1 then s.cpyEl o i
  else if o.code = 2 then s.gathEl o i
  else if o.code = 3 then s.scatEl o i
  else if o.code = 4 then s.chainEl o i
  else if o.code = 12 then s.collEl o i
  else s.lineEl o i

/-! ## The engines' steps -/

/-- What becomes of a write of an engine, loader or storer: numbers of stamped writes, remote writes on their way, bytes
on their way to a scratchpad. -/
structure Sent where
  writes : List Nat
  remote : List (Nat × W64)
  out    : List (Nat × Nat × Byte)

/-- A value of at most 8 bytes within a dword written by an engine, loader or storer: stamped by the die of its core, sent
to another package, or on its way to a scratchpad byte by byte (02, R18). -/
def State.engPut (s : State) (core op : Nat) (tcb : Option Nat) (p : Put) : State × Sent :=
  match p.tgt with
  | .spad k n => (s, ⟨[], [], (List.range p.size).map fun i => (k, n + i, BitVec.ofNat 8 (p.val / 2 ^ (8 * i)))⟩)
  | .slot _ _ => (s, ⟨[], [], []⟩)
  | .home _ => (s, ⟨[], [], []⟩)
  | .mem pa _ =>
    match homeOf pa with
    | some _ => (s.stampWrite (core / 48) (pa / 8 * 8) (accMask pa p.size) (placed pa (bv p.val)) tcb, ⟨[s.nextId], [], []⟩)
    | none => (s.sendFrom (core / 48) (pkgOf pa) (.write (pa / 8 * 8) (accMask pa p.size) (placed pa (bv p.val)) 0 op),
        ⟨[], [(pa / 8 * 8, p.va)], []⟩)

/-- Several writes, in order. -/
def State.engPuts (s : State) (core op : Nat) (tcb : Option Nat) : List Put → State × Sent
  | [] => (s, ⟨[], [], []⟩)
  | p :: t =>
    let (s, a) := s.engPut core op tcb p
    let (s, b) := s.engPuts core op tcb t
    (s, ⟨a.writes ++ b.writes, a.remote ++ b.remote, a.out ++ b.out⟩)

/-- Bytes on their way reach their scratchpads. -/
def State.land (s : State) (l : List (Nat × Nat × Byte)) : State := l.foldl (fun s b => s.spadWrite b.1 b.2.1 [b.2.2]) s

/-- Uncorrectable data met at a virtual address, or in a table entry on the way to it, are counted by their Cupola (04, R75). -/
def State.poisonMet (s : State) (o : EngOp) (cause : Nat) (va : W64) : State :=
  if cause ≠ 0x0A then s
  else match s.readPa o.core none o.ctx va .read with
    | some pa => s.poisonRead pa
    | none => s

/-- The accesses of an element made: their walks marked (06, R101), their banks accessed (04, R69). -/
def State.markNeeds (s : State) (l : List Visit) : State := l.foldl (fun s v => (s.markWalk v.path v.need).touchBank v.pa) s

/-- Every access of an element may go to its Cupola and be performed there (04, R66, R69). -/
def State.reachable (s : State) (core : Nat) (l : List Visit) : Bool := l.all fun v => s.dramReady (core / 48) v.pa

/-- The head of a queue changed. -/
def State.modHead (s : State) (core q : Nat) (f : EngOp → EngOp) : State :=
  s.modCore core fun c => match c.queue q with
    | o :: t => { c with eq := kvPut [] c.eq q (f o :: t) }
    | [] => c

/-- Bounds that an element has left, each counted once (21, R362). -/
def EngOp.addHits (o : EngOp) (l : List Nat) : EngOp := { o with hits := o.hits ++ l.filter fun h => !o.hits.contains h }

/-- Element i fails: elements before it are still performed, and an earlier one that fails takes its place (R127). -/
def EngOp.failAt (o : EngOp) (i cause : Nat) (addr : W64) : EngOp :=
  { o with cause := cause, fail := i, fva := addr, started := true, asks := none, got := []
           ahead := o.ahead.filter fun k => decide (k < i) }

/-- Element i fails, after the accesses it has made. -/
def State.engFail (s : State) (core q i cause : Nat) (o : EngOp) (addr : W64) (seen : List Visit) (hits : List Nat) : State :=
  ((s.poisonMet o cause addr).markNeeds seen).modHead core q fun o => (o.failAt i cause addr).addHits hits

/-- The operation's slice, seen from its op in program order. -/
def State.opOf (s : State) (id : Nat) : Option (Slice × Op) :=
  ((s.cur :: s.others).filterMap fun r =>
    match r.sl.op? id with
    | some o => some (r.sl, o)
    | none => match r.g.companion with
      | some x => (x.op? id).map fun o => (x, o)
      | none => none).head?

/-- An earlier qfence of the slice names the queue and has not completed (15, R267). -/
def State.fenced (s : State) (q : Nat) (o : EngOp) : Bool :=
  match s.opOf o.id with
  | none => false
  | some (x, p) => x.ops.any fun f => decide (f.seq < p.seq) && match f.kind with
      | .fence _ _ _ _ qs => qs.getLsbD q
      | _ => false

/-- What an operation reads before its first element: `chain` its op words and bounds. -/
def State.chainCodes (s : State) (o : EngOp) : Nat → EngRes (List W64 × List (List W64))
  | 0 => .pure ([], [])
  | n + 1 =>
    let k := cField o.ctrl 14 4 - (n + 1)
    (s.engRead o false (dAux o.desc) (bv (8 * k)) 8).bind fun v =>
      let c := bv v
      (if cField c 56 8 = 0x10 then
        let base := ((alFind s.ctxs o.ctx).map (·.r.boundTab)).getD 0 + bv (32 * cField c 32 6)
        (s.engRead o false base 0 8).bind fun a => (s.engRead o false base 8 8).bind fun b =>
          (s.engRead o false base 16 8).bind fun d => (s.engRead o false base 24 8).bind fun e =>
            EngRes.pure [bv a, bv b, bv d, bv e]
       else .pure []).bind fun tb =>
        (s.chainCodes o n).bind fun (cs, ts) => .pure (c :: cs, tb :: ts)

/-- The head operation of a queue takes its first step. One that ends here with cause 0x02 (R132, R133) writes AUX to FAULTVA
(DESIGN CHOICE, log 54: R127 and R133 give that cause no address). -/
def State.engBegin (s : State) (core q : Nat) (o : EngOp) : State :=
  let go := fun (s : State) (f : EngOp → EngOp) => s.modHead core q fun o => { f o with started := true }
  if o.code = 1 ∧ cBit o.ctrl 25 then
    match alFind s.tcbs (dAux o.desc).toNat with
    | none => s.engFail core q 0 0x02 o (dAux o.desc) [] []
    | some t => if t.st ≠ .running ∨ t.unprot ∨ t.ctx ≠ o.ctx then s.engFail core q 0 0x02 o (dAux o.desc) [] [] else go s id
  else if o.code = 4 then
    match s.chainCodes o (cField o.ctrl 14 4) with
    | .ok (cs, ts) w =>
      if !s.reachable core w then s
      else if cs.all chainCodeOk then go (s.markNeeds w) fun o => { o with codes := cs, tbs := ts }
      else s.engFail core q 0 0x02 o (dAux o.desc) w []
    | .fail c a w _ => if !s.reachable core w then s else s.engFail core q 0 c o a w []
    | .ask x => (s.sendFrom (core / 48) (pkgOf x) (.load x 0 o.id 0))
  else if o.code = 10 then
    let t := match alFind s.teams o.team with
      | some t => t.tagAt o.line
      | none => 0
    go s fun o => { o with total := if tagState t = 3 then 256 else 0, addr := bv (tagVa t) }
  else go s id

/-- The elements to perform: all, or those before the first failure. -/
def EngOp.limit (o : EngOp) : Nat := if o.cause = 0 then o.total else o.fail

/-- The next element not performed, past those performed ahead of it. -/
def skipDone : Nat → Nat → List Nat → Nat × List Nat
  | 0, k, l => (k, l)
  | n + 1, k, l => if l.contains k then skipDone n (k + 1) (l.filter (· != k)) else (k, l)

/-- Element i performed. -/
def EngOp.done (o : EngOp) (i : Nat) : EngOp :=
  if i ≠ o.next then { o with ahead := o.ahead ++ [i] }
  else
    let (k, l) := skipDone o.ahead.length (o.next + 1) o.ahead
    { o with next := k, ahead := l }

/-- An earlier element of a `scat` that is still to come has the same index, or cannot be told apart (06, R117). -/
def State.scatBefore (s : State) (o : EngOp) (i : Nat) : Bool :=
  o.code == 3 && (List.range (i - o.next)).any fun d =>
    !o.ahead.contains (o.next + d) && match s.indexAt o (o.next + d), s.indexAt o i with
      | .ok a _, .ok b _ => a.1 == b.1
      | _, _ => true

/-- A trapping bound of `chain`: nothing at or after an element that fails is written, so elements go in order (R127). -/
def EngOp.trapping (o : EngOp) : Bool :=
  o.code == 4 && o.tbs.any fun tb => tb != [] && (parseBound tb false).act == .trap

/-- The element performed next: any that is to come (R131), but for the order of R117 and of a trapping bound; one that
waits for remote data goes on. -/
def State.pickEl (s : State) (o : EngOp) : Nat :=
  match o.asks with
  | some i => if i < o.limit then i else o.next
  | none =>
    let i := o.next + Config.pick s.tick % (o.limit - o.next)
    if o.trapping || o.ahead.contains i || s.scatBefore o i then o.next else i

/-- A byte on its way is one of those that writes of an element replace. -/
def Put.covers (p : Put) (b : Nat × Nat × Byte) : Bool :=
  match p.tgt with
  | .spad k n => b.1 == k && decide (n ≤ b.2.1) && decide (b.2.1 < n + p.size)
  | _ => false

/-- The scratchpad bytes on their way to places that element i writes arrive, so that each byte has its elements in order;
the others stay on their way (02, R18). -/
def State.landFor (s : State) (core q : Nat) (o : EngOp) (i : Nat) : State :=
  match s.engEl o i with
  | .ok e _ =>
    (s.land (o.out.filter fun b => e.puts.any fun p => p.covers b)).modHead core q fun o =>
      { o with out := o.out.filter fun b => !(e.puts.any fun p => p.covers b) }
  | _ => s

/-- Element i is performed. -/
def State.engElement (s : State) (core q i : Nat) (o : EngOp) : State :=
  match s.engEl o i with
  | .fail c a w h => if !s.reachable core w then s else s.engFail core q i c o a w h
  | .ask x => (s.sendFrom (core / 48) (pkgOf x) (.load x 0 o.id 0)).modHead core q fun o => { o with asks := some i }
  | .ok e w =>
    if !s.reachable core w then s
    else
      let (s, r) := (s.markNeeds w).engPuts core o.id (some o.tcb) e.puts
      ({ s with tick := s.tick + 1 } : State).modHead core q fun o =>
        ({ o.done i with
          asks := none, got := [], served := o.served ++ e.served, out := o.out ++ r.out, writes := o.writes ++ r.writes
          remote := o.remote ++ r.remote.map fun x => (x.1, i, x.2)
          value := o.value + e.count, fflg := o.fflg ||| e.flags } : EngOp).addHits e.hits

/-- One more element is performed. -/
def State.engStep (s : State) (core q : Nat) (o : EngOp) : State :=
  (s.landFor core q o (s.pickEl o)).engElement core q (s.pickEl o) o

/-- A launch is to be rolled back: what its engines, loaders and storers have not begun is discarded (21, R370, step 1). -/
def State.rollsBack (s : State) (tcb : Nat) : Bool :=
  match alFind s.tcbs tcb with
  | some t => t.rolling && !t.failed
  | none => false

/-- A team is being pre-empted, is saved, or is to be rolled back: its engine operations, loaders and storers begin nothing
new (20, R356; 21, R370). -/
def State.paused (s : State) (team : Nat) : Bool :=
  match alFind s.teams team with
  | some t => t.stop != 0 || s.rollsBack t.tcb
  | none => true

/-- An engine operation that has not started may not begin: on a halted die (22, R385), of a launch that is to be rolled back
(21, R370), or of a team that is pre-empted, but for one that an issued fence waits for (20, R356). -/
def State.mayNotBegin (s : State) (core : Nat) (o : EngOp) (asked : Bool) : Bool :=
  s.halted.contains (core / 48) || s.rollsBack o.tcb || (s.paused o.team && !asked)

/-- A fence of the slice that issued an engine operation waits for it (15, R267). -/
def Slice.fenceAsks (x : Slice) (q id : Nat) : Bool :=
  match x.ops.find? fun o => o.id == id with
  | none => false
  | some p => x.ops.any fun o => decide (p.seq < o.seq) && match o.kind with
    | .fence rel _ _ _ qs => rel && qs.getLsbD q
    | _ => false

/-- An operation of the queue has to begin for an issued fence to complete: pre-emption lets it (20, R356, step 2). -/
def State.fenceAsks (s : State) (core q : Nat) : Bool :=
  ((s.core core).queue q).any fun o => (s.cur :: s.others).any fun r =>
    r.sl.fenceAsks q o.id || r.g.companion.any fun x => x.fenceAsks q o.id

/-- ENGINE_OP_START (R119; 15, R263): the head operation of a queue takes a step: its first, then element after element. -/
def execEngineOpStart (core q : Nat) (s : State) : Host.Outcome State Fault Refusal :=
  match (s.core core).queue q with
  | [] => .next s
  | o :: _ =>
    if s.asking o.id then .next s
    else if !o.started then
      if o.afts.any s.opOut || s.fenced q o || s.mayNotBegin core o (s.fenceAsks core q) then .next s
      else .next (s.engBegin core q o)
    else if o.limit ≤ o.next then .next s
    else .next (s.engStep core q o)

/-- VALUE on success (R130). -/
def EngOp.result (o : EngOp) : Nat :=
  if o.code = 3 then o.value else if o.code = 9 then 2048 else if o.code = 10 then 8 * o.total else o.total

def EngOp.token (o : EngOp) : W64 :=
  if o.cause = 0 then bv (2 ^ 63 + o.result % 2 ^ 56) else bv (2 ^ 63 + o.cause * 2 ^ 56 + o.fail % 2 ^ 56)

/-- The tag of the line at the end of a fill or write-back (R136).  While a later fill of the line waits, the line stays
filling (DESIGN CHOICE, log 54: the spec does not say which state it shows between the two). -/
def State.lineDone (s : State) (o : EngOp) (rest : List EngOp) : State :=
  let t := match alFind s.teams o.team with
    | some t => t.tagAt o.line
    | none => 0
  if o.code = 9 then
    if tagState t ≠ 1 ∨ rest.any fun p => p.code == 9 && p.team == o.team && p.line == o.line then s
    else s.setTag o.team o.line (mkTag (if o.cause = 0 then 2 else 0) (tagAge t) (tagVa t) (tagPin t))
  else if o.code = 10 then
    if o.cause ≠ 0 ∨ tagState t < 2 then s else s.setTag o.team o.line (mkTag 0 (tagAge t) (tagVa t) (tagPin t))
  else s

/-- Writes of an engine, loader or storer applied at their homes and at the die of the issuing core (15, R263). -/
def State.applied (s : State) (core : Nat) (ws : List Nat) : Bool :=
  ws.all fun w => s.appliedAt w (core / 48) && match s.writes.find? fun p => p.id == w with
    | some p => p.at'.getLsbD ((homeOf p.x).getD 4)
    | none => true

/-- FAULTVA of the memory descriptor of an operation that has failed is written (R127). -/
def State.engTell (s : State) (core q : Nat) (o : EngOp) : State :=
  let s := s.modHead core q fun o => { o with told := true }
  match s.translateIn o.core o.ctx (o.dva + 32) .write false with
  | .error _ => s
  | .ok t =>
    let (s, r) := (s.markWalk t.path .write).engPut core o.id (some o.tcb) ⟨.mem t.pa t.hc, 8, o.fva.toNat, o.dva + 32⟩
    s.modHead core q fun o => { o with writes := o.writes ++ r.writes, remote := o.remote ++ r.remote.map fun x => (x.1, o.fail, x.2) }

/-- The writes of an operation that some agent has not applied stay behind it: a later `qfence` of its slice that names the
queue waits for them (15, R267). -/
def State.leaveBehind (s : State) (q : Nat) (o : EngOp) : State :=
  s.onOp o.id fun r p => { r with sl := { r.sl with behind := r.sl.behind ++ o.writes.map fun w => (q, p.seq, w) } }

/-- ENGINE_OP_COMPLETE (R125, R127, R131): the head operation has performed its elements and its writes are applied: after a
failure FAULTVA first; then token, flags, line tag, and the HITS of the bounds it found values outside (21, R362). -/
def execEngineOpComplete (core q : Nat) (s : State) : Host.Outcome State Fault Refusal :=
  match (s.core core).queue q with
  | [] => .next s
  | o :: rest =>
    if !o.started || decide (o.next < o.limit) || o.remote != [] || !s.applied core o.writes then .next s
    else if o.cause ≠ 0 ∧ !o.told ∧ o.desc ≠ [] then .next (s.engTell core q o)
    else
      let s := ((s.land o.out).modCore core fun c => { c with eq := kvPut [] c.eq q rest }).lineDone o rest
      let s := s.onOp o.id fun r _ => { r with g := { r.g with fflg := r.g.fflg ||| o.fflg } }
      let s := o.hits.foldl (fun s h => s.onSlice o.grp o.slice fun s => s.hit h 0) s
      .next ((s.leaveBehind q o).completeOp o.id o.token).settle

end Sys2Proof.Machine
end

