-- ==== Sys2Proof/Machine/Streams.lean ====
section
/-! DEFINITION. Loaders and storers: ringsub, unsub, pull; operand queues: oldu, oldg; and their steps (07, R137-R143). -/

namespace Sys2Proof.Machine

/-! ## Shared parts -/

def State.teamCore (s : State) (team : Nat) : Nat :=
  match alFind s.teams team with
  | some t => t.core
  | none => 0

def State.ringOf (s : State) (team n : Nat) : Option Ring :=
  match alFind s.teams team with
  | some t => kvGet none t.ringst n
  | none => none

def State.modRing (s : State) (team n : Nat) (f : Ring → Ring) : State :=
  { s with teams := alMod s.teams team fun t => match kvGet none t.ringst n with
      | some r => { t with ringst := kvPut none t.ringst n (some (f r)) }
      | none => t }

/-- A loader or storer as an engine operation, for the accesses of its item. -/
def State.streamOp (s : State) (x : Streamer) : EngOp :=
  { s.engOp 0 with id := x.id, desc := x.desc, dva := x.dva, grp := 0, team := x.team, core := s.teamCore x.team,
                   ctx := x.ctx, tcb := x.tcb, got := x.got }

/-- The units of an item of `n` bytes: four bytes each, then the bytes that are left (log 13). -/
def unitsOf (n : Nat) : List (Nat × Nat) :=
  ((List.range (n / 4)).map fun k => (4 * k, 4)) ++ ((List.range (n % 4)).map fun k => (n / 4 * 4 + k, 1))

/-- One result for each unit, in order. -/
def engList {α β : Type} (f : α → EngRes β) : List α → EngRes (List β)
  | [] => .pure []
  | a :: t => (f a).bind fun b => (engList f t).bind fun bs => .pure (b :: bs)

def State.modStream (s : State) (id : Nat) (f : Streamer → Streamer) : State :=
  { s with streams := s.streams.map fun x => if x.id = id then f x else x }

def State.dropStream (s : State) (id : Nat) : State := { s with streams := s.streams.filter fun x => x.id != id }

/-- FAULTVA of a loader's or storer's descriptor (R138, R127). -/
def State.streamFault (s : State) (x : Streamer) (addr : W64) : State :=
  let o := s.streamOp x
  match s.translateIn o.core o.ctx (x.dva + 32) .write false with
  | .error _ => s
  | .ok t =>
    let (s, r) := (s.markWalk t.path .write).engPut o.core x.id (some x.tcb) ⟨.mem t.pa t.hc, 8, addr.toNat, x.dva + 32⟩
    s.modStream x.id fun x => { x with writes := x.writes ++ r.writes, remote := x.remote ++ r.remote }

/-- A token of a word without a failure (R125). -/
def okToken (v : Nat) : W64 := bv (2 ^ 63 + v % 2 ^ 56)

/-- The stack that holds the first byte at a VA; a free pick where the VA names no byte of this package's DRAM, of which
the spec names no stack (log 13). -/
def State.stackOfVa (s : State) (va : W64) : Nat :=
  match s.translate va .read with
  | .ok t => if homeOf t.pa = some 4 ∨ homeOf t.pa = none then Config.pick s.tick % 12 else stackOf t.pa
  | .error _ => Config.pick s.tick % 12

/-! ## ringsub (R137) -/

def ringsubOk (c : W64) : Bool :=
  cField c 48 16 == 0 && cField c 0 16 == 0 && decide (1 ≤ cField c 33 5) && decide (cField c 33 5 ≤ 16)
    && decide (1 ≤ cField c 24 9) && decide (cField c 24 9 ≤ 256) && decide (1 ≤ cField c 16 4)

/-- The ring a control word describes, as it is when bound. -/
def ringFrom (c : W64) : Ring :=
  { basel := cField c 38 10, cln := cField c 33 5, ncell := cField c 24 9, ncons := cField c 16 4, counter := 0,
    cursors := [], seqs := [], claimed := [], storers := [] }

def Ring.sameShape (r q : Ring) : Bool := r.basel == q.basel && r.cln == q.cln && r.ncell == q.ncell && r.ncons == q.ncons

/-- A loader or storer for a word of the selected slice. -/
def State.newStream (s : State) (stack : Nat) (storer : Bool) (ring cons : Nat) (b : List Byte) (va : W64) (op : Nat) : State :=
  let x : Streamer :=
    { id := s.nextId, stack := stack, slot := none, storer := storer, team := s.cur.g.team, ring := ring, cons := cons,
      desc := b, dva := va, next := 0, ctx := s.cur.g.ctx, tcb := s.cur.g.tcb, op := op, item := none, got := [], out := none, sent := false,
      writes := [], remote := [], cause := 0, fva := none }
  { s with nextId := s.nextId + 1, streams := s.streams ++ [x] }

/-- The word is outstanding, its token register pending. -/
def State.issueStream (s : State) (tok : Nat) : State :=
  (s.issue (.engine 8 tok) s.setaFlag []).setSl fun x => x.pend tok

def execRingsub (t d : BitVec 9) (a : BitVec 7) (s : State) : Host.Outcome State Fault Refusal :=
  let c := s.rd a.toNat
  let va := s.rd d.toNat
  let n := cField c 20 4
  let bad : Res State := .trap 0x13 s.exec' c
  s.run (s.asyncWord t.toNat (ringsubOk c) c (
    match s.team? with
      | none => bad
      | some k =>
        if k.scrl < cField c 38 10 + cField c 24 9 * cField c 33 5 then
          .trap 0x15 s.exec' (bv (15 * 2 ^ 20 + cField c 38 10 * 2 ^ 10))
        else if !k.rings.getLsbD n then bad
        else if (match kvGet none k.ringst n with
          | some r => !r.sameShape (ringFrom c)
          | none => false) then bad
        else (s.readDesc va).bind fun (b, ps) =>
          if dN b 0 % 4 ≠ 0 ∨ dN b 0 < 4 ∨ cField c 33 5 * 2048 < dN b 0 then .trap 0x02 s.exec' s.wordAux
          else
            let s := s.markAll ps .read
            let s := s.modTeam fun k =>
              if kvGet none k.ringst n = none then { k with ringst := kvPut none k.ringst n (some (ringFrom c)) } else k
            if dN b 1 = 0 then .ok { s.wr t.toNat (okToken (Config.freeWord s.tick).toNat) with tick := s.tick + 1 }
            else
              let op := s.nextId
              .ok ((s.issueStream t.toNat).newStream (s.stackOfVa (dSrc b)) false n 0 b va op)))

/-- Loader slots of a stack that are busy. -/
def State.busySlots (s : State) (stack : Nat) : List Nat :=
  s.streams.filterMap fun x => if x.stack = stack ∧ !x.storer then x.slot else none

/-- SUBSCRIPTION_ACCEPT (R137): the Cupola gives the subscription of `op` a free slot; the token carries the handle. -/
def execSubscriptionAccept (op : Nat) (s : State) : Host.Outcome State Fault Refusal :=
  match s.streams.find? fun x => x.op == op && !x.storer && x.slot.isNone with
  | none => .next s
  | some x =>
    let free := (List.range 64).filter fun k => !(s.busySlots x.stack).contains k
    if free = [] ∨ s.paused x.team then .next s
    else
      let k := free.getD (Config.pick s.tick % free.length) 0
      let s := s.modStream x.id fun x => { x with slot := some k }
      .next { s.completeOp op (okToken (x.stack * 256 + k)) with tick := s.tick + 1 }

/-- The accepted loader, or the storer, in a slot of a stack. -/
def State.streamAt (s : State) (storer : Bool) (stack slot : Nat) : Option Streamer :=
  s.streams.find? fun x => x.storer == storer && x.stack == stack && x.slot == some slot

/-- A remote read of an item that has not come is asked for once. -/
def State.askStream (s : State) (x : Streamer) (loc : Nat) : State :=
  if s.asking x.id then s else s.sendFrom (s.teamCore x.team / 48) (pkgOf loc) (.load loc 0 x.id 0)

/-- A sequence word (R138). -/
def mkSeq (q cause : Nat) : W64 :=
  bv (2 ^ 63 + (if cause = 0 then 0 else 2 ^ 62 + cause * 2 ^ 55) + q % 2 ^ 48)

/-- Item `q` of the ring published by the loader that has claimed it. -/
def Ring.publish (r : Ring) (q cause : Nat) : Ring := { r with seqs := kvPut 0 r.seqs (r.cell q) (mkSeq q cause) }

/-- The bytes of the units, on their way to a scratchpad from byte `off` of a team up. -/
def unitBytes (team off : Nat) (us : List ((Nat × Nat) × Nat)) : List (Nat × Nat × Byte) :=
  (us.map fun u => (List.range u.1.2).map fun i => (team, off + u.1.1 + i, BitVec.ofNat 8 (u.2 / 2 ^ (8 * i)))).flatten

/-- The next tile read at its source, for item `q`: at a failing read the loader writes FAULTVA, publishes an ERR item and stops.
An address off a multiple of four fails with cause 0x09 (DESIGN CHOICE, log 13: the spec gives no alignment here). -/
def State.loaderRead (s : State) (x : Streamer) (r : Ring) (q : Nat) : State :=
  let us := unitsOf (dN x.desc 0)
  let o := s.streamOp x
  match engList (fun u => s.engRead o false (dSrc x.desc + bv x.next * dSS x.desc 1) (bv u.1) u.2) us with
  | .ask loc => s.askStream x loc
  | .fail c a w _ =>
    if !s.reachable o.core w then s
    else ((((s.poisonMet o c a).markNeeds w).streamFault x a).modRing x.team x.ring (·.publish q c)).dropStream x.id
  | .ok vs w =>
    if !s.reachable o.core w then s
    else (s.markNeeds w).modStream x.id fun x => { x with
      got := [], out := some (unitBytes x.team ((r.basel + r.cell q * r.cln) * 2048) (us.zip vs)) }

/-- A loader takes the ring's next item for its next tile: the one counter moves (R138; 19, R341). -/
def State.loaderClaim (s : State) (x : Streamer) (r : Ring) : State :=
  (s.modStream x.id fun x => { x with item := some r.counter }).modRing x.team x.ring fun r => { r with counter := r.counter + 1 }

/-- LOADER_PUBLISH (R138): the loader in a slot claims the next item once the ring has room for it, and reads its next tile;
then its bytes reach that item's cell and the item is published. -/
def execLoaderPublish (stack slot : Nat) (s : State) : Host.Outcome State Fault Refusal :=
  match s.streamAt false stack slot with
  | none => .next s
  | some x =>
    match s.ringOf x.team x.ring, x.item, x.out with
    | none, _, _ => .next s
    | some r, none, _ => if !r.roomFor r.counter || s.paused x.team then .next s else .next (s.loaderClaim x r)
    | some r, some q, none => .next (s.loaderRead x r q)
    | some _, some q, some bs =>
      let s := (s.land bs).modRing x.team x.ring (·.publish q 0)
      .next (if dN x.desc 1 ≤ x.next + 1 then s.dropStream x.id
             else s.modStream x.id fun x => { x with next := x.next + 1, item := none, out := none })

/-! ## unsub (R138) -/

/-- unsub is performed at issue; while the loader has a tile in progress it waits (log 54). -/
def execUnsub (t d : BitVec 9) (s : State) : Host.Outcome State Fault Refusal :=
  let h := (s.rd d.toNat).toNat
  s.run (s.asyncWord t.toNat true 0 (
    match if h / 2 ^ 12 ≠ 0 ∨ h / 64 % 4 ≠ 0 then none else s.streamAt false (h / 256) (h % 64) with
    | none => .ok (s.wr t.toNat (okToken 0xFF_FFFF_FFFF_FFFF))
    | some x =>
      if x.team ≠ s.cur.g.team then .ok (s.wr t.toNat (okToken 0xFF_FFFF_FFFF_FFFF))
      else if x.item.isSome then .stall
      else .ok ((s.dropStream x.id).wr t.toNat (okToken x.next))))

/-! ## pull (R139) -/

def execPull (t d : BitVec 9) (a : BitVec 7) (s : State) : Host.Outcome State Fault Refusal :=
  let c := s.rd a.toNat
  let va := s.rd d.toNat
  let n := cField c 20 4
  let k := cField c 16 4
  let bad : Res State := .trap 0x13 s.exec' c
  s.run (s.asyncWord t.toNat (decide (cField c 24 40 = 0) && decide (cField c 0 16 = 0)) c (
    match s.team? with
      | none => bad
      | some tm =>
        match if tm.rings.getLsbD n then kvGet none tm.ringst n else none with
        | none => bad
        | some r =>
          if r.ncons ≤ k ∨ r.storers.contains k then bad
          else (s.readDesc va).bind fun (b, ps) =>
            let s := s.markAll ps .read
            if dN b 1 = 0 then .ok (s.wr t.toNat (okToken 0))
            else
              let op := s.nextId
              let st := s.stackOfVa (dDst b)
              let used := s.streams.filterMap fun x => if x.stack = st ∧ x.storer then x.slot else none
              let slot := ((List.range (used.length + 1)).find? fun k => !used.contains k).getD 0
              let s := (s.issueStream t.toNat).newStream st true n k b va op
              let s := s.modStream (s.nextId - 1) fun x => { x with slot := some slot }
              .ok (s.modRing s.cur.g.team n fun r => { r with storers := r.storers ++ [k] })))

/-- A storer ends: its cursor is let go, its word completes. -/
def State.endStorer (s : State) (x : Streamer) : State :=
  ((s.modRing x.team x.ring fun r => { r with storers := r.storers.filter (· != x.cons) }).dropStream x.id).completeOp x.op
    (if x.cause = 0 then okToken x.next else bv (2 ^ 63 + x.cause * 2 ^ 56 + x.next % 2 ^ 56))

/-- The item at the cursor read from its cell and sent to its destination; a failing store ends the storer. -/
def State.storerSend (s : State) (x : Streamer) (r : Ring) : State :=
  let o := s.streamOp x
  let q := r.cursor x.cons
  let base := dDst x.desc + bv x.next * dDS x.desc 1
  let rd := fun u : Nat × Nat => (s.engAt o true (r.spa q) (bv u.1) u.2 .read).bind fun f =>
    (s.engGet o f u.2 (r.spa q)).bind fun v =>
      (s.engAt o false base (bv u.1) u.2 .write).bind fun t => .pure (⟨t, u.2, v, base + bv u.1⟩ : Put)
  match engList rd (unitsOf (dN x.desc 0)) with
  | .ask _ => s
  | .fail c a w _ =>
    if !s.reachable o.core w then s
    else ((s.poisonMet o c a).markNeeds w).modStream x.id fun x => { x with cause := c, fva := some a }
  | .ok ps w =>
    if !s.reachable o.core w then s
    else
    let (s, r) := (s.markNeeds w).engPuts (s.teamCore x.team) x.id (some x.tcb) ps
    s.modStream x.id fun x => { x with writes := x.writes ++ r.writes, remote := x.remote ++ r.remote, sent := true }

/-- The item is stored: the cursor advances. -/
def State.storerNext (s : State) (x : Streamer) (r : Ring) : State :=
  (s.modStream x.id fun x => { x with next := x.next + 1, sent := false }).modRing x.team x.ring fun y =>
    { y with cursors := kvPut 0 y.cursors x.cons (r.cursor x.cons + 1) }

/-- STORER_STORE (R139): the storer in a slot sends the item at its cursor, and advances the cursor once the stores into
another package have been acknowledged; when it has stored its last item, or has failed, and its writes are applied (15,
R263), it ends, after a failure with FAULTVA written. -/
def execStorerStore (stack slot : Nat) (s : State) : Host.Outcome State Fault Refusal :=
  match s.streamAt true stack slot with
  | none => .next s
  | some x =>
    match s.ringOf x.team x.ring with
    | none => .next s
    | some r =>
      if x.remote ≠ [] then .next s
      else if x.cause ≠ 0 ∨ (dN x.desc 1 ≤ x.next ∧ !x.sent) then
        match x.fva with
        | some a => .next ((s.streamFault x a).modStream x.id fun x => { x with fva := none })
        | none => if !s.applied (s.teamCore x.team) x.writes then .next s else .next (s.endStorer x)
      else if x.sent then .next (s.storerNext x r)
      else if !r.published (r.cursor x.cons) || s.paused x.team then .next s
      else if (r.seqWord (r.cursor x.cons)).getLsbD 62 then
        .next (s.modStream x.id fun y => { y with cause := (r.seqWord (r.cursor x.cons)).toNat / 2 ^ 55 % 128 })
      else .next (s.storerSend x r)

/-! ## oldu and oldg (R143) -/

/-- The tail entry of the queue is reserved; a full queue holds the word back. -/
def State.oqLoad (s : State) (t d : BitVec 9) (a : BitVec 7) (indexed : Bool) : Res State :=
  let c := s.rd a.toNat
  let q := cField c 0 2
  let es := kvGet [] s.cur.g.oq q
  s.asyncWord t.toNat (cField c 3 5 == 0 && cField c 56 8 == 0 && (indexed || cField c 8 48 == 0)) s.wordAux (
    if 16 ≤ es.length then .stall
    else
      let e : OqEntry := { op := s.nextId, base := s.rd d.toNat, idx := if indexed then some (bv (cField c 8 48 * 256)) else none,
                           ssp := cBit c 2, started := false, arrived := false, cause := 0, addr := 0, data := zeroLanes,
                           told := false, again := false }
      .ok ((((s.issue (.opq q t.toNat) s.setaFlag []).setSl fun x => x.pend t.toNat)).setG fun g =>
        { g with oq := kvPut [] g.oq q (es ++ [e]) }))

def execOldu (t d : BitVec 9) (a : BitVec 7) (s : State) : Host.Outcome State Fault Refusal :=
  s.run (s.oqLoad t d a false)

def execOldg (t d : BitVec 9) (a : BitVec 7) (s : State) : Host.Outcome State Fault Refusal :=
  s.run (s.oqLoad t d a true)

/-- An entry has arrived, and its word completes. -/
def State.oqArrived (s : State) (q k : Nat) (e : OqEntry) (lane : Nat) : State :=
  (s.setG fun g => { g with oq := kvPut [] g.oq q (listSet (kvGet [] g.oq q) k { e with started := true, arrived := true }) }).completeOp
    e.op (if e.cause = 0 then okToken 256 else bv (2 ^ 63 + e.cause * 2 ^ 56 + lane))

/-- The lowest lane of a mask. -/
def lowLane (m : Mask) : Nat := (lanesOf m).headD 0

/-- The lanes of an entry checked, its loads made accesses of its operation; a lane that fails makes a failed entry.
The selected slice is the one whose word it is. -/
def State.oqStart (s : State) (q k : Nat) (e : OqEntry) (o : Op) : State :=
  match s.entryAddrs o.seq e with
  | .error (c, a) =>
    let s : State := if c = 0x0A then s.countBad s.die s.coreNo s.quarter? s.cur.g.ctx a .read else s
    if c = notYet then s else s.oqArrived q k { e with cause := c, addr := e.idx.getD 0 } 0
  | .ok (as, ps) =>
    let s := s.markAll ps .read
    let l := s.entryChecks e as
    match firstCause l with
    | some (c, m, a) => s.oqArrived q k { e with cause := c, addr := a } (lowLane m)
    | none =>
      ((s.markAll (pathsOf l) .read).setSl fun x =>
        { x with ops := x.ops.map fun p =>
            if p.id = o.id then { p with acc := accessesOf l 8 (fun _ => 0) fun _ => 0 } else p }).setG fun g =>
        { g with oq := kvPut [] g.oq q (listSet (kvGet [] g.oq q) k { e with started := true }) }

/-- OQ_ENTRY_ARRIVE (R143): entry `k` of operand queue `q` of the selected group takes its next step: its lanes are
checked; once its loads have been performed its data arrive, or it fails on uncorrectable data. -/
def execOqEntryArrive (q k : Nat) (s : State) : Host.Outcome State Fault Refusal :=
  match (kvGet [] s.cur.g.oq q)[k]? with
  | none => .next s
  | some e =>
    if e.arrived then .next s
    else
      let t := if (s.cur.sl.op? e.op).isSome then s else { s with cur := s.cur.swap }
      match t.cur.sl.op? e.op with
      | none => .next s
      | some o =>
        let back := fun r : State => if (s.cur.sl.op? e.op).isSome then r else { r with cur := r.cur.swap }
        if !e.started then .next (back (t.oqStart q k e o))
        else if !o.acc.all (·.st.performed) then .next s
        else match o.acc.find? (·.st == .bad) with
          | some b => .next (back (t.oqArrived q k { e with cause := 0x0A, addr := b.va } b.lane))
          | none => .next (back (t.oqArrived q k { e with data := gotLanes o.acc } 0))

end Sys2Proof.Machine
end

