-- ==== Sys2Proof/Machine/Bags.lean ====
section
/-! DEFINITION. Bags: descriptors, placement, iterations, the BAG words and the placement home's step (05). -/

namespace Sys2Proof.Machine

/-! ## Descriptors (R76) -/

def bdShdir (d : List Byte) : W64 := dWord d 40
def bdCnt (d : List Byte) : W64 := dWord d 32
def bdTotal (d : List Byte) : Nat := dNum d 24 8
def bdCap (d : List Byte) : Nat := dNum d 20 4
def bdStacks (d : List Byte) : Nat := dNum d 18 2
/-- B. -/
def bdBanks (d : List Byte) : Nat := 2 ^ dNum d 17 1
def bdSlack (d : List Byte) : Nat := dNum d 16 1
/-- Bytes of a record. -/
def bdRec (d : List Byte) : Nat := 16 * 2 ^ dNum d 15 1
/-- Bits of a key. -/
def bdKey (d : List Byte) : Nat := 8 * 2 ^ dNum d 14 1
def bdMix (d : List Byte) : Bool := dNum d 13 1 == 1
/-- STATE: free, open, sealed. -/
def bdState (d : List Byte) : Nat := dNum d 12 1

/-- The bytes of a descriptor. -/
def bagDesc (ctx total cap smask log2b slack rec key mix st : Nat) (shdir cnt : W64) : List Byte :=
  leBytes 64 (ctx * 2 ^ 384 + shdir.toNat * 2 ^ 320 + cnt.toNat * 2 ^ 256 + total * 2 ^ 192 + cap * 2 ^ 160 + smask * 2 ^ 144
    + log2b * 2 ^ 136 + slack * 2 ^ 128 + rec * 2 ^ 120 + key * 2 ^ 112 + mix * 2 ^ 104 + st * 2 ^ 96)

/-- Records of a row (R77). -/
def rowRecs (d : List Byte) : Nat := 2048 / bdRec d

/-- The stack of share j: the (j mod m)-th set bit of STACKS (R77). -/
def shareStack (smask j : Nat) : Nat :=
  let l := (List.range 12).filter fun k => smask.testBit k
  l.getD (j % l.length) 0

/-! ## The home's reads and writes (R79) -/

/-- A bag's page as the placement home reaches it: the leaf must allow reads and writes (DESIGN CHOICE, log 8: no rule says
whether R and W bind the Cupolas' own accesses to the pool). -/
def State.poolPa (s : State) (ctx : Nat) (va : W64) : Res Nat :=
  match s.translateIn s.coreNo ctx va .both true with
  | .ok t => if s.unreadable t.pa then .trap 0x0A s.exec' va else .ok t.pa
  | .error c => .trap c s.exec' va

/-- Bytes of physical memory at their homes. -/
def State.bytesAt (s : State) (pa n : Nat) : List Byte :=
  (List.range n).map fun k => (dwordBytes (s.homeDword ((pa + k) / 8 * 8))).getD ((pa + k) % 8) 0

/-- Bytes as dwords under masks. -/
def dwordsOf (pa : Nat) (bs : List Byte) : List (Nat × BitVec 8 × W64) :=
  (List.range ((pa % 8 + bs.length + 7) / 8)).map fun n =>
    let x := pa / 8 * 8 + 8 * n
    let at' := fun k : Nat => if pa ≤ x + k then bs[x + k - pa]? else none
    (x, BitVec.ofNat 8 ((List.range 8).foldl (fun m k => if (at' k).isSome then m + 2 ^ k else m) 0),
      bv (leNat ((List.range 8).map fun k => (at' k).getD 0)))

/-- Bytes a placement home writes: the block is snapshotted for the launch first (R98); each dword is a write that its home
stamps and applies at once, as that of a store there (R96; 15, R260), and accesses its bank (04, R69). -/
def State.homeWrite (s : State) (tcb : Option Nat) (pa : Nat) (bs : List Byte) : State :=
  (dwordsOf pa bs).foldl (fun s p =>
    ((s.snapshot tcb p.1).stampApply ((homeOf p.1).getD 0) p.1 p.2.1 p.2.2 tcb).touchBank p.1) s

/-- Every home stands to stamp and apply a write at once (15, R260). -/
def State.homesReady (s : State) : Bool := (List.range 5).all s.homeReady

/-- The walk to a pool address marked (06, R101), and the bank of what it names accessed (04, R69). -/
def State.markVa (s : State) (ctx : Nat) (va : W64) (n : Need) : State :=
  match s.translateIn s.coreNo ctx va n true with
  | .ok t => (s.markWalk t.path n).touchBank t.pa
  | .error _ => s

/-- The count words of a bag. -/
def State.bagCounts (s : State) (b : Bag) (d : List Byte) : List Nat → Res (List Nat)
  | [] => .ok []
  | j :: t =>
    (s.poolPa b.ctx (bdCnt d + bv (4 * j))).bind fun pa =>
      (s.bagCounts b d t).bind fun cs => .ok (leNat (s.bytesAt pa 4) :: cs)

def State.countsOf (s : State) (b : Bag) (d : List Byte) : Res (List Nat) := s.bagCounts b d (List.range (bdBanks d))

/-- The walks to the count words marked. -/
def State.markCounts (s : State) (b : Bag) (d : List Byte) : State :=
  (List.range (bdBanks d)).foldl (fun s j => s.markVa b.ctx (bdCnt d + bv (4 * j)) .read) s

/-- Changed count words and TOTAL written through (R79). -/
def State.writeCounts (s : State) (tcb : Option Nat) (b : Bag) (d : List Byte) (old new : List Nat) : State :=
  let s := (List.range new.length).foldl (fun s j =>
    if old.getD j 0 = new.getD j 0 then s
    else match s.poolPa b.ctx (bdCnt d + bv (4 * j)) with
      | .ok pa => (s.markVa b.ctx (bdCnt d + bv (4 * j)) .both).homeWrite tcb pa (leBytes 4 (new.getD j 0))
      | _ => s) (s.markCounts b d)
  let dn := new.foldl (· + ·) 0
  if dn = bdTotal d then s else s.homeWrite tcb (b.pa + 24) (leBytes 8 dn)

/-- The physical address of record `i` of share `j` (R77, R78). -/
def Bag.recAt (b : Bag) (d : List Byte) (j i : Nat) : Nat :=
  let o := i % rowRecs d * bdRec d
  (((kvGet [] b.rows j).getD (i / rowRecs d) []).getD (o / 256) (0, 0)).2 + o % 256

/-- Its virtual address. -/
def Bag.recVa (b : Bag) (d : List Byte) (j i : Nat) : W64 :=
  let o := i % rowRecs d * bdRec d
  bv ((((kvGet [] b.rows j).getD (i / rowRecs d) []).getD (o / 256) (0, 0)).1 + o % 256)

/-- The walk to a record's page marked. -/
def State.markRec (s : State) (b : Bag) (d : List Byte) (j i : Nat) (n : Need) : State := s.markVa b.ctx (b.recVa d j i) n

/-! ## Placement (R80, R81) -/

/-- The home bank of a key. -/
def homeBank (d : List Byte) (key : Nat) : Nat :=
  let sh := fun x : Nat => x ^^^ (x / 2 ^ 16)
  let ml := fun x : Nat => x * 0x045D9F3B % 2 ^ 32
  (if bdMix d then sh (ml (sh (ml (sh key)))) else key) % bdBanks d

def leastOf : List Nat → Nat
  | [] => 0
  | [x] => x
  | x :: t => min x (leastOf t)

/-- The share a record goes to; none at a capacity fault. -/
def placeShare (d : List Byte) (cs : List Nat) (h : Nat) : Option Nat :=
  let c := cs.getD h 0
  if c ≤ leastOf cs + bdSlack d ∧ c < bdCap d then some h
  else
    let open' := (List.range cs.length).filter fun j => decide (cs.getD j 0 < bdCap d)
    let m := leastOf (open'.map fun j => cs.getD j 0)
    open'.find? fun j => cs.getD j 0 == m

/-- One record appended to a share. -/
def State.appendRec (s : State) (tcb : Option Nat) (b : Bag) (d : List Byte) (cs : List Nat) (j : Nat) (bs : List Byte) :
    State × List Nat :=
  ((s.markRec b d j (cs.getD j 0) .both).homeWrite tcb (b.recAt d j (cs.getD j 0)) bs, listSet cs j (cs.getD j 0 + 1))

/-- The records of lanes placed in ascending order; at a capacity fault the lane is answered and nothing from it on is
placed (R87). -/
def State.putRecs (s : State) (tcb : Option Nat) (b : Bag) (d : List Byte) (share : List Nat → Nat → Option Nat)
    (rec : Nat → List Byte) : List Nat → List Nat → State × List Nat × Option Nat
  | [], cs => (s, cs, none)
  | l :: t, cs =>
    match share cs l with
    | none => (s, cs, some l)
    | some j =>
      let (s, cs) := s.appendRec tcb b d cs j (rec l)
      s.putRecs tcb b d share rec t cs

/-! ## The pool (R76, R92, R93; log 8) -/

/-- The spans of a context's bag pool that bags take. -/
def State.bagSpans (s : State) (ctx : Nat) : List (Nat × Nat) :=
  ((s.bags.filter fun b => b.ctx == ctx).map (·.spans)).flatten

def spanFree (used : List (Nat × Nat)) (a n : Nat) : Bool := used.all fun u => decide (a + n ≤ u.1) || decide (u.1 + u.2 ≤ a)

/-- Every 64-byte piece of a span lies in a pool page of this package's DRAM. -/
def State.poolSpan (s : State) (ctx a n : Nat) : Bool :=
  (List.range ((n + 63) / 64)).all fun k => match s.translateIn s.coreNo ctx (bv (a + 64 * k)) .both true with
    | .ok t => t.pool && regionOf t.pa == 0
    | .error _ => false

/-- A span of `n` bytes, one of the 64-byte-aligned places that are free: any one. -/
def State.poolPlace (s : State) (ctx : Nat) (used : List (Nat × Nat)) (n k : Nat) : Option Nat :=
  match alFind s.ctxs ctx with
  | none => none
  | some c =>
    let l := (List.range (c.r.bagPool.size / 64)).filterMap fun i =>
      let a := c.r.bagPool.base + 64 * i
      if a + n ≤ c.r.bagPool.base + c.r.bagPool.size ∧ spanFree used a n ∧ s.poolSpan ctx a n then some a else none
    match l with
    | [] => none
    | _ :: _ => some (l.getD (Config.pick k % l.length) 0)

/-- The free 256-byte bursts of a pool: VA and physical address. -/
def State.freeBursts (s : State) (ctx : Nat) (used : List (Nat × Nat)) : List (Nat × Nat) :=
  match alFind s.ctxs ctx with
  | none => []
  | some c =>
    (List.range (c.r.bagPool.size / 256)).filterMap fun i =>
      let a := (c.r.bagPool.base + 255) / 256 * 256 + 256 * i
      if a + 256 ≤ c.r.bagPool.base + c.r.bagPool.size ∧ spanFree used a 256 ∧ s.poolSpan ctx a 256 then
        match s.translateIn s.coreNo ctx (bv a) .both true with
        | .ok t => some (a, t.pa)
        | .error _ => none
      else none

/-- The column of an address in its row, and the physical distance of one column from the next (04, R65). -/
def columnOf (pa : Nat) : Nat := stackOff pa / 262144 % 8
def columnStep : Nat := 3145728

/-- The rows that bursts make up: eight columns of one DRAM bank each (R77). -/
def rowsIn (l : List (Nat × Nat)) : List (List (Nat × Nat)) :=
  l.filterMap fun b =>
    let r := (List.range 8).filterMap fun c => l.find? fun x => x.2 == b.2 + columnStep * c
    if columnOf b.2 = 0 ∧ r.length = 8 then some r else none

def State.freeRows (s : State) (ctx : Nat) (used : List (Nat × Nat)) : List (List (Nat × Nat)) := rowsIn (s.freeBursts ctx used)

/-- The DRAM bank of a row, 1,024 in each stack (04, R65). -/
def rowBank (r : List (Nat × Nat)) : Nat :=
  match r with
  | [] => 0
  | b :: _ => stackOf b.2 * 1024 + bankOf b.2

/-- Rows for each share of a list, all of one DRAM bank: the one it has, or one of its stack, which `own` keeps from the
bag's other shares (R77); none where no such bank has enough.  Any of the banks may be it. -/
def takeRows (smask : Nat) (own : Bool) (need : Nat → Nat) (has : Nat → Option Nat) (k : Nat) :
    List Nat → List (List (Nat × Nat)) → List Nat → Option (List (Nat × List (List (Nat × Nat))))
  | [], _, _ => some []
  | j :: t, free, taken =>
    let of' := fun b => free.filter fun r => rowBank r == b
    let banks := (match has j with
      | some b => [b]
      | none => ((free.map rowBank).eraseDups).filter fun b => b / 1024 == shareStack smask j && !(own && taken.contains b)).filter
        fun b => decide (need j ≤ (of' b).length)
    match banks with
    | [] => if need j = 0 then (takeRows smask own need has (k + 1) t free taken).map ((j, []) :: ·) else none
    | _ :: _ =>
      let b := banks.getD (Config.pick k % banks.length) 0
      let mine := (of' b).take (need j)
      (takeRows smask own need has (k + 1) t (free.filter fun r => !mine.contains r) (b :: taken)).map ((j, mine) :: ·)

/-- A share has a DRAM bank of its own (R77). -/
def ownBanks (smask b : Nat) : Bool := decide (b ≤ 1024 * ((List.range 12).filter fun k => smask.testBit k).length)

/-- The spans of rows. -/
def rowSpans (l : List (Nat × List (List (Nat × Nat)))) : List (Nat × Nat) := (l.map (·.2)).flatten.flatten.map fun r => (r.1, 256)

def rowsFor (rec cap : Nat) : Nat := (cap + 2048 / (16 * 2 ^ rec) - 1) / (2048 / (16 * 2 ^ rec))

/-- Bytes written span by span of 64 bytes through the pool's translation. -/
def State.poolWrite (s : State) (tcb : Option Nat) (ctx : Nat) (va : W64) (bs : List Byte) : State :=
  (List.range ((bs.length + 63) / 64)).foldl (fun s k =>
    match s.translateIn s.coreNo ctx (va + bv (64 * k)) .both true with
    | .ok t => (s.markWalk t.path .both).homeWrite tcb t.pa ((bs.drop (64 * k)).take 64)
    | .error _ => s) s

/-- A bag before it is changed by a launch, for rollback (R98). -/
def State.noteBag (s : State) (tcb : Option Nat) (pa : Nat) : State :=
  match tcb with
  | some t => { s with bagUndo := (t, pa, s.bags.find? fun b => b.pa == pa) :: s.bagUndo }
  | none => s

/-- A bag made with a parameter word and a capacity (R92; 03, R60): open, all counts 0, its rows reserved; the address of
its descriptor, none where the pool lacks room.  The share directory takes 16 bytes of the pool per share (DESIGN CHOICE, log
8: no rule gives its size or layout), whose contents are free values. -/
def State.makeBag (s : State) (ctx : Nat) (tcb : Option Nat) (p : W64) (cap : Nat) : Option (State × Nat) :=
  let b := 2 ^ cField p 32 4
  let smask := if cField p 40 12 = 0 then 0xFFF else cField p 40 12
  let used := s.bagSpans ctx
  match s.poolPlace ctx used 64 s.tick with
  | none => none
  | some dv =>
    let used := (dv, 64) :: used
    match s.poolPlace ctx used (4 * b) (s.tick + 1) with
    | none => none
    | some cv =>
      let used := (cv, 4 * b) :: used
      match s.poolPlace ctx used (16 * b) (s.tick + 2) with
      | none => none
      | some sv =>
        match takeRows smask (ownBanks smask b) (fun _ => rowsFor (cField p 30 2) cap) (fun _ => none) (s.tick + 3 + 2 * b)
            (List.range b) (s.freeRows ctx ((sv, 16 * b) :: used)) [],
          s.translateIn s.coreNo ctx (bv dv) .both true with
        | some rows, .ok t =>
          let s := s.noteBag tcb t.pa
          let d := bagDesc ctx 0 cap smask (cField p 32 4) (cField p 36 4) (cField p 30 2) (cField p 28 2) (cField p 27 1) 1
            (bv sv) (bv cv)
          let s := (s.poolWrite tcb ctx (bv dv) d).poolWrite tcb ctx (bv cv) (List.replicate (4 * b) 0)
          let s := s.poolWrite tcb ctx (bv sv)
            ((List.range (2 * b)).map fun k => dwordBytes (Config.freeWord (s.tick + 3 + k))).flatten
          let x : Bag :=
            { va := bv dv, pa := t.pa, ctx := ctx, rows := rows.foldl (fun k r => kvPut [] k r.1 r.2) []
              spans := (dv, 64) :: (cv, 4 * b) :: (sv, 16 * b) :: rowSpans rows }
          some ({ s with bags := s.bags.filter (fun q => q.pa != t.pa) ++ [x], tick := s.tick + 3 + 3 * b }, dv)
        | _, _ => none

/-! ## The objects a word names (R86) -/

/-- The launch of the selected slice; none for a stream of the Keep or a Lantern. -/
def State.launch? (s : State) : Option Nat :=
  match s.cur.sl.kind with
  | .keep => none
  | .lantern _ => none
  | _ => some s.cur.g.tcb

/-- A descriptor address: alignment, then translation as of a scalar access. -/
def State.bagVa (s : State) (va : W64) : Res Nat :=
  if va.toNat % 64 ≠ 0 then .trap 0x09 s.exec' va
  else match s.translate va .read with
    | .ok t => .ok t.pa
    | .error c => .denied c s.exec' va .read

/-- The walk to a descriptor address marked (06, R101). -/
def State.bagMark (s : State) (va : W64) : State :=
  match s.translate va .read with
  | .ok t => s.markWalk t.path .read
  | .error _ => s

/-- The bag at a physical address with its descriptor as it stands; cause 0x0C with `off` where none is open or sealed. -/
def State.bagAt (s : State) (pa : Nat) (va off : W64) : Res (Bag × List Byte) :=
  if s.unreadable pa then .trap 0x0A s.exec' va
  else match s.bags.find? fun b => b.pa == pa && b.ctx == s.cur.g.ctx with
    | none => .trap 0x0C s.exec' off
    | some b =>
      let d := s.bytesAt pa 64
      if bdState d = 1 ∨ bdState d = 2 then .ok (b, d) else .trap 0x0C s.exec' off

def State.bagOf (s : State) (va : W64) : Res (Bag × List Byte) := (s.bagVa va).bind fun pa => s.bagAt pa va va

/-- The open iteration a handle names. -/
def State.iterOf (s : State) (h : W64) : Res (Iter × Bag × List Byte) :=
  match s.iters.find? fun i => i.handle == h && i.ctx == s.cur.g.ctx with
  | none => .trap 0x0C s.exec' h
  | some i =>
    match s.bags.find? fun b => b.pa == i.bag with
    | none => .trap 0x0C s.exec' h
    | some b => (s.bagAt i.bag b.va h).bind fun (b, d) => .ok (i, b, d)

/-! ## The home's operations -/

/-- What a bag operation comes to at its home: a trap of itself, or a state and, of a put, the capacity fault that ends
it. -/
abbrev BagRes := Res (State × Option (Nat × Mask × W64))

def BagRes.done (s : State) : BagRes := .ok (s, none)

/-- The bytes of a lane's record in the names from `rec` up. -/
def recBytes (vs : List Lanes) (l : Nat) : List Byte := (vs.map fun v => dwordBytes (lane v l)).flatten

/-- The record's names exist and none is a queue (R85, R154). -/
def State.recNames (s : State) (rec : Nat) (d : List Byte) (r : Res α) : Res α := s.spanOk rec (bdRec d / 8) r

/-- bput and bputl (R87, R388). -/
def State.bagPut (s : State) (rec : Nat) (key : Option Src) (b : Bag) (d : List Byte) (off : W64) (share : Option Nat) : BagRes :=
  s.recNames rec d (if bdState d = 2 then .trap 0x0C s.exec' off
  else (s.sources (((List.range (bdRec d / 8)).map fun i => ⟨rec + i, false⟩) ++ key.toList) none).bind
    fun (vs, g) => (s.countsOf b d).bind fun cs =>
      let n := bdRec d / 8
      let keys := vs.getD n zeroLanes
      let pick := fun (cs : List Nat) (l : Nat) => match share with
        | some j => if cs.getD j 0 < bdCap d then some j else none
        | none => placeShare d cs (homeBank d ((lane keys l).toNat % 2 ^ bdKey d))
      let (t, cs', fail) := s.putRecs s.launch? b d pick (recBytes (vs.take n)) (lanesOf s.wordExec) cs
      let t := t.writeCounts s.launch? b d cs cs'
      match fail with
      | some l => .ok (t, some (0x0B, maskOf fun k => inMask s.wordExec k && decide (l ≤ k), b.va))
      | none => BagRes.done (t.setG fun _ => g))

/-- A place handle (R83). -/
def placeHandle (j i : Nat) : W64 := bv (j * 2 ^ 32 + i)
def doneHandle : W64 := 0x8000_0000_0000_0000#64

/-- A result of several vector names, or of scalar registers in the scalar profile. -/
def State.writeVals (s : State) : List (Nat × Lanes) → Group → Res State
  | [], g => .ok (s.setG fun _ => g)
  | (n, x) :: t, g =>
    if s.cur.sl.scalar then (s.wr n (lane x 0)).writeVals t g
    else (s.writeName g n s.exec' x).bind fun g => s.writeVals t g

/-- bnext (R89); a record whose data are uncorrectable calls for a rollback (20, R354).  The record's names are written first
and the handle last: where VKEY is one of the record's names it holds the handle (DESIGN CHOICE, log 100: R89 does not say). -/
def State.bagNext (s : State) (rec key : Nat) (i : Iter) (b : Bag) (d : List Byte) : BagRes :=
  s.recNames rec d (
    let n := bdRec d / 8
    let ls := lanesOf s.wordExec
    let give := ls.take (i.last - i.pos)
    let at' := fun l : Nat => i.pos + (ls.filter fun k => decide (k < l)).length
    match give.find? fun l => s.unreadable (b.recAt d i.share (at' l)) with
    | some l =>
      let a := b.recAt d i.share (at' l)
      BagRes.done ((s.poisonRead a).askRollback s.cur.g.tcb (0, s.coreNo, bv a))
    | none =>
      let word := fun (k l : Nat) => if give.contains l then bv (leNat (s.bytesAt (b.recAt d i.share (at' l) + 8 * k) 8)) else 0
      let vals := ((List.range n).map fun k => (rec + k, tab (word k))) ++
        [(key, tab fun l => if give.contains l then placeHandle i.share (at' l) else doneHandle)]
      ((give.foldl (fun t l => t.markRec b d i.share (at' l) .read) s).writeVals vals s.cur.g).bind fun t =>
        BagRes.done { t with iters := t.iters.map fun q =>
          if q.handle = i.handle then { q with pos := i.pos + give.length } else q })

/-- bwrite (R90). -/
def State.bagWrite (s : State) (rec : Nat) (key : Src) (i : Iter) (b : Bag) (d : List Byte) : BagRes :=
  s.recNames rec d ((s.sources (((List.range (bdRec d / 8)).map fun k => ⟨rec + k, false⟩) ++ [key]) none).bind fun (vs, g) =>
    let n := bdRec d / 8
    let h := fun l : Nat => lane (vs.getD n zeroLanes) l
    let live := (lanesOf s.wordExec).filter fun l => h l != doneHandle
    let bad := live.filter fun l => decide ((h l).toNat / 2 ^ 32 ≠ i.share)
      || decide (i.pos ≤ (h l).toNat % 2 ^ 32)
    match bad with
    | l :: _ => .trap 0x0C (maskOf fun k => bad.contains k) (h l)
    | [] =>
      let put := fun (t : State) (l : Nat) =>
        let k := (h l).toNat % 2 ^ 32
        (t.markRec b d i.share k .both).homeWrite s.launch? (b.recAt d i.share k) (recBytes (vs.take n) l)
      let t := live.foldl put s
      BagRes.done (t.setG fun _ => g))

/-- biter (R94). -/
def State.bagIter (s : State) (dst : Nat) (j : W64) (b : Bag) (d : List Byte) : BagRes :=
  if bdBanks d ≤ j.toNat then .trap 0x0C s.exec' j
  else (s.countsOf b d).bind fun cs =>
    let j := j.toNat
    let st := stackOf b.pa
    let base := st * 2 ^ 28 + j * 2 ^ 16
    let used := s.iters.filterMap fun i => if stackOf i.bag = st then some i.entry else none
    let spare := (Config.freeWord s.tick).toNat % 4096
    if s.iters.any fun i => i.bag == b.pa && i.share == j then
      BagRes.done { s.wr dst (bv (2 ^ 63 + base + spare)) with tick := s.tick + 1 }
    else if 4096 ≤ used.length then BagRes.done { s.wr dst (bv (2 ^ 62 + base + spare)) with tick := s.tick + 1 }
    else
      let l := (List.range 4096).filter fun e => !used.contains e
      let e := l.getD (Config.pick s.tick % l.length) 0
      let i : Iter := { handle := bv (base + e), ctx := b.ctx, bag := b.pa, share := j, entry := e, pos := 0,
                        last := cs.getD j 0, tcb := s.cur.g.tcb }
      BagRes.done { s.wr dst i.handle with iters := s.iters ++ [i], tick := s.tick + 1 }

/-- Record `i` of a share moved to index `k`; uncorrectable data stay so. -/
def State.moveRec (s : State) (b : Bag) (d : List Byte) (j i k : Nat) : State :=
  let a := b.recAt d j i
  let z := b.recAt d j k
  let t := (((s.poisonRead a).markRec b d j i .read).markRec b d j k .both).homeWrite s.launch? z (s.bytesAt a (bdRec d))
  if s.poisoned a && !t.poisoned z then { t with poison := t.poison ++ [⟨burstOf z, 0, []⟩] } else t

/-- bdrain (R94). -/
def State.bagDrain (s : State) (dst : Nat) (opt : W64) (i : Iter) (b : Bag) (d : List Byte) : BagRes :=
  (s.countsOf b d).bind fun cs =>
    let v := if opt = 0 then i.pos else 0
    let c := cs.getD i.share 0
    let t := if v = 0 then s else (List.range (c - v)).foldl (fun t k => t.moveRec b d i.share (k + v) k) s
    let t := t.writeCounts s.launch? b d cs (listSet cs i.share (c - v))
    BagRes.done ({ t with iters := t.iters.filter fun q => q.handle != i.handle }.wr dst (bv v))

/-- bgrow (R93): each share's new rows lie in its DRAM bank.  The share directory is left as it is (DESIGN CHOICE, log 8). -/
def State.bagGrow (s : State) (dst : Nat) (cap : Nat) (b : Bag) (d : List Byte) : BagRes :=
  if cap ≤ bdCap d then BagRes.done (s.wr dst 0)
  else
    let need := fun j => rowsFor (dNum d 15 1) cap - (kvGet [] b.rows j).length
    let bank := fun j => (kvGet [] b.rows j).head?.map rowBank
    match takeRows (bdStacks d) false need bank s.tick (List.range (bdBanks d)) (s.freeRows b.ctx (s.bagSpans b.ctx)) [] with
    | none => BagRes.done (s.wr dst 1)
    | some more =>
      let b' : Bag :=
        { b with rows := more.foldl (fun (k : Kv (List (List (Nat × Nat)))) (r : Nat × List (List (Nat × Nat))) =>
                           kvPut [] k r.1 (kvGet [] k r.1 ++ r.2)) b.rows
                 spans := b.spans ++ rowSpans more }
      let s := (s.noteBag s.launch? b.pa).homeWrite s.launch? (b.pa + 20) (leBytes 4 cap)
      BagRes.done ({ s with bags := s.bags.map fun (q : Bag) => if q.pa = b.pa then b' else q }.wr dst 0)

/-- bfree (R93). -/
def State.bagFree (s : State) (dst : Nat) (b : Bag) : BagRes :=
  if s.iters.any fun i => i.bag == b.pa then BagRes.done (s.wr dst 1)
  else
    let s := (s.noteBag s.launch? b.pa).homeWrite s.launch? (b.pa + 12) [0]
    BagRes.done ({ s with bags := s.bags.filter fun q => q.pa != b.pa }.wr dst 0)

/-- A count word for another package: the access that waits for its acknowledgement, the total with it. -/
def countAccess (c : Checked) (total count : Nat) : List Access :=
  match c.res with
  | .ok (.mem pa hc, _) =>
    if (homeOf pa).isSome then []
    else [{ lane := c.lane, va := c.va, tgt := .mem pa hc, size := 4, data := bv count, new := 0, got := bv total, st := .asked }]
  | _ => []

/-- bcounts (R91): the count words are written to the destination, each checked as a store before any is written; the word's
operation `op` is complete, and SD holds TOTAL, when another package has acknowledged those that are there (R84).  What goes
to another package goes by the channel of the issuing slice's die (DESIGN CHOICE, log 101: R91 does not say by which). -/
def State.bagCountsTo (s : State) (dst : Nat) (va : W64) (b : Bag) (d : List Byte) (op : Nat) : BagRes :=
  (s.countsOf b d).bind fun cs =>
    let l := (List.range cs.length).map fun j => (⟨j, va + bv (4 * j), s.checkVa (va + bv (4 * j)) 4 .write⟩ : Checked)
    match firstCause l with
    | some (c, _, a) => .denied c s.exec' a .write
    | none =>
      let t := l.foldl (fun t c => match c.res with
        | .ok (.mem pa _, p) =>
          let t := t.markWalk p .write
          let x := leBytes 4 (cs.getD c.lane 0)
          if (homeOf pa).isSome then t.homeWrite s.launch? pa x
          else t.sendFrom s.die (pkgOf pa) (.write (pa / 8 * 8) (accMask pa 4) (placed pa (bv (leNat x))) s.cur.g.id op)
        | _ => t) (s.markCounts b d)
      match (l.map fun c => countAccess c (bdTotal d) (cs.getD c.lane 0)).flatten with
      | [] => BagRes.done (t.wr dst (bv (bdTotal d)))
      | acc => BagRes.done (t.setSl fun x => { x with ops := x.ops.map fun o => if o.id = op then { o with acc := acc } else o })

/-- bnew's parameter word is legal (R92). -/
def bagParamOk (p : W64) : Bool :=
  cField p 52 12 == 0 && decide (cField p 32 4 ≤ 12) && cField p 30 2 != 3 && cField p 28 2 != 3 && cField p 0 27 == 0

/-- The operation of a word at its placement home, the selected slice's. -/
def State.bagApply (s : State) (b : BagWord) (d rec key : Nat) (bag aux : W64) (op : Nat) : BagRes :=
  match b with
  | .put => (s.bagOf bag).bind fun (x, y) => s.bagPut rec (some ⟨key, aux == 1⟩) x y bag none
  | .putl => (s.iterOf bag).bind fun (i, x, y) => s.bagPut rec none x y bag (some i.share)
  | .next => (s.iterOf bag).bind fun (i, x, y) => s.bagNext rec key i x y
  | .write => (s.iterOf bag).bind fun (i, x, y) => s.bagWrite rec ⟨key, aux == 1⟩ i x y
  | .count => (s.bagOf bag).bind fun (_, y) => BagRes.done (s.wr d (bv (bdTotal y)))
  | .counts => (s.bagOf bag).bind fun (x, y) => s.bagCountsTo d aux x y op
  | .new =>
    match s.makeBag s.cur.g.ctx s.launch? bag aux.toNat with
    | some (t, va) => BagRes.done (t.wr d (bv va))
    | none => BagRes.done (s.wr d 0)
  | .grow => (s.bagOf bag).bind fun (x, y) => s.bagGrow d aux.toNat x y
  | .free => (s.bagOf bag).bind fun (x, _) => s.bagFree d x
  | .seal => (s.bagOf bag).bind fun (x, y) => BagRes.done ((s.homeWrite s.launch? (x.pa + 12) [2]).wr d (bv (bdTotal y)))
  | .iter => (s.bagOf bag).bind fun (x, y) => s.bagIter d aux x y
  | .drain => (s.iterOf bag).bind fun (i, x, y) => s.bagDrain d aux i x y

/-! ## The words (R84-R91): each waits until its home has performed or refused it -/

/-- A BAG word: its own checks, then its operation goes to the placement home and the slice waits for the answer; `va` is
the descriptor address it has translated. -/
def State.bagWord (s : State) (f : Option Nat) (k : OpKind) (va : Option W64) (check : Res Unit) : Host.Outcome State Fault Refusal :=
  match s.cur.sl.wait with
  | some (.bag _) => .next s
  | _ =>
    if !s.flagFree f then .next s
    else match check with
      | .trap c m a => .next (s.trap c m a)
      | .denied c m a n => .next (s.trap c m a n)
      | .stall => .next s
      | .ok _ =>
        let t := match va with
          | some a => s.bagMark a
          | none => s
        .next ((t.issue k f []).setWait none (.bag s.nextId))

def execBput (r k : BitVec 7) (b : BitVec 9) (l f : BitVec 1) (s : State) : Host.Outcome State Fault Refusal :=
  s.bagWord (s.fsFlag f) (.bag .put 0 r.toNat k.toNat (s.rd b.toNat) (l.setWidth 64)) (some (s.rd b.toNat))
    ((s.bagVa (s.rd b.toNat)).bind fun _ => .ok ())

def execBputl (r : BitVec 7) (b : BitVec 9) (f : BitVec 1) (s : State) : Host.Outcome State Fault Refusal :=
  s.bagWord (s.fsFlag f) (.bag .putl 0 r.toNat 0 (s.rd b.toNat) 0) none (.ok ())

def execBnext (r k : BitVec 7) (b : BitVec 9) (f : BitVec 1) (s : State) : Host.Outcome State Fault Refusal :=
  s.bagWord (s.fsFlag f) (.bag .next 0 r.toNat k.toNat (s.rd b.toNat) 0) none (.ok ())

def execBwrite (r k : BitVec 7) (b : BitVec 9) (l f : BitVec 1) (s : State) : Host.Outcome State Fault Refusal :=
  s.bagWord (s.fsFlag f) (.bag .write 0 r.toNat k.toNat (s.rd b.toNat) (l.setWidth 64)) none (.ok ())

/-- An address that is a multiple of `n` (0x09). -/
def State.multipleOf (s : State) (n : Nat) (va : W64) : Res Unit := if va.toNat % n ≠ 0 then .trap 0x09 s.exec' va else .ok ()

/-- A BS word on a descriptor: `align` is checked with the descriptor's alignment, before its translation (02, R37). -/
def State.bagScalar (s : State) (b : BagWord) (d a : BitVec 9) (aux : W64) (align check : Res Unit) :
    Host.Outcome State Fault Refusal :=
  s.bagWord s.setaFlag (.bag b d.toNat 0 0 (s.rd a.toNat) aux) (some (s.rd a.toNat))
    (s.destOk d.toNat ((s.multipleOf 64 (s.rd a.toNat)).bind fun _ => align.bind fun _ =>
      (s.bagVa (s.rd a.toNat)).bind fun _ => check))

def execBcount (d a : BitVec 9) (s : State) : Host.Outcome State Fault Refusal := s.bagScalar .count d a 0 (.ok ()) (.ok ())

def execBcounts (d a : BitVec 9) (b : BitVec 7) (s : State) : Host.Outcome State Fault Refusal :=
  s.bagScalar .counts d a (s.rd b.toNat) (s.multipleOf 4 (s.rd b.toNat)) (.ok ())

/-- A capacity of 32 bits (R91). -/
def State.capOk (s : State) (v : W64) : Res Unit := if v.toNat / 2 ^ 32 ≠ 0 then .trap 0x0C s.exec' v else .ok ()

def execBnew (d a : BitVec 9) (b : BitVec 7) (s : State) : Host.Outcome State Fault Refusal :=
  let p := s.rd a.toNat
  s.bagWord s.setaFlag (.bag .new d.toNat 0 0 p (s.rd b.toNat)) none
    (s.destOk d.toNat ((s.capOk (s.rd b.toNat)).bind fun _ =>
      if !bagParamOk p ∨ s.rd b.toNat = 0 then .trap 0x0C s.exec' p else .ok ()))

def execBgrow (d a : BitVec 9) (b : BitVec 7) (s : State) : Host.Outcome State Fault Refusal :=
  s.bagScalar .grow d a (s.rd b.toNat) (.ok ()) (s.capOk (s.rd b.toNat))

def execBfree (d a : BitVec 9) (s : State) : Host.Outcome State Fault Refusal := s.bagScalar .free d a 0 (.ok ()) (.ok ())

def execBseal (d a : BitVec 9) (s : State) : Host.Outcome State Fault Refusal := s.bagScalar .seal d a 0 (.ok ()) (.ok ())

def execBiter (d a : BitVec 9) (b : BitVec 7) (s : State) : Host.Outcome State Fault Refusal :=
  s.bagScalar .iter d a (s.rd b.toNat) (.ok ()) (.ok ())

def execBdrain (d a : BitVec 9) (b : BitVec 7) (s : State) : Host.Outcome State Fault Refusal :=
  let o := s.rd b.toNat
  s.bagWord s.setaFlag (.bag .drain d.toNat 0 0 (s.rd a.toNat) o) none
    (s.destOk d.toNat (if 1 < o.toNat then .trap 0x0C s.exec' o else .ok ()))

/-! ## The placement home's step (R79, R84, R87) -/

/-- The group and slice that hold an operation. -/
def State.holder (s : State) (id : Nat) : Option (Nat × SliceKind) :=
  ((s.cur :: s.others).filterMap fun r =>
    if (r.sl.op? id).isSome then some (r.g.id, r.sl.kind)
    else match r.g.companion with
      | some x => if (x.op? id).isSome then some (r.g.id, x.kind) else none
      | none => none).head?

/-- The operation leaves the slice, its flag falls. -/
def State.dropOp (s : State) (o : Op) : State :=
  s.setSl fun x => { x.lower o.flag with ops := x.ops.filter fun p => p.id != o.id }

/-- The physical address of the descriptor that an operation's bag operand names. -/
def State.bagPa? (s : State) (b : BagWord) (bag : W64) : Option Nat :=
  match b with
  | .new => none
  | .putl | .next | .write | .drain => (s.iters.find? fun i => i.handle == bag && i.ctx == s.cur.g.ctx).map (·.bag)
  | _ => match s.bagVa bag with
    | .ok pa => some pa
    | _ => none

/-- The operations of one group on one bag arrive in issue order (R79): none that the other slice issued before is out. -/
def State.bagTurn (s : State) (o : Op) (pa : Option Nat) : Bool :=
  match s.cur.g.companion with
  | none => true
  | some x => x.ops.all fun p => decide (o.id ≤ p.id) || p.acc != [] || match p.kind with
    | .bag b _ _ _ bag _ => pa.isNone || s.bagPa? b bag != pa
    | _ => true

/-- No bank of a bag, its descriptor's or its rows', refreshes: the Cupolas' accesses wait for that (04, R69). -/
def Bag.idle (s : State) (b : Bag) : Bool :=
  (b.pa :: (b.rows.map fun r => (r.2.map fun l => l.map (·.2)).flatten).flatten).all fun x =>
    !(s.cup (stackOf x)).busy.contains (bankOf x)

/-- The operation may be performed now: every earlier release of its slice has completed, the bag's banks do not refresh, and
the homes stand to stamp its writes, the descriptor's after all that a store in its place would follow (R96; 15, R260). -/
def State.bagReady (s : State) (o : Op) : Bool :=
  match o.kind with
  | .bag b _ _ _ bag _ =>
    let pa := s.bagPa? b bag
    o.acc == [] && s.cur.sl.released o.seq && s.homesReady && s.bagTurn o pa && match pa with
      | some a => o.clk.le (s.clock ((homeOf a).getD 0)) && s.bags.all fun b => b.pa != a || b.idle s
      | none => true
  | _ => false

/-- The writes stamped from number `n` on are own writes of the operation's word: its fences wait for them (R96). -/
def State.ownFrom (s : State) (n : Nat) (o : Op) : State :=
  s.setSl fun x => { x with own := (s.writes.filter fun w => decide (n ≤ w.id)).foldl (fun l w =>
    enterOwn l { seq := o.seq, op := o.id, x := w.x, mask := w.mask, data := w.data, w := some w.id }) x.own }

/-- The operation leaves, unless another package has still to acknowledge its writes (R84). -/
def State.bagLeave (s : State) (o : Op) : State :=
  match s.cur.sl.op? o.id with
  | some p => if p.acc = [] then s.dropOp o else s
  | none => s

/-- The home's decision on operation `o` of the selected slice: the word completes, or traps. -/
def State.bagDecide (s : State) (o : Op) : State :=
  match o.kind with
  | .bag b d rec key bag aux =>
    if !s.bagReady o then s
    else match ((s.bagPa? b bag).elim s s.touchBank).bagApply b d rec key bag aux o.id with
      | .stall => s
      | .trap c m a => ((s.dropOp o).clearWait).trap c m a
      | .denied c m a n => ((s.dropOp o).clearWait).trap c m a n
      | .ok (t, none) => ((t.ownFrom s.nextId o).bagLeave o).complete'
      | .ok (t, some (c, m, a)) => (((t.ownFrom s.nextId o).dropOp o).clearWait).trap c m a
  | _ => s

/-- PLACEMENT_HOME_APPLY (R79): bag operation `op` is performed at its placement home. -/
def execPlacementHomeApply (op : Nat) (s : State) : Host.Outcome State Fault Refusal :=
  match s.holder op with
  | none => .next s
  | some (g, k) =>
    .next (s.onSlice g k fun s => match s.cur.sl.op? op with
      | some o => s.bagDecide o
      | none => s)

end Sys2Proof.Machine
end

