-- ==== Sys2Proof/Machine/Lantern.lean ====
section
/-! DEFINITION. The Lanterns: expert routing of the rows of a gate queue (18, R318, R319). -/

namespace Sys2Proof.Machine

/-! ## Selection and weights (R319, steps 1 and 2) -/

/-- The place of an FP32 code in the order of its values; zeros of both signs are equal. -/
def logitKey (c : Nat) : Int := if c / 2 ^ 31 % 2 = 1 then -((c % 2 ^ 31 : Nat) : Int) else (c % 2 ^ 31 : Nat)

/-- The largest of a list of (expert, logit), the lower expert on ties. -/
def bestLogit : List (Nat × Nat) → Option (Nat × Nat)
  | [] => none
  | x :: t =>
    match bestLogit t with
    | none => some x
    | some y => if logitKey x.2 < logitKey y.2 then some y else some x

/-- The `k` largest, in rank order. -/
def topLogits : Nat → List (Nat × Nat) → List (Nat × Nat)
  | 0, _ => []
  | k + 1, l =>
    match bestLogit l with
    | none => []
    | some x => x :: topLogits k (l.filter (· != x))

/-- The experts of a row: logits 0 to NEXP − 1, NaNs never. -/
def selectExperts (topk nexp : Nat) (row : List Nat) : List (Nat × Nat) :=
  topLogits topk (((List.range nexp).map fun e => (e, row.getD e 0)).filter fun x => !(fp32.decode x.2).isNan)

/-- A finite logit times 2^256. -/
def logitVal (c : Nat) : Int :=
  match fp32.decode c with
  | .fin s m e => (if s then -1 else 1) * scaled m e
  | _ => 0

/-- The weight of a selected logit, within 4 ulp (11, R214; log 7); where the largest logit is infinite the spec's
expression has no value, and the weight is a free value (log 16). -/
def routeWeight (sel : List Nat) (x free : Nat) : Nat :=
  let top := sel.headD 0
  if (fp32.decode top).isInf then free % 2 ^ 32
  else if (fp32.decode x).isInf then 0
  else
    let diff := fun c : Nat => if (fp32.decode c).isInf then (⟨0, 1⟩ : Iv) else (Iv.point (logitVal c - logitVal top)).exp
    let sum := sel.foldl (fun a c => a.add (diff c)) (Iv.point 0)
    let d := logitVal x - logitVal top
    let key := sel.foldl (fun k c => k * 2 ^ 32 + c) x
    if d < -1000 * ivOne then (sfuNear 400 key false 4 0 ivTiny).1
    else
      let (k, y) := (Iv.point d).expScaled
      (sfuNear 400 key false 4 k (y.mul sum.inv)).1

/-- A routing record. -/
def routeRecord (token weight expert rank : Nat) : List Byte :=
  leBytes 4 token ++ leBytes 4 weight ++ leBytes 2 expert ++ leBytes 1 rank ++ leBytes 5 0

/-! ## The step -/

/-- The state with a Lantern's own stream selected, to act in its context. -/
def State.asLantern (s : State) (die ctx : Nat) : State :=
  { s with cur := ⟨{ Group.idle with ctx := ctx }, Slice.idle (.lantern die)⟩ }

/-- The bytes at a physical address written as a home writes them, in another package by a request. -/
def State.homeOrSend (s : State) (die pa : Nat) (bs : List Byte) : State :=
  if (homeOf pa).isSome then s.homeWrite none pa bs
  else (dwordsOf pa bs).foldl (fun s p => s.sendFrom die (pkgOf pa) (.write p.1 p.2.1 p.2.2 0 0)) s

/-- A count of `n` bytes at a VA changed by the Lantern; none where it cannot be reached. -/
def State.bump (s : State) (va : W64) (n : Nat) (f : Nat → Nat) : Option State :=
  match s.translate va .both with
  | .error _ => none
  | .ok t =>
    if s.unreadable t.pa then none
    else some ((s.markWalk t.path .both).homeOrSend s.die t.pa (leBytes n (f (leNat (s.bytesAt t.pa n)))))

/-- The counts of the selected experts, each plus one (step 4). -/
def State.bumpCounts (s : State) (va : W64) : List Nat → Option State
  | [] => some s
  | e :: t =>
    match s.bump (va + bv (4 * e)) 4 (· + 1) with
    | none => none
    | some s => s.bumpCounts va t

/-- One bput of the records of a row, in rank order (step 3): none where the bag refuses it, otherwise whether every record
found room. -/
def State.putRoute (s : State) (bag : W64) (recs : List (Nat × List Byte)) : Option (State × Bool) :=
  match s.bagOf bag with
  | .ok (b, d) =>
    match s.countsOf b d with
    | .ok cs =>
      if bdState d = 2 then none
      else
        let share := fun (cs : List Nat) (l : Nat) => placeShare d cs (homeBank d ((recs.getD l (0, [])).1 % 2 ^ bdKey d))
        let (t, cs', fail) := s.putRecs none b d share (fun l => (recs.getD l (0, [])).2) (List.range recs.length) cs
        some (t.writeCounts none b d cs cs', fail.isNone)
    | _ => none
  | _ => none

/-- The event record of a stopped routing; its SOURCE and CLASS are not specified: free values (log 16). -/
def State.routeStopped (s : State) (die ctx : Nat) (routed : W64) : State :=
  let s := (s.bump routed 8 fun n => n % 2 ^ 63 + 2 ^ 63).getD s
  let r := (Config.freeWord s.tick).toNat
  { s.post [eventRecord 0 s.cycle none none (some ctx) 0 (r % 4) (r / 4 % 10)] with
    tick := s.tick + 1
    lanterns := kvPut Lantern.idle s.lanterns die { kvGet Lantern.idle s.lanterns die with stop := true } }

/-- Rows enter the gate queue while it has room for 512, one drain's in their order, those of several in any (R318): `n` of
them. -/
def Lantern.feed (k : Nat) : Nat → Lantern → Lantern
  | 0, l => l
  | n + 1, l =>
    if 512 ≤ l.rows.length then l
    else
      match l.feeds[Config.pick k % l.feeds.length]? with
      | none => l
      | some (op, r :: rest) =>
        Lantern.feed (k + 1) n { l with rows := l.rows ++ [r]
                                        feeds := (l.feeds.map fun f => if f.1 = op then (op, rest) else f).filter (·.2 != []) }
      | some (op, []) => Lantern.feed (k + 1) n { l with feeds := l.feeds.filter (·.1 != op) }

/-- Rows that have still to enter. -/
def Lantern.fed (l : Lantern) : Nat := (l.feeds.map (·.2.length)).sum

/-- Some of the rows of drains enter the queue of a die's Lantern, one at least where it is empty. -/
def State.feedGate (s : State) (die : Nat) : State :=
  let l := kvGet Lantern.idle s.lanterns die
  let n := Config.pick s.tick % (l.fed + 1)
  let n := if l.rows = [] ∧ n = 0 then 1 else n
  { s with lanterns := kvPut Lantern.idle s.lanterns die (l.feed (s.tick + 1) n), tick := s.tick + 1 + n }

/-- A Lantern changed. -/
def State.modLantern (s : State) (die : Nat) (f : Lantern → Lantern) : State :=
  { s with lanterns := kvPut Lantern.idle s.lanterns die (f (kvGet Lantern.idle s.lanterns die)) }

/-- Step 5 of R319: ROUTED counts the row when its writes have reached dies 0 to 3 (a release at sg3). -/
def State.countRow (s : State) (die ctx : Nat) (routed : W64) (ws : List Nat) : State :=
  if !s.homesReady || !ws.all fun w => s.appliedAtAll w 0x0F then s
  else
    let t := (s.modLantern die fun l => { l with owed := none }).asLantern die ctx
    { (t.bump routed 8 fun n => n + 1).getD (t.routeStopped die ctx routed) with cur := s.cur }

/-- Steps 1 to 4 of R319: a row's records put and its experts counted. -/
def State.routeRow (s : State) (die ctx : Nat) (b : List Byte) (n : Nat) (row : List W32) : State :=
  if !s.homesReady then s
  else
    let routed := dWord b 40
    let t := (s.modLantern die fun l => { l with rows := l.rows.tail, n := n + 1 }).asLantern die ctx
    let sel := selectExperts (dNum b 8 1) (dNum b 0 8) (row.map BitVec.toNat)
    let codes := sel.map (·.2)
    let recs := (List.range sel.length).map fun r =>
      let x := sel.getD r (0, 0)
      (x.1, routeRecord (dNum b 16 8 + n) (routeWeight codes x.2 (Config.freeWord (s.tick + r)).toNat) x.1 r)
    let t := { t with tick := t.tick + sel.length }
    let done : State := match t.putRoute (dWord b 24) recs with
      | some (t', true) =>
        match t'.bumpCounts (dWord b 32) (sel.map (·.1)) with
        | some t'' => t''.modLantern die fun l =>
            { l with owed := some ((t''.writes.filter fun w => decide (s.nextId ≤ w.id)).map (·.id)) }
        | none => t'.routeStopped die ctx routed
      | some (t', false) => t'.routeStopped die ctx routed
      | none => t.routeStopped die ctx routed
    { done with cur := s.cur }

/-- LANTERN_GATE_ROW (R319): rows of drains enter a die's gate queue, and its Lantern routes the oldest row there or counts
the one it has routed. -/
def execLanternGateRow (die : Nat) (s : State) : Host.Outcome State Fault Refusal :=
  let s := (s.feedGate die).settle
  let l := kvGet Lantern.idle s.lanterns die
  match l.desc, l.owed, l.rows with
  | some (ctx, pa), some ws, _ => .next (if l.stop then s else s.countRow die ctx (dWord (s.bytesAt pa 64) 40) ws)
  | some (ctx, pa), none, row :: _ => .next (if l.stop then s else s.routeRow die ctx (s.bytesAt pa 64) l.n row)
  | _, _, _ => .next s

end Sys2Proof.Machine
end

