-- ==== Sys2Proof/Machine/Stacks.lean ====
section
/-! DEFINITION. The Cupolas: packets, replies, refresh, patrol scrub; the quarters' aging and squashes (04, R66-R75; 16,
R277, R278). -/

namespace Sys2Proof.Machine

/-- Bytes of a stack. -/
def stackBytes : Nat := 64 * 10 ^ 9

/-! ## Reading a burst (R73, R74) -/

/-- A read of the burst at `pa`, by a request or by the scrubber: counters, log and poison as the outcome of the
correction code says; the status of the reply (R363, R365). -/
def State.eccRead (s : State) (k pa : Nat) (ecc : EccOutcome) (scrub : Bool) : State × Nat :=
  if s.burstBad (k / 3) pa then (s.modCup k (·.count 3), 2)
  else
    match ecc with
    | .good => (s, 0)
    | .corrected => ((s.modCup k (·.count 0)).logShared (burstOf pa) 0 0, 1)
    | .transient => ((s.modCup k (·.count 1)).logShared (burstOf pa) 1 0, 0)
    | .transientCorrected => ((s.modCup k (·.count 1)).logShared (burstOf pa) 1 0, 1)
    | .lasting =>
      let s := s.modCup k fun c =>
        { c.count 2 with log := ((stackOff (burstOf pa), s.cycle.toNat, scrub) :: c.log).take 64 }
      ({ s with poison := s.poison ++ [⟨burstOf pa, 0, []⟩] }, 2)

/-! ## Packets (R66-R68) -/

/-- Sizes and alignment of R66: reads of 32, 64, 128 or 256 bytes, naturally aligned; writes of 32 to 256 bytes; ATM packets of
a dword.  The bytes of a write lie in one 4 KiB block, and so in one stack. -/
def packetFits (p : Packet) : Request → Bool
  | .rd => [32, 64, 128, 256].contains p.size && p.pa % p.size == 0
  | .wr => decide (32 ≤ p.size) && decide (p.size ≤ 256) && decide (p.pa % 4096 + p.size ≤ 4096)
  | .atm _ => p.size == 8 && p.pa % 8 == 0

/-- The operation of an ATM packet, by the opcode of its AT member (14, R250). -/
def atmOp (op : Nat) : AtomicOp :=
  ([.add, .and, .or, .xor, .min, .max, .swap, .cas, .add, .min, .max, .fadd] : List AtomicOp).getD (op - 0x10) .add

/-- The operations of the groups that wait at a location for an ATM packet of an opcode (14, R248). -/
def State.atmAt (s : State) (op pa : Nat) : List (Nat × SliceKind × Op) :=
  (s.overAt (pa / 64 * 64)).filter fun x => x.2.2.member == some (atmOp op) && x.2.2.laneAt (pa / 8 * 8) .asked

/-- A packet a die may send to stack `k` now: legal, at its stack, its tag free; an ATM packet comes from the home die's
Belfry, for an operation at a line of the overflow area that no packet carries yet. -/
def State.packetOk (s : State) (k : Nat) (q : Request) (p : Packet) : Bool :=
  decide (p.die < 4) && decide (p.tag < 1024) && packetFits p q && regionOf p.pa == 0 && decide (p.pa < dramBytes)
    && stackOf p.pa == k && !((s.cup k).replies.any fun r => r.die == p.die && r.tag == p.tag)
    && !((s.cup k).queue.any fun r => r.p.die == p.die && r.p.tag == p.tag)
    && match q with
      | .atm op => p.die == k / 3 && decide (((s.cup k).queue.filter fun r => r.kind == q && r.p.pa == p.pa).length <
          (s.atmAt op p.pa).length)
      | _ => true

/-- The bursts a packet touches: one, or two of a write. -/
def packetBursts (p : Packet) : List Nat := [burstOf p.pa, burstOf (p.pa + p.size - 1)].eraseDups

def State.answer (s : State) (k : Nat) (p : Packet) (status : Nat) (mask : BitVec 8) (data : List Byte) : State :=
  s.modCup k fun c => { (packetBursts p).foldl (fun c b => c.touch (bankOf b)) c with replies := c.replies ++ [⟨p.die, p.tag, status, mask, data⟩] }

/-- The sectors an uncorrectable reply names: which of them is not specified, at least one. -/
def State.badSectors (s : State) : BitVec 8 := BitVec.ofNat 8 ((Config.freeWord s.tick).toNat % 255 + 1)

/-- The reply of a request whose read had status `st`; an uncorrectable one names sectors, and carries no bytes (DESIGN CHOICE,
log 99: R66 and R68 do not say what data it has). -/
def State.reply (s : State) (k : Nat) (p : Packet) (st : Nat) (data : List Byte) : State :=
  if st = 2 then { s.answer k p 2 s.badSectors [] with tick := s.tick + 1 } else s.answer k p st 0 data

/-- The packet's mask covers byte `a`. -/
def packetHas (p : Packet) (a : Nat) : Bool := decide (p.pa ≤ a) && decide (a < p.pa + p.size) && p.mask.getD (a - p.pa) false

/-- The byte mask of a packet over the dword at `x`, and its bytes there. -/
def packetMask (p : Packet) (x : Nat) : BitVec 8 :=
  BitVec.ofNat 8 ((List.range 8).foldl (fun m i => if packetHas p (x + i) then m + 2 ^ i else m) 0)

def packetDword (p : Packet) (x : Nat) : W64 :=
  bv (leNat ((List.range 8).map fun i => if packetHas p (x + i) then p.data.getD (x + i - p.pa) 0 else 0))

/-- RD performed at its bank. -/
def State.doRead (s : State) (k : Nat) (p : Packet) (ecc : EccOutcome) : State :=
  (s.eccRead k p.pa ecc false).1.reply k p (s.eccRead k p.pa ecc false).2 (s.bytesAt p.pa p.size)

/-- A write covers every byte of a burst, so that the bank reads nothing first. -/
def packetWhole (p : Packet) (b : Nat) : Bool := (List.range 256).all fun n => packetHas p (b + n)

/-- The bytes of the mask written, each dword a write that the home stamps and applies (15, R261). -/
def State.writePacket (s : State) (k : Nat) (p : Packet) : State :=
  (List.range ((p.pa % 8 + p.size + 7) / 8)).foldl (fun t n =>
    let x := p.pa / 8 * 8 + 8 * n
    if packetMask p x = 0 then t else t.stampApply (k / 3) x (packetMask p x) (packetDword p x) none) s

/-- A burst that a write covers in part is read for its check bits; a poisoned one is not (log 58). -/
def State.readsFirst (s : State) (k : Nat) (p : Packet) (b : Nat) : Bool := !packetWhole p b && !s.burstBad (k / 3) b

/-- The reads before a write, burst by burst, and the worst of their statuses. -/
def State.readPart (s : State) (k : Nat) (p : Packet) (ecc : EccOutcome) : State × Nat :=
  ((packetBursts p).filter (s.readsFirst k p)).foldl (fun t b =>
    let (u, st) := t.1.eccRead k b ecc false
    (u, max t.2 st)) (s, 0)

/-- WR performed at its bank.  A write of part of a burst reads the burst for its check bits: the outcome of that read is
the reply's status, and the write is performed whatever it is (R74; log 58).  A poisoned burst is not read. -/
def State.doWrite (s : State) (k : Nat) (p : Packet) (ecc : EccOutcome) : State :=
  ((s.readPart k p ecc).1.writePacket k p).reply k p (s.readPart k p ecc).2 []

/-- The operation of a group that waits at a location in the overflow area is performed there; on data it cannot correct it
is not (14, R255). -/
def State.overAtomic (s : State) (k op pa st : Nat) : State :=
  match s.atmAt op pa with
  | [] => s
  | (g, sl, o) :: _ =>
    s.onSlice g sl fun s => if st = 2 then s.atomicBad o (pa / 8 * 8) else s.atomicAt o (atmOp op) (k / 3) (pa / 8 * 8)

/-- ATM performed at its bank on the DRAM copy of a dword: the run of the word's lanes at it, whose operands are those of the
operation that waits there (14, R248, R253); the reply carries the old value. -/
def State.doAtm (s : State) (k : Nat) (op : Nat) (p : Packet) (ecc : EccOutcome) : State :=
  let (t, st) := s.eccRead k p.pa ecc false
  (t.overAtomic k op p.pa st).reply k p st (s.bytesAt p.pa p.size)

/-- A request performed. -/
def State.perform (s : State) (k : Nat) (q : Queued) : State :=
  match q.kind with
  | .rd => s.doRead k q.p q.ecc
  | .wr => s.doWrite k q.p q.ecc
  | .atm op => s.doAtm k op q.p q.ecc

/-- A request may be performed: its bank does not refresh, and for a write the home has applied what it has stamped. -/
def State.maySendNow (s : State) (k : Nat) (q : Queued) : Bool :=
  ((packetBursts q.p).all fun b => !(s.cup k).busy.contains (bankOf b)) && (q.kind == .rd || s.homeReady (k / 3))

/-- The waiting requests performed in order of arrival; one that must wait holds up those of its burst (R67). -/
def State.serveAll (s : State) (k : Nat) : List Queued → List Queued → State
  | [], kept => s.modCup k fun c => { c with queue := kept }
  | q :: t, kept =>
    if (kept.any fun r => (packetBursts r.p).any (packetBursts q.p).contains) || !s.maySendNow k q then s.serveAll k t (kept ++ [q])
    else (s.perform k q).serveAll k t kept

/-- What stack `k` can perform of what waits there. -/
def State.serve (s : State) (k : Nat) : State := s.serveAll k (s.cup k).queue []

/-- A packet reaches its stack: a request to a bank that refreshes waits until the refresh ends (R69). -/
def State.arrivePacket (s : State) (k : Nat) (q : Queued) : State :=
  if !s.packetOk k q.kind q.p then s else s.serveAll k ((s.cup k).queue ++ [q]) []

/-- RD_PACKET (R67, R68). -/
def execRdPacket (stack : Nat) (p : Packet) (ecc : EccOutcome) (s : State) : Host.Outcome State Fault Refusal :=
  .next (s.arrivePacket stack ⟨.rd, p, ecc⟩)

/-- WR_PACKET (R67, R74). -/
def execWrPacket (stack : Nat) (p : Packet) (s : State) : Host.Outcome State Fault Refusal :=
  .next (s.arrivePacket stack ⟨.wr, p, p.ecc⟩)

/-- ATM_PACKET (R66; 14, R248). -/
def execAtmPacket (stack : Nat) (p : Packet) (op : Nat) (s : State) : Host.Outcome State Fault Refusal :=
  .next (s.arrivePacket stack ⟨.atm op, p, p.ecc⟩)

/-- MEMORY_REPLY (R66-R68): a reply reaches the die that asked, and its tag is free again; replies go in any order. -/
def execMemoryReply (stack die tag : Nat) (s : State) : Host.Outcome State Fault Refusal :=
  .next ((s.modCup stack fun c => { c with replies := c.replies.filter fun r => !(r.die == die && r.tag == tag) }).serve stack)

/-! ## Refresh (R69) -/

/-- The banks of a pseudo-channel. -/
def banksOf (pch : Nat) : List Nat := (List.range 32).map fun b => pch * 32 + b

/-- PER_BANK_REFRESH (R69): a refresh of a bank falls due. -/
def execPerBankRefresh (stack pch bank : Nat) (s : State) : Host.Outcome State Fault Refusal :=
  if 12 ≤ stack ∨ 32 ≤ pch ∨ 32 ≤ bank then .next s
  else
    let b := pch * 32 + bank
    .next (s.modCup stack fun c =>
      let c' := { c with active := c.active.filter (· != b) }
      if c.forced.contains pch then c'
      else if !c.active.contains b && !(c.queue.any fun q => (packetBursts q.p).any fun x => bankOf x == b) then { c' with busy := c.busy ++ [b], owed := kvPut 0 c.owed b 0 }
      else if kvGet 0 c.owed b < 8 then { c' with owed := kvPut 0 c.owed b (kvGet 0 c.owed b + 1) }
      else { c' with forced := c.forced ++ [pch], busy := c.busy.filter (fun x => !(banksOf pch).contains x) ++ banksOf pch
                     owed := (banksOf pch).foldl (fun o x => kvPut 0 o x 0) c.owed })

/-- REFRESH_COMPLETE (R69): a bank's refresh, or a forced refresh of its pseudo-channel, ends. -/
def execRefreshComplete (stack pch bank : Nat) (s : State) : Host.Outcome State Fault Refusal :=
  .next ((s.modCup stack fun c =>
    if c.forced.contains pch then
      { c with forced := c.forced.filter (· != pch), busy := c.busy.filter fun x => !(banksOf pch).contains x }
    else { c with busy := c.busy.filter (· != pch * 32 + bank) }).serve stack)

/-! ## Patrol scrub (R71, R72) -/

/-- PATROL_SCRUB (R72): the next burst is read and, where it can be, corrected in place, in its turn among the requests of
that burst; after the last burst of the stack a pass is complete.  That a scrub's read counts as an access of its bank is
the model's choice (R69 says `access`; DESIGN CHOICE, log 58). -/
def execPatrolScrub (stack : Nat) (ecc : EccOutcome) (s : State) : Host.Outcome State Fault Refusal :=
  let c := s.cup stack
  if 12 ≤ stack ∨ !c.scrubEn then .next s
  else
    let pa := paOfStack stack c.pos
    if c.busy.contains (bankOf pa) || (c.queue.any fun q => (packetBursts q.p).contains (burstOf pa)) then .next s
    else
      let (t, _) := s.eccRead stack pa ecc true
      .next (t.modCup stack fun c =>
        if stackBytes ≤ c.pos + 256 then { c.touch (bankOf pa) with pos := 0, passes := (c.passes + 1) % 2 ^ 16 }
        else { c.touch (bankOf pa) with pos := c.pos + 256 })

/-! ## The quarters' scheduler (16, R277, R278) -/

/-- A group changed wherever it stands. -/
def State.modGroup (s : State) (id : Nat) (f : Group → Group) : State :=
  let g := fun r : Resident => if r.g.id = id ∧ id ≠ 0 then { r with g := f r.g } else r
  { s with cur := g s.cur, others := s.others.map g }

/-- SCHED_AGING_BOOST (R277): a group passed over 4,096 times is treated as class 3. -/
def execSchedAgingBoost (group : Nat) (s : State) : Host.Outcome State Fault Refusal :=
  .next (s.modGroup group fun g => if 4096 ≤ g.skipped then { g with boosted := true } else g)

/-- The launch of the group that issued last on a quarter. -/
def State.lastIssuer (s : State) (core quarter : Nat) : Option Nat :=
  let l := (s.cur :: s.others).filter fun r => r.g.id != 0 && r.g.quarter == quarter && match alFind s.teams r.g.team with
    | some t => t.core == core
    | none => false
  (l.foldl (fun (b : Option Group) r => match b with
    | none => some r.g
    | some g => if g.issued < r.g.issued then some r.g else some g) none).map (·.tcb)

/-- SCOREBOARD_SQUASH (R278): words without effect issue again, with results as if no squash had happened; the core's
counter rises.  The launch concerned is that of the quarter's last issuer (21, R365; log 85). -/
def execScoreboardSquash (core quarter : Nat) (s : State) : Host.Outcome State Fault Refusal :=
  if 192 ≤ core ∨ 4 ≤ quarter then .next s
  else .next ((s.modCore core (·.count 2)).logRepaired 0 core (s.lastIssuer core quarter) 1 2)

end Sys2Proof.Machine
end

