-- ==== Sys2Proof/Machine/Fabric.lean ====
section
/-! DEFINITION. The fabric channels and the host's accesses (15, R269, R270; 14, R256; 22, R378). -/

namespace Sys2Proof.Machine

/-! ## Replies to the requests of this package -/

/-- The channel of a die and a package without its head. -/
def State.popChan (s : State) (die pkg : Nat) : State :=
  { s with chans := s.chans.map fun c => if c.die = die ∧ c.pkg = pkg then { c with q := c.q.tail } else c }

/-- The first own write of an operation to a location is forgotten: another package has it. -/
def dropOwn (op x : Nat) : List OwnWrite → List OwnWrite
  | [] => []
  | w :: t => if w.op = op ∧ w.x = x ∧ w.w = none then t else w :: dropOwn op x t

/-- The first access that has been asked for at a location. -/
def askedAt (x : Nat) : List Access → Nat → Option Nat
  | [], _ => none
  | a :: t, k => if a.loc = some x ∧ a.st = .asked then some k else askedAt x t (k + 1)

/-- The launch of a group. -/
def State.tcbOfGroup (s : State) (grp : Nat) : Nat :=
  match (s.cur :: s.others).find? fun r => r.g.id == grp with
  | some r => r.g.tcb
  | none => 0xFFFF

/-- The core of a group, which it may have left with the request under way; none for a stream of the Keep. -/
def State.coreOfGroup (s : State) (grp : Nat) : Nat :=
  match (s.cur :: s.others).find? fun r => r.g.id == grp with
  | some r => ((alFind s.teams r.g.team).map (·.core)).getD (r.g.gone.getD 0xFFFF)
  | none => 0xFFFF

/-- A remote store acknowledged, or failed: a containment event of its launch (22, R378). -/
def State.storeReply (s : State) (x grp op : Nat) (bad : Bool) : State :=
  let t := s.onOp op fun r o =>
    { r with sl := { (match askedAt x o.acc 0 with
        | some k => r.sl.modAcc op k fun a => { a with st := .done }
        | none => r.sl) with own := dropOwn op x r.sl.own } }
  if bad then t.askRollback (s.tcbOfGroup grp) (7, s.coreOfGroup grp, bv x) else t

/-- A remote load's dword, or uncorrectable data. -/
def State.loadReply (s : State) (x op part : Nat) (v : W64) (bad : Bool) : State :=
  s.onOp op fun r o =>
    let own := ownOver (s.visible s.die r.sl.own) o.seq x v
    { r with sl := r.sl.modAcc op part fun a => match a.tgt with
        | .mem pa _ => if bad then { a with st := .bad } else { a with got := picked pa a.size own, st := .done }
        | .home pa => if bad then { a with st := .bad } else { a with got := picked pa a.size own, st := .done }
        | _ => a }

/-- The run of a remote atomic or reduction performed there from the old value `v` (14, R253, R256). -/
def State.atomicReply (s : State) (x grp op : Nat) (v : W64) (bad : Bool) : State :=
  let t := s.onOp op fun r o =>
    match o.kind with
    | .atomic k _ _ _ _ =>
      let (_, _, fl, acc) := runAt k x .done o.acc v
      { r with sl := { r.sl with ops := r.sl.ops.map fun p =>
          if p.id = op then
            (if bad then { p with acc := p.acc.map fun a => if a.loc = some x then
                             { a with st := if o.kind.fetches then .bad else .done } else a }
             else { p with acc := acc, fl := p.fl ||| fl })
          else p } }
    | _ => r
  if bad && !(match s.opOf op with
    | some (_, o) => o.kind.fetches
    | none => true) then t.askRollback (s.tcbOfGroup grp) (7, s.coreOfGroup grp, bv x) else t

/-- An engine operation or a loader or storer, by its number, is changed. -/
def State.onEngine (s : State) (id : Nat) (f : EngOp → EngOp) (g : Streamer → Streamer) : State :=
  { s with
    cores := s.cores.map fun c => (c.1, { c.2 with eq := c.2.eq.map fun q => (q.1, q.2.map fun o => if o.id = id then f o else o) })
    streams := s.streams.map fun x => if x.id = id then g x else x }

/-- A remote dword for an engine, loader or storer: data, or none where it is uncorrectable. -/
def State.engineData (s : State) (x id : Nat) (v : Option W64) : State :=
  s.onEngine id (fun o => { o with got := o.got ++ [(x, v)] }) fun y => { y with got := y.got ++ [(x, v)] }

/-- A remote write of an engine operation acknowledged: a failed one fails its element with cause 0x0A, unless an earlier
element has failed (07, R127; 22, R378). -/
def EngOp.acked (o : EngOp) (x : Nat) (bad : Bool) : EngOp :=
  match o.remote.find? (·.1 == x) with
  | none => o
  | some (_, i, a) =>
    let o := { o with remote := o.remote.eraseP (·.1 == x) }
    if bad && (o.cause == 0 || decide (i < o.fail)) then o.failAt i 0x0A a else o

/-- The same of a storer's item, whose cursor then stays (07, R139). -/
def Streamer.acked (y : Streamer) (x : Nat) (bad : Bool) : Streamer :=
  match y.remote.find? (·.1 == x) with
  | none => y
  | some (_, a) =>
    let y := { y with remote := y.remote.eraseP (·.1 == x) }
    if bad && y.cause == 0 then { y with cause := 0x0A, fva := some a } else y

def State.engineAck (s : State) (x id : Nat) (bad : Bool) : State := s.onEngine id (·.acked x bad) (·.acked x bad)

/-- The head request of a channel answered. -/
def State.chanReply (s : State) (die pkg : Nat) (v : W64) (bad : Bool) : State :=
  match (s.chans.find? fun c => c.die == die && c.pkg == pkg).bind fun c => c.q.head? with
  | none => s
  | some m =>
    let s := s.popChan die pkg
    (match m with
      | .write x _ _ grp op => if grp = 0 then s.engineAck x op bad else s.storeReply x grp op bad
      | .mirror x _ tcb => if bad then s.mirrorLost x tcb else s
      | .load x grp op part => if grp = 0 then s.engineData x op (if bad then none else some v) else s.loadReply x op part v bad
      | .atomic x grp op => s.atomicReply x grp op v bad).settle

/-! ## FABRIC_DELIVER (15, R269) -/

/-- One lane of another package's run as an access here. -/
def runLane (x size : Nat) (l : Nat × W64 × W64) : Access :=
  { lane := 0, va := 0, tgt := .mem (x + l.1) false, size := size, data := picked 0 size l.2.1, new := picked 0 size l.2.2,
    got := 0, st := .waiting }

/-- A request of another package at its destination here: the home die stamps and applies a write at once, under the
condition V_h[h] = N_h; the lanes of one word at one location are one run (14, R256); a read changes nothing. -/
def execFabricDeliver (m : FabMsg) (s : State) : Host.Outcome State Fault Refusal :=
  match m with
  | .write _ pa mask v =>
    let x := s.ownRegion pa / 8 * 8
    match homeOf x with
    | some h => if !s.homeReady h ∨ dramBytes ≤ x then .next s
      else
        .next (s.stampApply h x mask v none)
    | none => .next s
  | .read _ _ => .next s
  | .atomic _ pa size op run =>
    let x := s.ownRegion pa
    match homeOf x with
    | some h =>
      if !s.homeReady h ∨ dramBytes ≤ x ∨ s.poisoned x ∨ (size ≠ 4 ∧ size ≠ 8) ∨ x % 8 ≠ 0 ∨
          (run.any fun l => l.1 % size ≠ 0 || decide (8 ≤ l.1)) then .next s
      else
        let (v, m, _, _) := runAt (atmOp op) x .done (run.map (runLane x size)) (readDword (s.views.get h) x)
        .next ((s.holdLine h x).stampApply h x m v none)
    | none => .next s
  | .reply die pkg v bad => .next (s.chanReply die pkg v (bad || s.routeDown pkg))

/-- REMOTE_TIMEOUT (22, R378): the head request of a channel has no reply in 200 µs, or its route is down: it completes as
uncorrectable data. -/
def execRemoteTimeout (die pkg : Nat) (s : State) : Host.Outcome State Fault Refusal := .next (s.chanReply die pkg 0 true)

/-! ## HOST_ACCESS (15, R270; 22, R373) -/

/-- An atomic of the host at the home of a dword: its new value from the old one.  Agent 4 stamps its write, which the
home applies at once (R270). -/
def State.hostAtomic (s : State) (pa : Nat) (f : W64 → W64) : State :=
  let x := pa / 8 * 8
  match homeOf x with
  | none => s
  | some h =>
    let t := s.stampWrite 4 x 0xFF (f (readDword (s.views.get h) x)) none
    match t.writes.getLast? with
    | none => s
    | some w =>
      if s.poisoned x || !s.paValid pa || !t.canApply h w then s
      else ((if h = 4 then t else t.holdLine h x).applyAt h w).settle

/-- A host load, store or atomic; none is accepted until the Keep runs (22, R382). -/
def execHostAccess (m : HostOp) (s : State) : Host.Outcome State Fault Refusal :=
  if s.kstate ≠ 1 then .next s
  else
    match m with
    | .load _ => .next s
    | .store pa mask v => if (homeOf pa).isNone ∨ !s.paValid pa then .next s else .next (s.stampWrite 4 (pa / 8 * 8) mask v none)
    | .add pa v => .next (s.hostAtomic pa (· + v))
    | .swap pa v => .next (s.hostAtomic pa fun _ => v)
    | .cas pa e v => .next (s.hostAtomic pa fun o => if o = e then v else o)

end Sys2Proof.Machine
end

