-- ==== Sys2Proof/Machine/Interlock.lean ====
section
/-! DEFINITION. The formats' register fields, the repeat, the register interlock, and the words that cannot issue yet (02,
R25, R32-R35; 07, R118, R126, R143; 08, R156). -/

namespace Sys2Proof.Machine

/-! ## Register fields (02, R25, R33) -/

/-- What a field of a word names. -/
inductive Names where
  | scalar | vector | number
  deriving DecidableEq, Repr

/-- A field: its lowest bit, its width, what it names. -/
structure FieldAt where
  lo    : Nat
  width : Nat
  names : Names
  deriving DecidableEq, Repr

/-- The D, A and B fields of a format (R33). -/
structure WordFmt where
  d : Option FieldAt
  a : Option FieldAt
  b : Option FieldAt
  deriving DecidableEq, Repr

def sc (lo : Nat) : Option FieldAt := some ⟨lo, 9, .scalar⟩
def sc7 (lo : Nat) : Option FieldAt := some ⟨lo, 7, .scalar⟩
def ve (lo : Nat) : Option FieldAt := some ⟨lo, 7, .vector⟩
def nu (lo : Nat) : Option FieldAt := some ⟨lo, 7, .number⟩

def fmtVR : WordFmt := ⟨ve 18, ve 11, ve 4⟩

/-- The format of an opcode in its class (R30, R33); none where the class has no such opcode, and for CTRL. -/
def formatOf (cls op : Nat) : Option WordFmt :=
  if cls = 1 then (if 1 ≤ op ∧ op ≤ 0x1C then some ⟨sc 18, sc 9, sc 0⟩ else none)
  else if cls = 2 then
    (if 1 ≤ op ∧ op ≤ 0x0B then some ⟨sc 18, sc 9, none⟩ else if op ≤ 0x0E ∧ 0x0C ≤ op then some ⟨sc 18, none, none⟩ else none)
  else if cls = 3 then
    (if 1 ≤ op ∧ op ≤ 0x22 then some fmtVR
     else if 0x30 ≤ op ∧ op ≤ 0x36 then some ⟨ve 18, ve 11, none⟩
     else if 0x40 ≤ op ∧ op ≤ 0x48 then some ⟨ve 18, ve 11, some ⟨3, 8, .scalar⟩⟩ else none)
  else if cls = 4 ∨ cls = 5 ∨ cls = 7 then some fmtVR
  else if cls = 6 then
    (if op = 1 then some fmtVR
     else if 2 ≤ op ∧ op ≤ 4 then some ⟨ve 18, ve 11, none⟩
     else if 5 ≤ op ∧ op ≤ 0x0D then some fmtVR
     else if (0x10 ≤ op ∧ op ≤ 0x13) ∨ op = 0x18 then some ⟨sc 16, ve 9, none⟩
     else if 0x14 ≤ op ∧ op ≤ 0x17 then some ⟨ve 18, sc 9, none⟩ else none)
  else if cls = 8 then
    (if op = 1 ∨ op = 2 ∨ op = 5 ∨ op = 6 then some ⟨ve 18, sc 9, ve 2⟩
     else if op = 3 ∨ op = 4 ∨ op = 7 ∨ op = 8 ∨ op = 0x12 then some ⟨ve 18, sc 9, none⟩
     else if 9 ≤ op ∧ op ≤ 0x0B then some ⟨sc 16, sc 7, none⟩
     else if op = 0x0C then some ⟨ve 18, none, none⟩
     else if op = 0x0F then some ⟨some ⟨4, 9, .vector⟩, none, none⟩
     else if 0x0D ≤ op ∧ op ≤ 0x11 then some ⟨sc 4, none, none⟩ else none)
  else if cls = 9 then
    (if op = 1 then some ⟨ve 18, none, none⟩
     else if 2 ≤ op ∧ op ≤ 5 then some ⟨none, sc 16, none⟩
     else if 6 ≤ op ∧ op ≤ 9 then some ⟨sc 16, none, none⟩
     else if 0x0A ≤ op ∧ op ≤ 0x0C then some ⟨sc 16, sc 3, none⟩
     else if 0x10 ≤ op ∧ op ≤ 0x1B then some ⟨ve 18, ve 11, none⟩
     else if op = 0x20 ∨ op = 0x21 then some ⟨none, none, none⟩
     else if 0x22 ≤ op ∧ op ≤ 0x24 then some ⟨sc 16, none, none⟩ else none)
  else if cls = 10 then
    (if 1 ≤ op ∧ op ≤ 3 then some ⟨nu 4, ve 18, some ⟨11, 7, .scalar⟩⟩
     else if 7 ≤ op ∧ op ≤ 9 then some ⟨nu 0, some ⟨16, 9, .vector⟩, sc 7⟩
     else if 4 ≤ op ∧ op ≤ 0x0D then some ⟨nu 0, sc 16, sc 7⟩ else none)
  else if cls = 11 then (if 1 ≤ op ∧ op ≤ 0x0E then some ⟨sc 16, sc 7, sc7 0⟩ else none)
  else if cls = 12 then
    (if op = 1 ∨ op = 2 ∨ op = 0x0A ∨ op = 0x0B then some ⟨ve 18, ve 11, sc 2⟩
     else if 3 ≤ op ∧ op ≤ 0x0C then some ⟨sc 16, sc 7, sc7 0⟩ else none)
  else if cls = 13 then (if 1 ≤ op ∧ op ≤ 9 then some ⟨sc7 0, sc 16, sc 7⟩ else none)
  else none

/-- The register fields of a CTRL word, and the registers its opcode names by itself (16, R279-R288). -/
def ctrlFields (op : Nat) : List (Option FieldAt) × List Nat :=
  if 2 ≤ op ∧ op ≤ 5 then ([sc 16], [])
  else if op = 6 ∨ op = 7 then ([ve 18], [])
  else if op = 8 ∨ op = 0x0B then ([], [511])
  else if op = 9 then ([sc 16], [511])
  else if op = 0x0A then ([sc 16], [])
  else if op = 0x0F ∨ op = 0x13 then ([sc 7], [])
  else if op = 0x10 then ([], [506, 507, 508, 510, 511])
  else if op = 0x12 then ([sc 16], [])
  else if 0x14 ≤ op ∧ op ≤ 0x16 then ([sc 4], [])
  else if 0x18 ≤ op ∧ op ≤ 0x1A then ([ve 18, ve 11], [])
  else ([], [])

def wordOp (cls w : Nat) : Nat := if cls = 1 ∨ cls = 2 then w / 2 ^ 27 % 2 ^ 5 else w / 2 ^ 25 % 2 ^ 7

def FieldAt.get (f : FieldAt) (w : Nat) : Nat := w / 2 ^ f.lo % 2 ^ f.width

def FieldAt.put (f : FieldAt) (w v : Nat) : Nat := w - f.get w * 2 ^ f.lo + v * 2 ^ f.lo

/-! ## The repeat (02, R32-R35) -/

/-- A field at issue `k`: the stepped value, or the number that lies outside the field's range. -/
def stepField (f : Option FieldAt) (k : Nat) (step : Int) (w : Nat) : Except Int Nat :=
  match f with
  | none => .ok w
  | some f =>
    let v := (f.get w : Int) + k * step
    if v < 0 ∨ (2 : Int) ^ f.width ≤ v then .error v else .ok (f.put w v.toNat)

/-- The word of issue `k` of a repeat, or the first of D, A, B that leaves its range (R33; cause 0x03). -/
def stepWord (cls : Nat) (p : Option Rep) (w : Nat) : Except Int Nat :=
  match p, formatOf cls (wordOp cls w) with
  | some p, some f =>
    match stepField f.d p.k p.d w with
    | .error v => .error v
    | .ok w =>
      match stepField f.a p.k p.a w with
      | .error v => .error v
      | .ok w => stepField f.b p.k p.b w
  | _, _ => .ok w

/-- A step for a field that the target's format does not have (R33). -/
def badStep (f : Option FieldAt) (step : BitVec 4) : Bool := f.isNone && step != 0

/-- The checks of the repeat word itself (R34): not last, its target neither CTRL nor another repeat word, no step for an
absent field. -/
def Clause.rptOk (c : Clause) (d a b : BitVec 4) : Bool :=
  let w := (c.words.getD c.idx 0).toNat
  decide (c.idx < c.cnt) && c.cls != 0 && !isRptWord w && match formatOf c.cls (wordOp c.cls w) with
    | some f => !(badStep f.d d || badStep f.a a || badStep f.b b)
    | none => true

/-! ## The register interlock (08, R156; 07, R126) -/

/-- Registers a word names: scalars, vector names. -/
structure Named where
  scal : List Nat
  vec  : List Nat
  deriving DecidableEq, Repr

def Named.add (n : Named) (f : Option FieldAt) (w : Nat) : Named :=
  match f with
  | none => n
  | some f =>
    match f.names with
    | .scalar => { n with scal := f.get w :: n.scal }
    | .vector => { n with vec := f.get w :: n.vec }
    | .number => n

/-- How many names from its first a field names: the operand of a matrix word, the record of a bag word, the two words of
a 64-bit acas. -/
def State.spanOf (s : State) (cls op w : Nat) : Nat :=
  if cls = 9 ∧ op = 0x17 then w / 2 ^ 5 % 2 + 1
  else if cls = 10 ∧ op ≤ 2 then aNames s.cur.g.mfmt (h3Rows (w / 2 % 2 ^ 3 % 6))
  else if cls = 10 ∧ op = 7 then 16
  else if cls = 10 ∧ op = 8 then h3Rows ((s.rd (w / 2 ^ 7 % 2 ^ 9)).toNat / 2 ^ 12 % 8 % 6)
  else if cls = 12 ∧ (op ≤ 2 ∨ op = 0x0A ∨ op = 0x0B) then
    let h := s.rd (w / 2 ^ 2 % 2 ^ 9)
    match if op = 1 then s.bagOf h else (s.iterOf h).bind fun x => .ok (x.2.1, x.2.2) with
    | .ok (_, d) => bdRec d / 8
    | _ => 1
  else 1

/-- The first name of the span. -/
def spanBase (cls op w : Nat) : Nat :=
  if cls = 10 ∧ 4 ≤ op then w / 2 ^ 16 % 2 ^ 9 else w / 2 ^ 18 % 2 ^ 7

/-- The registers that a word names.  In a scalar-profile stream the vector fields name scalar registers (02, R22). -/
def State.named (s : State) (cls w : Nat) : Named :=
  let op := wordOp cls w
  let n : Named :=
    if cls = 0 then (ctrlFields op).1.foldl (fun n f => n.add f w) ⟨(ctrlFields op).2, []⟩
    else match formatOf cls op with
      | some f => ((Named.add ⟨[], []⟩ f.d w).add f.a w).add f.b w
      | none => ⟨[], []⟩
  let k := s.spanOf cls op w
  let n := if cls = 9 ∧ op = 0x24 then { n with scal := (w / 2 ^ 16 % 2 ^ 9 + 1) :: n.scal } else n
  let n := if k ≤ 1 then n else { n with vec := (List.range k).map (spanBase cls op w + ·) ++ n.vec }
  if s.cur.sl.scalar then ⟨n.vec ++ n.scal, []⟩ else n

/-- Scalar registers whose values are to come. -/
def Slice.pendingScal (x : Slice) : List Nat :=
  x.pending ++ x.ops.filterMap fun o => match o.kind with
    | .load (.scal d) => some d
    | .atomic _ _ (.scal d) _ _ => some d
    | .task (.scal d) => some d
    | .bag _ d _ _ _ _ => if o.acc = [] then none else some d
    | _ => none

/-- Vector names whose values are to come. -/
def Slice.pendingVec (x : Slice) : List Nat :=
  (x.ops.map fun o => match o.kind with
    | .load (.vec d) => [d]
    | .load (.bcast d) => [d]
    | .atomic _ _ (.vec d) _ _ => [d]
    | .matrix d n => (List.range n).map (d + ·)
    | _ => []).flatten

/-- A register the word names is still to be written. -/
def State.interlocked (s : State) (cls w : Nat) : Bool :=
  let n := s.named cls w
  (n.scal.any fun r => s.cur.sl.pendingScal.contains r) || n.vec.any fun r => s.cur.sl.pendingVec.contains r

/-! ## Words that cannot issue yet -/

/-- The queue an ASYNC word enters is full: an engine queue (07, R118), or the operand queue of `oldu` and `oldg` (07, R143). -/
def State.queueFull (s : State) (w : Nat) : Bool :=
  let op := wordOp 11 w
  let c := s.rd (w % 2 ^ 7)
  let engine := fun q : Nat => decide (32 ≤ (s.issCore.queue q).length)
  if op = 1 then engine (cField c 29 3)
  else if op = 2 ∨ op = 3 then engine 4
  else if op = 4 then engine 5
  else if op = 9 ∨ op = 10 then engine 6
  else if op = 12 then engine 7
  else (op == 13 || op == 14) && decide (16 ≤ (kvGet [] s.cur.g.oq (cField c 0 2)).length)

/-- The flag that a word sets (02, R16, R17): of the formats with FS as that field says, of MX, MC, AS, BS, TK and FM SETA. -/
def State.wordFlag (s : State) (cls w : Nat) : Option Nat :=
  if cls = 8 ∨ cls = 9 ∨ (cls = 12 ∧ [1, 2, 0x0A, 0x0B].contains (wordOp cls w)) then s.fsFlag (BitVec.ofNat 1 w)
  else if 10 ≤ cls ∧ cls ≤ 13 then s.setaFlag
  else none

/-- The selected slice stands at a word that cannot issue: a register it names is still to be written, its queue is full, or
its flag counts 63. -/
def State.heldWord (s : State) : Bool :=
  match s.cur.sl.clause with
  | none => false
  | some c => c.idx != 0 && !c.absent && match stepWord c.cls s.cur.sl.rep c.word.toNat with
    | .error _ => false
    | .ok w => s.interlocked c.cls w || (c.cls == 11 && s.queueFull w) || !s.flagFree (s.wordFlag c.cls w)

end Sys2Proof.Machine
end

