-- ==== Sys2Proof/Machine/Preempt.lean ====
section
/-! DEFINITION. Pre-emption: the unit stopped and drained, saved, and placed again; placement of pieces beside it (20,
R355-R359; 17, R303; 18, R309-R314; 19, R343; 26, R393). -/

namespace Sys2Proof.Machine

/-! ## The unit (R355) -/

/-- The clusters of the unit a team belongs to: the whole grid of a co-resident launch, else its own cluster. -/
def State.unitOf (s : State) (team : Nat) : List Nat :=
  match alFind s.teams team with
  | none => []
  | some t =>
    match alFind s.tcbs t.tcb with
    | some c => if c.kernel.cores then (s.clusters.filter fun p => p.2.tcb == t.tcb).map (·.1) else [t.cluster]
    | none => [t.cluster]

def State.unitTeams (s : State) (cls : List Nat) : List (Nat × Team) := s.teams.filter fun p => cls.contains p.2.cluster

/-- A group of one of the teams. -/
def Resident.inTeams (r : Resident) (ts : List (Nat × Team)) : Bool := r.g.id != 0 && ts.any fun p => p.1 == r.g.team

def State.unitGroups (s : State) (cls : List Nat) : List Resident :=
  (s.cur :: s.others).filter fun r => r.inTeams (s.unitTeams cls)

/-- A slice marked, or no longer marked, to stop; it is then blocked at no word yet. -/
def Slice.setStopped (x : Slice) (b : Bool) : Slice := { x with stopped := b, blocked := false }

/-- Both slices of a group marked, or no longer marked, to stop. -/
def Resident.setStopped (b : Bool) (r : Resident) : Resident :=
  { g := { r.g with companion := r.g.companion.map (·.setStopped b) }, sl := r.sl.setStopped b }

/-- The unit's slices stop at their next boundary, for the reason `why` (R356, step 1). -/
def State.stopUnit (s : State) (cls : List Nat) (why : Nat) : State :=
  let ts := s.unitTeams cls
  let f := fun r : Resident => if r.inTeams ts then r.setStopped true else r
  { s with
    cur := f s.cur
    others := s.others.map f
    teams := s.teams.map fun p => if cls.contains p.2.cluster ∧ p.2.stop = 0 then (p.1, { p.2 with stop := why }) else p }

/-- A slice at rest: at a clause boundary, between the issues of a repeat, or blocked at a word (R356, step 1). -/
def Slice.atRest (x : Slice) : Bool :=
  x.ended || (x.stopped && match x.clause with
    | none => true
    | some c => c.idx == 0 || x.rep.isSome || x.wait.isSome || x.blocked)

/-- An engine operation that has not started is discarded with its launch (21, R370, step 1). -/
def State.discards (s : State) (id : Nat) : Bool :=
  s.cores.any fun c => c.2.eq.any fun q => q.2.any fun o => o.id == id && !o.started && s.rollsBack o.tcb

/-- A fence of the slice waits for a loader or a storer, which pauses after the item in progress (R356, step 3), or for an
engine operation that is discarded. -/
def State.fencePaused (s : State) (x : Slice) (o : Op) : Bool :=
  match o.kind with
  | .fence _ _ _ _ qs => x.ops.any fun p => decide (p.seq < o.seq) && match p.kind with
    | .engine q _ => qs.getLsbD q && (s.discards p.id || s.streams.any fun y => y.op == p.id)
    | _ => false
  | _ => false

/-- What the slice has issued is complete, but for operations in an engine queue, loads whose bad data is held until a
handler ends (R356, steps 2 and 3; R351), and a fence that waits for a loader or a storer with what it holds back (log 17). -/
def State.settled (s : State) (x : Slice) : Bool :=
  x.ops.all fun o => match o.kind with
    | .engine _ _ => true
    | _ => (o.kind.fetches && o.drained && o.acc.any (·.st == .bad)) ||
        x.ops.any fun p => decide (p.seq ≤ o.seq) && s.fencePaused x p

/-- The selected slice may be saved: at rest, or stopped at a word that cannot issue; an access slice on a fenced AAE issues
nothing, wherever it stands (07, R141). -/
def State.sliceReady (s : State) (fenced : Bool) : Bool :=
  (s.cur.sl.atRest || (s.cur.sl.stopped && s.heldWord) || (fenced && s.cur.sl.kind == .access)) && s.settled s.cur.sl

/-- Both slices of a group may be saved. -/
def State.groupReady (s : State) (fenced : Bool) (r : Resident) : Bool :=
  ({ s with cur := r } : State).sliceReady fenced && (r.g.companion.isNone || ({ s with cur := r.swap } : State).sliceReady fenced)

/-! ## PREEMPTION (R355, R356) -/

def pktPreempt (p : BitVec 512) : Bool := pkt p 37 1 / 2 % 2 == 1

/-- A starving gang that may pre-empt has reserved the team's core and is of higher PRIO (18, R314). -/
def State.gangWants (s : State) (t : Team) : Bool :=
  s.resv.any fun r => r.tcb != t.tcb && r.covers t.core && (match alFind s.tcbs r.tcb, alFind s.tcbs t.tcb with
      | some a, some b => pktPreempt a.packet && decide (pktPrio b.packet < pktPrio a.packet)
      | _, _ => false)

/-- A group of the unit waits for the answer to a translation-fault record (R349). -/
def State.unitFaulted (s : State) (tcb : Nat) (cls : List Nat) : Bool :=
  (match alFind s.tcbs tcb with
    | some t => t.xfault.isSome
    | none => false) && (s.unitGroups cls).any fun r => r.sl.wait == some .keep || (r.g.companion.map (·.wait)) == some (some .keep)

/-- PREEMPTION (R355, R356, R359): the Keep stops the unit of a team for a translation fault or a starving gang; where its
save area cannot be allocated (a free value, log 17) it does not. -/
def execPreemption (tcb team : Nat) (s : State) : Host.Outcome State Fault Refusal :=
  match alFind s.teams team with
  | none => .next s
  | some t =>
    if t.tcb ≠ tcb ∨ t.ended ∨ t.stop ≠ 0 then .next s
    else
      let cls := s.unitOf team
      let why := if s.unitFaulted tcb cls then 2 else if s.gangWants t then 1 else 0
      if why = 0 ∨ !Config.saveRoom s.tick then .next s else .next (s.stopUnit cls why)

/-! ## The save (R357; 17, R303) -/

/-- Accumulator blocks of a team on a core. -/
def Core.blocksOf (c : Core) (team : Nat) : List Nat := (List.range 128).filter fun b => kvGet none c.owner b == some team

/-- Queued engine operations of teams on a core. -/
def Core.opsOf (c : Core) (teams : List Nat) : List (Nat × EngOp) :=
  (c.eq.map fun q => (q.2.filter fun o => teams.contains o.team).map fun o => (q.1, o)).flatten

/-- The unit may be saved: every slice at rest and settled, no engine operation of it started. -/
def State.unitReady (s : State) (cls : List Nat) : Bool :=
  let ts := s.unitTeams cls
  let keys := ts.map (·.1)
  ((s.unitGroups cls).all fun r => s.groupReady (s.core (s.teamCore r.g.team)).fenced r) && ts.all fun p => p.2.ended ||
    (p.2.stop != 0 && (((s.core p.2.core).opsOf keys).all fun o => !o.2.started) &&
      (s.core p.2.core).mjobs.all fun j => !keys.contains j.team)

/-- The unit's state, as its save area holds it. -/
def State.unitSaved (s : State) (cls : List Nat) (tcb why : Nat) : Saved :=
  let ts := s.unitTeams cls
  let keys := ts.map (·.1)
  let live := ts.filter fun p => !p.2.ended
  let blocks := (live.map fun p => ((s.core p.2.core).blocksOf p.1).map fun b =>
    (p.2.core, b, p.1, kvGet false (s.core p.2.core).inUse b)).flatten
  { tcb := tcb, order := s.nextId, why := why
    clusters := s.clusters.filter fun p => cls.contains p.1
    teams := ts
    groups := (s.unitGroups cls).map fun r => { r with g := r.g.releaseLatches }
    blocks := blocks
    rows := (blocks.map fun b => ((s.core b.1).rows.filter fun r => r.1 / 8 == b.2.1).map fun r => (b.1, r.1, r.2)).flatten
    ops := ((live.map (·.2.core)).eraseDups.map fun c => ((s.core c).opsOf keys).map fun o => (c, o.1, o.2)).flatten }

/-- The unit's registers, lines, barriers, queues, rings and accumulator blocks freed (R356, step 5). -/
def State.releaseUnit (s : State) (cls : List Nat) : State :=
  let ts := s.unitTeams cls
  let keys := ts.map (·.1)
  let ids := (s.unitGroups cls).map (·.g.id)
  { s with
    cores := s.cores.map fun (c : Nat × Core) =>
      let k := keys.foldl Core.freeTeam c.2
      (c.1, { k with eq := k.eq.map fun q => (q.1, q.2.filter fun o => !keys.contains o.team)
                     alatch := k.alatch.filter fun l => !ids.contains l })
    cur := if s.cur.inTeams ts then ⟨Group.idle, Slice.idle .execute⟩ else s.cur
    others := s.others.filter fun r => !r.inTeams ts
    teams := s.teams.filter fun p => !cls.contains p.2.cluster
    clusters := s.clusters.filter fun p => !cls.contains p.1 }

/-- Frames of the unit in a frame area are moved into the pool (17, R303). -/
def State.moveUnitFrames (s : State) (cls : List Nat) : State :=
  (s.frames.filter fun p => handleSpf p.2.handle && cls.contains p.2.cluster).foldl (fun s p => s.moveFrame p.1) s

/-- A save or a restore meets an uncorrectable error (R359): what the environment decides, a free value (log 17). -/
def State.saveBad (s : State) : Bool := Config.choice s.tick 359 % 2 == 1

/-- The unit's state is lost: the launch is to be rolled back (R359; 21, R365). -/
def State.unitLost (s : State) (tcb core : Nat) : State := s.askRollback tcb (0, core, 0)

/-- PREEMPT_SAVE (R356, R357, R359): the stopped unit of a team, drained, is written to its save area and its resources
freed, or lost. -/
def execPreemptSave (team : Nat) (s : State) : Host.Outcome State Fault Refusal :=
  match alFind s.teams team with
  | none => .next s
  | some t =>
    let cls := s.unitOf team
    if t.stop = 0 ∨ !s.unitReady cls then .next s
    else if s.saveBad then .next (s.unitLost t.tcb t.core)
    else
      let s := s.moveUnitFrames cls
      let u := s.unitSaved cls t.tcb t.stop
      let s := (s.releaseUnit cls).settleRoom
      .next ({ s with saved := s.saved ++ [(s.nextId, u)], nextId := s.nextId + 1 } : State).settlePend

/-! ## The restore (R358) -/

/-- A group's own team groups, or its task-slot groups. -/
def ownGroups (gs : List Resident) (team : Nat) : List Resident := gs.filter fun r => r.g.team == team && r.g.task == .team

def slotGroups (gs : List Resident) (team : Nat) : List Resident := gs.filter fun r => r.g.team == team && r.g.task != .team

/-- One group more on a quarter of a core: a place and its registers (R310; 08, R151). -/
def State.groupFits (s : State) (core q : Nat) (r : Resident) : Bool :=
  let gs := (s.groupsOn core).filter fun g => g.quarter == q
  decide (gs.length + 1 ≤ 12) && (List.range 6).all fun b =>
    decide ((gs.map (·.taken b)).foldl (· + ·) (r.g.taken b) + (match gs with
      | [] => r.g.reserve b
      | g :: t => (oldestOf t g).reserve b) ≤ 96)

/-- A group restored on a quarter of its team's core, where its residency begins anew at `time`, that of the unit (08, R151);
its slices may issue again. -/
def State.restoreGroup (s : State) (time core q : Nat) (r : Resident) : Option State :=
  if s.groupFits core q r then
    let x := r.setStopped false
    some { s with others := s.others ++ [{ x with g := { x.g with quarter := q, since := time } }] }
  else none

/-- Groups restored one after the other on the quarters `f` gives. -/
def State.restoreGroups (s : State) (time core : Nat) (f : State → Resident → Option Nat) : List Resident → Option State
  | [] => some s
  | r :: t =>
    match f s r with
    | none => none
    | some q =>
      match s.restoreGroup time core q r with
      | none => none
      | some s => s.restoreGroups time core f t

/-- The quarter of a restored task-slot group: the fewest resident groups among those with room for it (R358). -/
def State.slotRoom (s : State) (core : Nat) (r : Resident) : Option Nat :=
  let n := fun q => ((s.groupsOn core).filter fun g => g.quarter == q).length
  (List.range 4).foldl (fun best q =>
    if !s.groupFits core q r then best
    else match best with
      | none => some q
      | some b => if n q < n b then some q else some b) none

/-- A core can take a team of a saved unit, its groups apart: lines, barriers, queues, rings, accumulator blocks. -/
def State.teamFits (s : State) (u : Saved) (p : Nat × Team) (k : Kernel) (core : Nat) : Bool :=
  s.hasRoom core u.tcb { k with groups := 0, scrl := p.2.scrl, bars := p.2.nbars, tqs := p.2.ntqs, rings := p.2.rings } false &&
    u.blocks.all fun b => b.2.2.1 != p.1 || kvGet none (s.core core).owner b.2.1 == none

/-- Blocks, rows and engine operations of a saved team put back on its new core. -/
def State.restoreCore (s : State) (u : Saved) (team core : Nat) : State :=
  let mine := u.blocks.filter fun b => b.2.2.1 == team
  let ops := u.ops.filter fun o => o.2.2.team == team
  let s := s.modCore core fun c => { c with
    owner := mine.foldl (fun o b => kvPut none o b.2.1 (some team)) c.owner
    inUse := mine.foldl (fun o b => kvPut false o b.2.1 b.2.2.2) c.inUse
    rows := (u.rows.filter fun r => mine.any fun b => b.1 == r.1 && b.2.1 == r.2.1 / 8).foldl
      (fun rs r => kvPut Row.cleared rs r.2.1 r.2.2) c.rows }
  ops.foldl (fun s o => s.modCore core fun c =>
    { c with eq := kvPut [] c.eq o.2.1 (c.queue o.2.1 ++ [{ o.2.2 with core := core }]) }) s

/-- One team restored on a core, with its groups; none where the core does not meet R358. -/
def State.restoreTeam (s : State) (time : Nat) (u : Saved) (k : Kernel) (p : Nat × Team) (core : Nat) : Option State :=
  let put := fun s : State => { s with
    teams := s.teams ++ [(p.1, { p.2 with core := core, stop := 0, placed := time })]
    frames := s.frames.map fun f =>
      if f.2.cluster = p.2.cluster ∧ f.2.core = p.2.core then (f.1, { f.2 with core := core }) else f }
  if p.2.ended then some (put s)
  else if !s.teamFits u p k core then none
  else
    let s := ((put s).clearArea core).restoreCore u p.1 core
    match s.restoreGroups time core (fun _ r => some (r.g.gidx % 4)) (ownGroups u.groups p.1) with
    | none => none
    | some s => s.restoreGroups time core (fun s r => s.slotRoom core r) (slotGroups u.groups p.1)

/-- The teams of a cluster restored, each on the core of its cluster core number. -/
def State.restoreTeams (s : State) (time : Nat) (u : Saved) (k : Kernel) (cores : List Nat) : List (Nat × Team) → Option State
  | [] => some s
  | p :: t =>
    match s.restoreTeam time u k p (cores.getD p.2.cidx 0) with
    | none => none
    | some s => s.restoreTeams time u k cores t

/-- A cluster restored at an origin (R358): a rectangle of the same shape. -/
def State.restoreAt (s : State) (time : Nat) (u : Saved) (k : Kernel) (p : Nat × Cluster) (origin : Nat) : Option State :=
  match rectCores origin p.2.width p.2.height with
  | none => none
  | some l =>
    { s with clusters := s.clusters ++ [(p.1, { p.2 with origin := origin })] }.restoreTeams time u k l
      (u.teams.filter fun q => q.2.cluster == p.1)

/-- The clusters of a unit restored: the first on the first rectangle that holds `core`, the others on the first that fit. -/
def State.restoreClusters (s : State) (time : Nat) (u : Saved) (k : Kernel) (core : Option Nat) : List (Nat × Cluster) → Option State
  | [] => some s
  | p :: t =>
    let ok := fun o => match rectCores o p.2.width p.2.height with
      | some l => (match core with
          | some c => l.contains c
          | none => true)
      | none => false
    match ((List.range 192).filter ok).findSome? (s.restoreAt time u k p) with
    | none => none
    | some s => s.restoreClusters time u k none t

/-- A unit is placeable: the answer to its translation fault has come, its phase has ended (R349; 19, R343; 26, R393). -/
def State.placeable (s : State) (u : Saved) : Bool :=
  (match alFind s.tcbs u.tcb with
    | some t => t.st == .running && !t.rolling && (u.why != 2 || t.xfault.isNone)
    | none => false) && (u.why != 3 || u.groups.all fun r => !r.inPhase)

/-- The state with a unit restored around a core, all of it in one step of the Keep; none where it does not fit. -/
def State.restored (s : State) (x : Nat × Saved) (core : Nat) : Option State :=
  match alFind s.tcbs x.2.tcb with
  | none => none
  | some t =>
    if !s.placeable x.2 then none
    else { s with saved := s.saved.filter fun p => p.1 != x.1, nextId := s.nextId + 1 }.restoreClusters s.nextId x.2 t.kernel
      (some core) x.2.clusters

/-! ## WPHASE_SPILL (19, R343) -/

/-- A piece of the grid that no core has room for: an unplaced one, or a spilled unit whose phase has ended, which is placed as
a piece. -/
def State.pieceStuck (s : State) (tcb : Nat) (t : Tcb) : Bool :=
  (t.pieces != [] && (s.findRect tcb t none false).isNone) ||
    s.saved.any fun x => x.2.tcb == tcb && x.2.why == 3 && s.placeable x.2 && (List.range 192).all fun c => (s.restored x c).isNone

/-- Every group of a unit waits in wphase. -/
def State.phaseWaits (s : State) (cls : List Nat) : Bool :=
  let gs := s.unitGroups cls
  gs != [] && gs.all Resident.inPhase

/-- WPHASE_SPILL (19, R343): a unit whose groups all wait in wphase is stopped for its save where the grid has a piece no
core has room for; the oldest placement first. -/
def execWphaseSpill (team : Nat) (s : State) : Host.Outcome State Fault Refusal :=
  match alFind s.teams team with
  | none => .next s
  | some t =>
    match alFind s.tcbs t.tcb with
    | none => .next s
    | some c =>
      let cls := [t.cluster]
      let older := s.teams.any fun p => p.2.tcb == t.tcb && !p.2.ended && p.2.stop == 0 && decide (p.2.placed < t.placed) &&
        p.2.cluster != t.cluster && s.phaseWaits [p.2.cluster]
      if c.kernel.cores ∨ t.ended ∨ t.stop ≠ 0 ∨ !s.phaseWaits cls ∨ !s.pieceStuck t.tcb c ∨ older ∨ !Config.saveRoom s.tick then
        .next s
      else .next (s.stopUnit cls 3)

/-! ## The order of units and pieces (26, R393; 18, R310) -/

/-- Launch `a` goes before launch `b`: higher PRIO, then ready first, then the lower TCB. -/
def tcbBefore (a b : Nat × Tcb) : Bool :=
  if pktPrio a.2.packet ≠ pktPrio b.2.packet then decide (pktPrio b.2.packet < pktPrio a.2.packet)
  else if a.2.readyAt ≠ b.2.readyAt then decide (a.2.readyAt < b.2.readyAt)
  else decide (a.1 < b.1)

/-- A saved unit that fits around the core goes before a piece, or another unit, of launch `i`. -/
def State.unitGoesFirst (s : State) (core i : Nat) (t : Tcb) (order : Option Nat) : Bool :=
  s.saved.any fun x =>
    (if x.2.tcb = i then match order with
        | some k => decide (x.2.order < k)
        | none => true
     else match alFind s.tcbs x.2.tcb with
       | some u => tcbBefore (x.2.tcb, u) (i, t)
       | none => false) && (s.restored x core).isSome

/-- The pieces that fit around a core (R310, R313). -/
def State.fitting (s : State) (core : Nat) : List (Nat × Tcb × Nat × Nat) :=
  s.offers.filter fun e =>
    if e.2.1.kernel.cores then
      (match alFind s.ctxs e.2.1.ctx with
        | some c => c.gholder.isNone
        | none => false) && (s.placeWhole e.1 e.2.1 e.2.1.pieces).isSome
    else (s.findRect e.1 e.2.1 (some core) false).isSome

/-- UNIT_RESUME (R358, R359; 26, R393): a saved unit, first in the order of R393 of what fits around the core, is placed and
issues from its resume point, or is lost. -/
def execUnitResume (unit core : Nat) (s : State) : Host.Outcome State Fault Refusal :=
  let s := s.settleReady.settleRoom
  match alFind s.saved unit with
  | none => .next s
  | some u =>
    match alFind s.tcbs u.tcb, s.restored (unit, u) core with
    | some t, some s' =>
      if s.unitGoesFirst core u.tcb t (some u.order) ∨
          (s.fitting core).any (fun e => e.1 != u.tcb && tcbBefore (e.1, e.2.1) (u.tcb, t)) then .next s
      else if s.saveBad then
        .next (({ s with saved := s.saved.filter fun p => p.1 != unit } : State).unitLost u.tcb core)
      else .next s'.settleRoom.reserveAll
    | _, _ => .next s

/-! ## Placement (18, R309, R310, R313) -/

/-- Core `c` has room and gained it before core `core`; in one step of the Keep the lower number did (R310). -/
def State.roomBefore (s : State) (c core : Nat) : Bool :=
  match kvGet (some 0) s.roomAt c, kvGet (some 0) s.roomAt core with
  | some a, some b => decide (a < b) || (a == b && decide (c < core))
  | some _, none => true
  | none, _ => false

/-- No core that gained room earlier has something to take. -/
def State.firstIn (s : State) (core : Nat) (takes : Nat → Bool) : Bool :=
  (List.range 192).all fun c => !s.roomBefore c core || !takes c

/-- The piece of a reservation that holds a core, and its region, once every core of the region has room (R314). -/
def State.dueRegion (s : State) (core : Nat) : Option ((Nat × Tcb × Nat × Nat) × Nat × List Nat) :=
  s.resv.findSome? fun r =>
    match alFind s.tcbs r.tcb, rectCores r.origin r.width r.height with
    | some t, some l =>
      if t.kernel.cores || !l.contains core || !(l.all fun c => s.hasRoom c r.tcb t.kernel false) then none
      else (s.offers.find? fun e => e.1 == r.tcb && e.2.2.1 == r.lo).map fun e => (e, r.origin, l)
    | _, _ => none

/-- The groups of a launch that is placed whole are resident from one step of the Keep on (R313; 08, R151). -/
def State.sameSince (s : State) (tcb time : Nat) : State :=
  { s with others := s.others.map fun r => if r.g.tcb = tcb then { r with g := { r.g with since := time } } else r }

/-- A piece placed on a rectangle; then what the step has changed is seen. -/
def State.placedOn (s : State) (e : Nat × Tcb × Nat × Nat) (o : Nat) (l : List Nat) : State :=
  (s.placePiece e.1 e.2.1 e.2.2.1 e.2.2.2 o l).settleRoom.reserveAll

/-- PIECE_PLACE (R309, R310, R313, R314): a reserved region that has room for its piece takes it; else a core with room, the
first that can take one in the order in which cores gained room, takes the unplaced piece that fits, first in the order of
R310; saved units that go first are waited for. -/
def execPiecePlace (core : Nat) (s : State) : Host.Outcome State Fault Refusal :=
  let s := s.settleReady.settleRoom
  match s.dueRegion core, firstOffer (s.fitting core) with
  | some (e, o, l), _ => .next (s.placedOn e o l)
  | none, none => .next s
  | none, some (i, t, lo, hi) =>
    if s.unitGoesFirst core i t none ∨ !s.firstIn core fun c => s.fitting c != [] then .next s
    else if t.kernel.cores then
      match (s.bindCounters t.ctx i).placeWhole i t t.pieces with
      | some s' => .next (s'.sameSince i s.nextId).settleRoom.reserveAll
      | none => .next s
    else
      match s.findRect i t (some core) false with
      | some (o, l) => .next (s.placedOn (i, t, lo, hi) o l)
      | none => .next s

/-- A core with room that no unplaced piece and no saved unit fits, and that could take the half of a placed piece (R311). -/
def State.maySplit (s : State) (core : Nat) : Bool :=
  (s.fitting core).isEmpty && !(s.saved.any fun x => (s.restored x core).isSome) && !(s.splittable core).isEmpty

/-- PIECE_SPLIT (18, R311): the first such core in the order of R310 takes the upper half of a placed piece; where there is
none to split, the core's idle task slots split the spawnr pieces of their clusters (R323). -/
def execPieceSplit (core : Nat) (s : State) : Host.Outcome State Fault Refusal :=
  let s := s.settleReady.settleRoom
  if !(s.fitting core).isEmpty ∨ s.saved.any (fun x => (s.restored x core).isSome) then .next s
  else
    match firstSplit (core / 48) (s.splittable core) with
    | none => .next (s.slotSplit core)
    | some (cl, c, i, t) =>
      let mid := c.lo + (c.hi - c.lo) / 2
      match if s.firstIn core s.maySplit then s.findRect i t (some core) true else none with
      | none => .next s
      | some (o, l) =>
        let s := { s with clusters := alMod s.clusters cl fun c => { c with hi := mid } }.mirrorPiece cl
        .next (s.placedOn (i, t, mid, c.hi) o l)

end Sys2Proof.Machine
end

