-- ==== Sys2Proof/Machine/Fault.lean ====
section
/-! DEFINITION. Containment events: errors of on-chip storage, a lasting fault of an AAE, rollback and replay (21, R363-R371;
07, R141). -/

namespace Sys2Proof.Machine

/-! ## Errors of on-chip storage (R363-R365) -/

/-- STORAGE_ECC_ERROR (R363, R364): an error in a register file (source 3), a scratchpad (4), an accumulator store (5) or a
Belfry's SRAM (6).  Corrected, it is counted; lasting, it calls for the rollback of the launch that owns the storage and
marks the core suspect; in a Belfry, the word of the held line at address `aux` is uncorrectable data at its location (14,
R248, R255). -/
def execStorageEccError (core source tcb : Nat) (aux : BitVec 64) (lasting : Bool) (s : State) : Host.Outcome State Fault Refusal :=
  if source < 3 ∨ 6 < source ∨ 192 ≤ core then .next s
  else if lasting then
    if source = 6 then .next { s with belfry := s.belfry.map fun b =>
      if b.line = aux.toNat / 64 * 64 then { b with bad := b.bad ||| BitVec.ofNat 8 (2 ^ (aux.toNat % 64 / 8)) } else b }
    else
      .next (((s.askRollback tcb (source, core, aux)).modCore core fun c => { c with suspect := true }).logEvent
        aux (some core) (some tcb) 4 2 source)
  else .next ((s.modCore core fun c => c.count 3).logRepaired aux core (some tcb) 0 source)

/-- The other coupled teams of a core stopped for their save, those whose save area can be allocated (07, R141; R359). -/
def State.stopCoupled (s : State) (core : Nat) (but : Nat) : State :=
  ((s.teamsOn core).filter fun p => p.2.stop == 0 && p.2.tcb != but && match alFind s.tcbs p.2.tcb with
      | some t => !t.kernel.detached
      | none => false).foldl
    (fun s p => if Config.saveRoom s.tick then { s.stopUnit (s.unitOf p.1) 5 with tick := s.tick + 1 }
                else { s with tick := s.tick + 1 }) s

/-- AAE_LASTING_FAULT (07, R141; R365): the AAE of a core is fenced, the launch whose access slice met the fault is rolled
back, the other coupled teams there are pre-empted. -/
def execAaeLastingFault (core tcb : Nat) (s : State) : Host.Outcome State Fault Refusal :=
  if 192 ≤ core then .next s
  else
    let s := s.modCore core fun c => { c with fenced := true, toFence := false }
    let s := s.logEvent 0 (some core) (some tcb) 8 2 9
    .next ((s.askRollback tcb (9, core, 0)).stopCoupled core tcb)

/-! ## Rollback (R369-R371) -/

/-- Launches, retired ones as 4096, that wrote a block after a snapshot of a member was taken. -/
def State.laterWriters (s : State) (set : List Nat) : List Nat :=
  (s.writers.filter fun w => s.snaps.any fun p => set.contains p.tcb && p.block == w.2.1 && decide (p.time < w.2.2)).map (·.1)

/-- A launch that runs, and has not failed. -/
def State.runs (s : State) (i : Nat) : Bool :=
  match alFind s.tcbs i with
  | some t => t.st == .running && !t.failed
  | none => false

/-- A launch that has retired, or has failed and retires once it is still. -/
def State.gone (s : State) (i : Nat) : Bool :=
  i == 4096 || match alFind s.tcbs i with
    | some t => t.failed
    | none => false

/-- The rollback set (R369): running launches join until it grows no further. -/
def State.rollSet (s : State) : Nat → List Nat → List Nat
  | 0, set => set
  | n + 1, set => s.rollSet n (set ++ ((s.laterWriters set).filter fun i => s.runs i && !set.contains i).eraseDups)

/-- Nothing can be restored (R369): a member is unprotected, a launch that wrote such a block has retired, a TCB whose
count a member reduced no longer waits. -/
def State.rollFails (s : State) (set : List Nat) : Bool :=
  (s.laterWriters set).any s.gone || set.any fun i => match alFind s.tcbs i with
    | some t => t.unprot || t.reduced.any fun e => match alFind s.tcbs e.1 with
        | some c => c.st != .waiting
        | none => true
    | none => true

/-- A member has been rolled back three times (R371). -/
def State.rollSpent (s : State) (set : List Nat) : Bool := set.any fun i => match alFind s.tcbs i with
  | some t => decide (3 ≤ t.replays)
  | none => false

/-- What the members have issued and the engine operations they have started are complete, and their writes are applied
everywhere (R370, step 1). -/
def State.rollDrained (s : State) (set : List Nat) : Bool :=
  ((s.cur :: s.others).all fun r => r.g.id == 0 || !set.contains r.g.tcb ||
    (r.sl.ended && s.settled r.sl && match r.g.companion with
      | some x => x.ended && s.settled x
      | none => true)) &&
  (s.cores.all fun c =>
    (c.2.eq.all fun q => q.2.all fun o => !(set.contains o.tcb && o.started)) &&
    c.2.mjobs.all fun j => match alFind s.teams j.team with
      | some t => !set.contains t.tcb
      | none => true) &&
  s.writes.all fun w => match w.tcb with
    | some t => !set.contains t
    | none => true

/-- The members' snapshots, the latest copy first. -/
def latestFirst (l : List Snap) : List Snap := sortBy (fun a b => decide (b.time ≤ a.time)) l

/-- One snapshot copied back at its home; every agent sees the block as it was, and held lines of it are dropped (R370,
step 3; log 11). -/
def State.copyBack (s : State) (p : Snap) : State :=
  { s with
    views := s.views.all fun m => writeBytes m p.block ((List.range 65536).map fun k => readByte p.cells (p.block + k))
    poison := (s.poison.filter fun q => blockOf q.burst != p.block) ++ p.poison
    belfry := s.belfry.filter fun l => blockOf l.line != p.block }

/-- Bags as they were before the members changed them, the newest change undone first (05, R98). -/
def State.undoBags (s : State) (set : List Nat) : State :=
  let mine := s.bagUndo.filter fun u => set.contains u.1
  { s with
    bags := mine.foldl (fun bs u => (bs.filter fun b => b.pa != u.2.1) ++ u.2.2.toList) s.bags
    bagUndo := s.bagUndo.filter fun u => !set.contains u.1 }

/-- Child TCBs that members launched and that have not started. -/
def State.children (s : State) (set : List Nat) : List Nat :=
  (s.tcbs.filter fun p => (p.2.st == .waiting || p.2.st == .ready) && !set.contains p.1 &&
    match p.2.parent with
    | some q => set.contains q
    | none => false).map (·.1)

/-- Counts that the members removed given back (R370, step 4). -/
def State.giveBack (s : State) (l : List (Nat × Int × Nat)) : State :=
  l.foldl (fun s e => { s with tcbs := alMod s.tcbs e.1 fun t =>
    { t with preds := (t.preds - e.2.1 : Int).toNat, manual := t.manual + e.2.2 } }) s

/-- What the members hold is freed (R370, step 4). -/
def State.freeMembers (s : State) (set : List Nat) : State :=
  let teams := (s.teams.filter fun p => set.contains p.2.tcb).map (·.1)
  let mine := fun r : Resident => r.g.id != 0 && set.contains r.g.tcb
  let ids := ((s.cur :: s.others).filter mine).map (·.g.id)
  let kids := s.children set
  let back := (set.filterMap fun i => (alFind s.tcbs i).map (·.reduced)).flatten
  let s := s.giveBack back
  { s with
    cur := if mine s.cur then ⟨Group.idle, Slice.idle .execute⟩ else s.cur
    others := s.others.filter fun r => !mine r
    clusters := s.clusters.filter fun p => !set.contains p.2.tcb
    teams := s.teams.filter fun p => !set.contains p.2.tcb
    frames := s.frames.filter fun p => !set.contains p.2.tcb && !kids.contains p.2.tcb
    saved := s.saved.filter fun p => !set.contains p.2.tcb
    streams := s.streams.filter fun x => !set.contains x.tcb
    iters := s.iters.filter fun i => !set.contains i.tcb
    resv := s.resv.filter fun r => !set.contains r.tcb
    writers := s.writers.filter fun w => !set.contains w.1
    snaps := s.snaps.filter fun p => !set.contains p.tcb
    icache := s.icache.filter fun e => !set.contains e.1
    cores := s.cores.map fun (c : Nat × Core) =>
      let k := teams.foldl Core.freeTeam c.2
      (c.1, { k with eq := k.eq.map fun q => (q.1, q.2.filter fun o => !set.contains o.tcb)
                     alatch := k.alatch.filter fun l => !ids.contains l })
    ctxs := s.ctxs.map fun (c : Nat × CtxState) => match c.2.gholder with
      | some h => if set.contains h then (c.1, { c.2 with gholder := none, garr := [], gphase := [] }) else c
      | none => c
    tcbs := (s.tcbs.filter fun p => !kids.contains p.1).map fun p =>
      (p.1, { p.2 with succs := p.2.succs.filter fun j => !kids.contains j }) }

/-- A member returns to ready and keeps the grid size it read first (R370, step 5). -/
def State.replay (s : State) (i : Nat) : State :=
  let s := { s with
    nextId := s.nextId + 1
    tcbs := alMod s.tcbs i fun t => { t with
      st := .ready, pieces := [], tiles := [], wdone := 0, waited := false, readyAt := s.nextId, replays := t.replays + 1
      xfault := none, starved := [], rolling := false, why := (0, 0xFFFF, 0), reduced := [] } }
  match alFind s.tcbs i with
  | some t => s.readSize i t
  | none => s

/-- A core number of an event; 0xFFFF names none. -/
def coreOf? (n : Nat) : Option Nat := if n < 192 then some n else none

/-- ROLLBACK (R369-R371): a launch whose rollback a containment event has called for.  The set is stopped; once what it
issued is complete, its snapshots are copied back and its launches replay.  Where nothing can be restored, or the replay
limit is reached, the launch fails. -/
def execRollback (tcb : Nat) (s : State) : Host.Outcome State Fault Refusal :=
  match alFind s.tcbs tcb with
  | none => .next s
  | some t =>
    if !t.rolling ∨ t.failed ∨ t.st ≠ .running then .next s
    else
      let log := fun (s : State) (action : Nat) => s.logEvent t.why.2.2 (coreOf? t.why.2.1) (some tcb) action 2 t.why.1
      let set := s.rollSet s.tcbs.length [tcb]
      if s.rollSpent set then .next ((log s 2).failLaunch tcb).settlePend
      else if s.rollFails set then .next ((log s 3).failLaunch tcb).settlePend
      else if !(s.rollDrained set) then .next (set.foldl (fun s i => s.askRollback i t.why) s)
      else
        let s := (latestFirst (s.snaps.filter fun p => set.contains p.tcb)).foldl State.copyBack s
        let s := ((s.undoBags set).freeMembers set).settleRoom
        .next ((log (set.foldl State.replay s) 1).settlePend)

end Sys2Proof.Machine
end

