-- ==== Sys2Proof/Machine/Sha3.lean ====
section
/-! DEFINITION. SHA3-256, by which images and reports are digested (03, R63; 22, R383, R384): the spec names the function, and
what it computes is FIPS 202's (PRESUMED, log 105). -/

namespace Sys2Proof.Machine

/-- Rotation of the lane at x + 5 y. -/
def keccakRot : List Nat :=
  [0, 1, 62, 28, 27, 36, 44, 6, 55, 20, 3, 10, 43, 25, 39, 41, 45, 15, 21, 8, 18, 2, 61, 56, 14]

/-- The constants of the 24 rounds. -/
def keccakConst : List W64 :=
  [0x0000000000000001#64, 0x0000000000008082#64, 0x800000000000808A#64, 0x8000000080008000#64,
   0x000000000000808B#64, 0x0000000080000001#64, 0x8000000080008081#64, 0x8000000000008009#64,
   0x000000000000008A#64, 0x0000000000000088#64, 0x0000000080008009#64, 0x000000008000000A#64,
   0x000000008000808B#64, 0x800000000000008B#64, 0x8000000000008089#64, 0x8000000000008003#64,
   0x8000000000008002#64, 0x8000000000000080#64, 0x000000000000800A#64, 0x800000008000000A#64,
   0x8000000080008081#64, 0x8000000000008080#64, 0x0000000080000001#64, 0x8000000080008008#64]

/-- The parity of each column, and what it adds to the columns beside it. -/
def keccakTheta (a : List W64) : List W64 :=
  let c := (List.range 5).map fun x => (List.range 5).foldl (fun v y => v ^^^ a.getD (x + 5 * y) 0) (0 : W64)
  let d := (List.range 5).map fun x => c.getD ((x + 4) % 5) 0 ^^^ (c.getD ((x + 1) % 5) 0).rotateLeft 1
  (List.range 25).map fun i => a.getD i 0 ^^^ d.getD (i % 5) 0

/-- Lanes rotated and moved: the lane that comes to x + 5 y stood at column (x + 3 y) mod 5 of row x. -/
def keccakRhoPi (a : List W64) : List W64 :=
  (List.range 25).map fun i =>
    let k := (i % 5 + 3 * (i / 5)) % 5 + 5 * (i % 5)
    (a.getD k 0).rotateLeft (keccakRot.getD k 0)

def keccakChi (b : List W64) : List W64 :=
  (List.range 25).map fun i =>
    let y := 5 * (i / 5)
    b.getD i 0 ^^^ (~~~(b.getD (y + (i + 1) % 5) 0) &&& b.getD (y + (i + 2) % 5) 0)

def keccakRound (a : List W64) (rc : W64) : List W64 :=
  match keccakChi (keccakRhoPi (keccakTheta a)) with
  | [] => []
  | h :: t => (h ^^^ rc) :: t

/-- Bytes of a block. -/
def sha3Rate : Nat := 136

/-- One block absorbed. -/
def sha3Absorb (a : List W64) (block : List Byte) : List W64 :=
  keccakConst.foldl keccakRound ((List.range 25).map fun i =>
    a.getD i 0 ^^^ BitVec.ofNat 64 (leNat ((block.drop (8 * i)).take 8)))

def sha3Blocks : Nat → List Byte → List W64 → List W64
  | 0, _, a => a
  | n + 1, m, a => sha3Blocks n (m.drop sha3Rate) (sha3Absorb a (m.take sha3Rate))

/-- The message with its suffix and padding, a whole number of blocks. -/
def sha3Pad (m : List Byte) : List Byte :=
  match sha3Rate - m.length % sha3Rate with
  | 1 => m ++ [0x86#8]
  | k => m ++ 0x06#8 :: List.replicate (k - 2) 0 ++ [0x80#8]

/-- The digest, its first byte lowest. -/
def sha3 (m : List Byte) : BitVec 256 :=
  let a := sha3Blocks ((sha3Pad m).length / sha3Rate) (sha3Pad m) (List.replicate 25 0)
  BitVec.ofNat 256 ((List.range 4).foldl (fun n i => n + (a.getD i 0).toNat * 2 ^ (64 * i)) 0)

end Sys2Proof.Machine
end

