-- ==== Sys2Proof/Machine/Mgmt.lean ====
section
/-! DEFINITION. The package in its system: links, heat and power, bring-up, firmware, and the fifteen commands of the
management ring (22, R374-R386; 04, R71; 07, R141; 18, R318; 20, R349; 26, R393). -/

namespace Sys2Proof.Machine

/-! ## Rolyr-S ports (22, R377) -/

def State.port (s : State) (k : Nat) : Port := kvGet Port.down s.ports k

def State.modPort (s : State) (k : Nat) (f : Port → Port) : State :=
  { s with ports := kvPut Port.down s.ports k (f (s.port k)) }

/-- FLIT_CRC_ERROR (22, R377): a port that carries traffic replays the flit, which counts as transient (21, R363, R365); the
replays in a row are counted, eight at most. -/
def execFlitCrcError (port : Nat) (s : State) : Host.Outcome State Fault Refusal :=
  if 64 ≤ port ∨ (s.port port).state < 2 then .next s
  else .next ((s.modPort port fun p => { p with
    replays := if p.replays < 8 then p.replays + 1 else 8, transient := satCount p.transient }).logShared 0 1 7)

/-- A flit of the port passes its CRC: the replays after it are no longer consecutive to those before (22, R377). -/
def State.goodFlit (s : State) (port : Nat) : State :=
  if 64 ≤ port ∨ (s.port port).state < 2 then s else s.modPort port fun p => { p with replays := 0 }

/-- PORT_RETRAIN (22, R377): after eight consecutive replays the port retrains. -/
def execPortRetrain (port : Nat) (s : State) : Host.Outcome State Fault Refusal :=
  if 64 ≤ port ∨ (s.port port).state < 2 ∨ (s.port port).replays < 8 then .next s
  else .next (s.modPort port fun p => { p with state := 1, retrains := (p.retrains + 1) % 2 ^ 16, replays := 0 })

/-- RETRAIN_COMPLETE (22, R377): training ends, the port up or degraded; how many of its four lanes are up is a free value
(00, R1). -/
def execRetrainComplete (port : Nat) (ok : Bool) (s : State) : Host.Outcome State Fault Refusal :=
  if 64 ≤ port ∨ (s.port port).state ≠ 1 then .next s
  else .next ({ s.modPort port fun p => { p with state := if ok then 2 else 3, lanes := (Config.freeWord s.tick).toNat % 5 } with
                tick := s.tick + 1 } : State).settlePend

/-! ## Heat and power (22, R385) -/

/-- THERMAL_HALT (22, R385): a die at 105 °C halts issue; the Keep posts a record. -/
def execThermalHalt (die : Nat) (s : State) : Host.Outcome State Fault Refusal :=
  if 4 ≤ die ∨ s.halted.contains die then .next s
  else .next ({ s with halted := s.halted ++ [die] }.logEvent (BitVec.ofNat 64 die) none none 6 3 8)

/-- THERMAL_RESUME (22, R385): at 95 °C issue resumes where it stopped; the Keep posts a second record. -/
def execThermalResume (die : Nat) (s : State) : Host.Outcome State Fault Refusal :=
  if !s.halted.contains die then .next s
  else .next ({ s with halted := s.halted.filter (· != die) }.logEvent (BitVec.ofNat 64 die) none none 7 3 8)

/-- The compute clock of a die in MHz (00, R3). -/
def State.clockMHz (s : State) (die : Nat) : Nat := kvGet 1900 s.mhz die

/-- POWER_LIMIT_THROTTLE (22, R385): a die at its limit lowers its clock by 100 MHz, down to 1.2 GHz. -/
def execPowerLimitThrottle (die : Nat) (s : State) : Host.Outcome State Fault Refusal :=
  if 4 ≤ die ∨ s.clockMHz die ≤ 1200 then .next s
  else .next { s with mhz := kvPut 1900 s.mhz die (s.clockMHz die - 100) }

/-! ## Bring-up and firmware (22, R383, R386; 07, R141) -/

/-- Step 2: the boot ROM reads the fuses, and fences the AAEs that fail their self-test or are marked in the fused map (07,
R141). -/
def State.bootFences (s : State) : State :=
  { s with cores := (List.range 192).foldl (fun l n =>
      if Config.aaeBad n then kvPut Core.idle l n { kvGet Core.idle l n with fenced := true } else l) s.cores }

/-- Steps 3 and 5: the firmware of a target that has none yet is loaded; its version and digest are free values. -/
def State.bootFirmware (s : State) (targets : List Nat) : State :=
  let new := targets.filter fun k => kvGet 0 s.fwver k == 0
  { s with fwver := new.foldl (fun l k => kvPut 0 l k (Config.bootVersion k)) s.fwver
           fwdig := new.foldl (fun l k => kvPut 0 l k (Config.bootDigest k)) s.fwdig }

/-- Step 6: Rolyr-H trains; the lanes up are a free value. -/
def State.bootLink (s : State) : State :=
  { s with hlink := { s.hlink with state := 2, lanes := (Config.freeWord s.tick).toNat % 33 }, tick := s.tick + 1 }

/-- BRING_UP (22, R386): the steps of power-up in their order; a failure at one of them halts there with KSTATE 3, the effects
of those before it standing.  The ring is ready after step 7, and a WRESET that waits is answered once its links have
trained (R382). -/
def execBringUp (failsAt : Option Nat) (s : State) : Host.Outcome State Fault Refusal :=
  if s.kstate ≠ 0 then .next s
  else
    let done := fun (step : Nat) => match failsAt with
      | some k => decide (step < k)
      | none => true
    let s := if done 2 then s.bootFences else s
    let s := if done 3 then s.bootFirmware [0] else s
    let s := if done 5 then s.bootFirmware [1, 2, 3, 4] else s
    let s := if done 6 then s.bootLink else s
    .next ({ s with kstate := if failsAt.isSome then 3 else 1 } : State).settlePend

/-- The streams of a firmware target: 0 the Keep, 1 to 4 the Lanterns. -/
def targetKind (t : Nat) : SliceKind := if t = 0 then .keep else .lantern (t - 1)

/-- FIRMWARE_SWAP (22, R383): an accepted image replaces the target's firmware once the target's streams are idle. -/
def execFirmwareSwap (target : Nat) (s : State) : Host.Outcome State Fault Refusal :=
  match s.fwpend.find? fun p => p.1 == target with
  | none => .next s
  | some p =>
    if (s.cur :: s.others).any fun r => r.g.id != 0 && r.sl.kind == targetKind target && !r.sl.ended then .next s
    else .next { s with fwver := kvPut 0 s.fwver target p.2.2.1, fwdig := kvPut 0 s.fwdig target p.2.2.2
                        fwpend := s.fwpend.filter fun q => q.1 != target }

/-! ## Commands (22, R374): each as the effect it has when the Keep performs it -/

/-- A command answered with a status. -/
def State.answered (s : State) (tag : BitVec 32) (opc status : Nat) : State := s.respond tag status opc 0

/-- A command whose answer follows once its effect is complete. -/
def State.waiting (s : State) (tag : BitVec 32) (opc x : Nat) : State := { s with pend := some (tag, opc, x) }

/-- A record can be written at a physical address: memory of this package, or of the host. -/
def State.recordOk (s : State) (pa n : Nat) : Bool :=
  s.paValid pa && s.paValid (pa + n - 1) && (homeOf (s.ownRegion pa)).isSome

/-! ### SUMMARY (R375) -/

def tcbCode : TcbState → Nat
  | .free => 0
  | .waiting => 1
  | .ready => 2
  | .running => 3
  | .retired => 4

/-- The four bits of a TCB. -/
def State.tcbNibble (s : State) (i : Nat) : Nat :=
  match alFind s.tcbs i with
  | some t => tcbCode t.st + (if t.unprot then 8 else 0)
  | none => 0

/-- A port in LINKS, and Rolyr-H in HLINK. -/
def portWord (p : Port) : Nat := p.state + p.lanes * 2 ^ 4 + p.retrains * 2 ^ 16

def hlinkWord (p : Port) : Nat := p.state + p.lanes * 2 ^ 2 + p.retrains * 2 ^ 16

/-- Packets a context has queued. -/
def CtxState.queued (c : CtxState) : Nat :=
  (List.range 16).foldl (fun n q => n + (kvGet 0 c.tails q - kvGet 0 c.heads q)) 0

/-- The context with the most packets queued, the lowest number among equals. -/
def busiest : List (Nat × CtxState) → Option (Nat × CtxState)
  | [] => none
  | h :: t =>
    match busiest t with
    | none => some h
    | some b => if h.2.queued < b.2.queued ∨ (h.2.queued = b.2.queued ∧ b.1 < h.1) then some b else some h

/-- Queue pointers of a context, 16 × 8 bytes. -/
def queueBytes (c : Option (Nat × CtxState)) : List Byte :=
  ((List.range 16).map fun q => match c with
    | some (_, x) => leBytes 4 (kvGet 0 x.heads q) ++ leBytes 4 (kvGet 0 x.tails q)
    | none => List.replicate 8 0).flatten

/-- A handler entry that is outstanding: TCB, core, GIDX, cause.  GIDX and cause both name bit 24: where they differ it is
a free value (log 18). -/
def trapWord (s : State) (tcb core gidx cause : Nat) : Nat :=
  let b := if gidx / 16 = cause % 2 then cause % 2 else (Config.freeWord s.tick).toNat % 2
  tcb + core * 2 ^ 12 + gidx % 16 * 2 ^ 20 + b * 2 ^ 24 + cause / 2 * 2 ^ 25

/-- The outstanding handler entries, of both slices. -/
def State.handlerWords (s : State) : List Nat :=
  ((s.cur :: s.others).map fun r =>
    ((r.sl :: r.g.companion.toList).filterMap fun x => x.handler.map fun h =>
      trapWord s r.g.tcb (s.teamCore r.g.team) r.g.gidx h.cause)).flatten

def State.coreWord (s : State) (n : Nat) : Nat :=
  (s.groupsOn n).length % 64 + (s.teamsOn n).length % 64 * 2 ^ 6 + (if (s.core n).fenced then 2 ^ 14 else 0) +
    (if (s.core n).suspect then 2 ^ 15 else 0)

/-- A counter of a die: the saturating sum over its cores. -/
def State.dieCount (s : State) (die k : Nat) : Nat :=
  min (2 ^ 32 - 1) (((List.range 48).map fun c => kvGet 0 (s.core (die * 48 + c)).ctrs k).foldl (· + ·) 0)

/-- The addresses of the bags, lowest first. -/
def State.bagAddrs (s : State) : List Nat := sortBy (fun a b => decide (a ≤ b)) (s.bags.map fun (b : Bag) => b.va.toNat)

/-- `n` words of 8 bytes of a list, the rest filled. -/
def words8 (n fill : Nat) (l : List Nat) : List Byte := ((List.range n).map fun k => leBytes 8 (l.getD k fill)).flatten

/-- The record of R375, lowest byte first.  R75 has the lasting-error log reported in SUMMARY and R375 gives it no field, so
the record is without it (log 87). -/
def State.summaryBytes (s : State) : List Byte :=
  let a := busiest s.ctxs
  let b := busiest (s.ctxs.filter fun p => (a.map (·.1)) != some p.1)
  let bags := s.bagAddrs
  dwordBytes s.cycle ++ leBytes 8 s.kstate ++ words8 5 0 ((List.range 5).map fun k => kvGet 0 s.fwver k)
    ++ leBytes 4 s.ring.1 ++ leBytes 4 s.ring.2
    ++ queueBytes a ++ queueBytes b
    ++ leBytes 8 (hlinkWord s.hlink) ++ List.replicate 56 0
    ++ (List.range 2048).map (fun i => BitVec.ofNat 8 (s.tcbNibble (2 * i) + 16 * s.tcbNibble (2 * i + 1)))
    ++ ((List.range 192).map fun n => leBytes 2 (s.coreWord n)).flatten
    ++ ((List.range 12).map fun k => ((List.range 4).map fun j => leBytes 4 (kvGet 0 (s.cup k).ctrs j)).flatten).flatten
    ++ ((List.range 4).map fun d => ((List.range 4).map fun j => leBytes 4 (s.dieCount d j)).flatten).flatten
    ++ ((List.range 64).map fun p => leBytes 4 (portWord (s.port p))).flatten
    ++ leBytes 8 bags.length ++ words8 31 0 bags
    ++ words8 32 (2 ^ 64 - 1) s.handlerWords ++ List.replicate 256 0

/-- SUMMARY: the record as of the Keep step that performs it, this command among those in the ring. -/
def State.doSummary (s : State) (tag : BitVec 32) (pa : Nat) : State :=
  if s.recordOk pa 4096 then
    { (s.keepWrite (s.ownRegion pa) s.summaryBytes).answered tag 1 0 with tick := s.tick + 1 }
  else s.answered tag 1 2

/-! ### CTXSET, INVAL -/

/-- The capacity of a queue: a power of two from 16 to 65,536, or 0 where the queue is not given. -/
def ringCapOk (n : Nat) : Bool := n == 0 || (List.range 13).any fun k => n == 2 ^ (k + 4)

def CtxState.fresh (r : CtxRec) : CtxState :=
  { r := r, heads := [], tails := [], comps := [], lastQ := 0, parents := [], gholder := none, garr := [], gphase := [],
    frmTop := [], tskTop := 0, declared := [] }

/-- The bags of a record that the context's objects have not declared before: one more of the same fields is a new bag. -/
def newBags (old now : List (W64 × W64)) : List (W64 × W64) := old.foldl (fun l b => l.erase b) now

/-- The declared bags whose objects are still there: one that its object has left is declared no more, and a later object
that declares it has a bag of its own (03, R60). -/
def keptBags : List ((W64 × W64) × Option W64) → List (W64 × W64) → List ((W64 × W64) × Option W64)
  | [], _ => []
  | e :: t, now => if now.contains e.1 then e :: keptBags t (now.erase e.1) else keptBags t now

/-- A declared bag made; with no room in the pool it has no descriptor (DESIGN CHOICE, log 55: the spec does not say what
follows then).  Which stacks hold its shares, which the record of R60 does not say, its parameter word says (DESIGN CHOICE, log
98). -/
def State.declareBag (s : State) (ctx : Nat) (b : W64 × W64) : State :=
  let (t, d) : State × Option W64 := match s.makeBag ctx none b.1 b.2.toNat with
    | some (t, d) => (t, some (bv d))
    | none => (s, none)
  { t with ctxs := alMod t.ctxs ctx fun c => { c with declared := c.declared ++ [(b, d)] } }

/-- CTXSET: a context is defined or changed; bags that its objects newly declare are made (03, R60), once every home can write,
and a record out of range is refused. -/
def State.doCtxset (s : State) (tag : BitVec 32) (ctx : Nat) (r : CtxRec) : State :=
  if 2 ^ 32 - 1 ≤ ctx ∨ 16 < r.queues.length ∨ (r.queues.any fun q => !ringCapOk q.cap) ∨ r.bags.any fun b => !bagParamOk b.1 || b.2 == 0 then
    s.answered tag 2 2
  else
    let old : List (W64 × W64) := match alFind s.ctxs ctx with
      | some c => c.declared.map (·.1)
      | none => []
    let new := newBags old r.bags
    if new ≠ [] ∧ !s.homesReady then { s with cmds := (tag, .ctxset ctx r) :: s.cmds }
    else
    let s := { s with ctxs := match alFind s.ctxs ctx with
      | some c => kvInsert s.ctxs ctx { c with r := r, declared := keptBags c.declared r.bags }
      | none => kvInsert s.ctxs ctx (CtxState.fresh r) }
    (new.foldl (fun s b => s.declareBag ctx b) s).answered tag 2 0

/-- INVAL (R376): kind 0 drops the cached translations of a range and completes when every access that used one has;
kind 1 drops the kept entries of the scope table. -/
def State.doInval (s : State) (tag : BitVec 32) (ctx : Nat) (va : BitVec 64) (len kind : Nat) : State :=
  if kind = 0 then
    { s with tlb := s.tlb.filter fun e => e.ctx != ctx || decide (va.toNat + len ≤ e.va) || decide (e.va + e.size ≤ va.toNat) }.waiting
      tag 3 s.nextId
  else if kind = 1 then { s with scopes := s.scopes.filter fun c => c.ctx != ctx }.answered tag 3 0
  else s.answered tag 3 2

/-! ### RESOLVE, PREEMPT -/

/-- A slice whose fault has been resolved executes its word again. -/
def Slice.resolved (x : Slice) : Slice := if x.wait = some .keep then { x with wait := none } else x

def Resident.resolved (tcb : Nat) (r : Resident) : Resident :=
  if r.g.id ≠ 0 ∧ r.g.tcb = tcb then
    { g := { r.g with companion := r.g.companion.map Slice.resolved }, sl := r.sl.resolved }
  else r

/-- RESOLVE (20, R349): the answer to a launch's outstanding translation-fault record: 0 resolved, 1 fail. -/
def State.doResolve (s : State) (tag : BitVec 32) (tcb ans : Nat) : State :=
  match (alFind s.tcbs tcb).bind (·.xfault) with
  | none => s.answered tag 4 1
  | some _ =>
    if 1 < ans then s.answered tag 4 2
    else
      let s := { s with tcbs := alMod s.tcbs tcb fun t => { t with xfault := none } }
      if ans = 1 then (s.failLaunch tcb).answered tag 4 0
      else
        { s with
          cur := s.cur.resolved tcb
          others := s.others.map (Resident.resolved tcb)
          saved := s.saved.map fun (p : Nat × Saved) => (p.1, { p.2 with groups := p.2.groups.map (Resident.resolved tcb) }) }.answered tag 4 0

/-- PREEMPT (26, R393; 20, R359): every unit of a running launch is stopped for its save; refused where a save area cannot be
allocated (a free value, log 17). -/
def State.doPreempt (s : State) (tag : BitVec 32) (tcb : Nat) : State :=
  match alFind s.tcbs tcb with
  | none => s.answered tag 5 1
  | some t =>
    if t.st ≠ .running then s.answered tag 5 1
    else if !Config.saveRoom s.tick then { s.answered tag 5 1 with tick := s.tick + 1 }
    else
      let cls := (s.clusters.filter fun p => p.2.tcb == tcb && !p.2.ended).map (·.1)
      { (s.stopUnit cls 4).waiting tag 5 tcb with tick := s.tick + 1 }

/-! ### ROUTEBIND, CLRSUSPECT, DOMAIN, ROUTE -/

/-- ROUTEBIND (18, R318): a routing descriptor bound to the Lantern of a die. -/
def State.doRoutebind (s : State) (tag : BitVec 32) (die ctx pa : Nat) : State :=
  if 4 ≤ die ∨ (alFind s.ctxs ctx).isNone ∨ !s.paValid pa then s.answered tag 6 2
  else
    let l : Lantern := { kvGet Lantern.idle s.lanterns die with desc := some (ctx, pa), n := 0, stop := false, owed := none }
    { s with lanterns := kvPut Lantern.idle s.lanterns die l }.answered tag 6 0

/-- CLRSUSPECT (21, R364). -/
def State.doClrsuspect (s : State) (tag : BitVec 32) (core : Nat) : State :=
  if 192 ≤ core then s.answered tag 7 2
  else (s.modCore core fun c => { c with suspect := false }).settleRoom.answered tag 7 0

/-- DOMAIN (22, R379, R380, R386): the package's own number, and its mirror peer where the operand names a package; ports
that are down begin to train. -/
def State.doDomain (s : State) (tag : BitVec 32) (own peer ring : Nat) : State :=
  if 2304 ≤ own then s.answered tag 8 2
  else
    let s := (List.range 64).foldl (fun s k => if (s.port k).state = 0 then s.modPort k fun p => { p with state := 1 } else s) s
    { s with domain := own, mirror := if peer < 2304 then some (peer, ring) else none }.answered tag 8 0

/-- ROUTE (22, R378): the ports that reach a package; none marks it down. -/
def State.doRoute (s : State) (tag : BitVec 32) (pkg : Nat) (ports : BitVec 64) : State :=
  if 2304 ≤ pkg then s.answered tag 9 2 else { s with routes := kvPut 0 s.routes pkg ports }.answered tag 9 0

/-! ### FWLOAD, ATTEST -/

/-- The header of an SOF file (03, R57). -/
def sofHead (b : List Byte) : Bool :=
  recNum b 0 4 == 0x4E46_4F53 && recNum b 12 4 == 0x0001_0000 && recNum b 16 2 == 0 && decide (1 ≤ recNum b 18 2) && decide (recNum b 18 2 ≤ 64)
    && decide (recNum b 20 4 ≤ 3) && recNum b 32 32 == 0

/-- Entry `k` of the section table, and the contents of a section in the file (03, R58). -/
def sofEntry (b : List Byte) (k : Nat) : List Byte := (b.drop (recNum b 24 8 + 32 * k)).take 32

def sofContents (b e : List Byte) : List Byte := if recNum e 4 1 = 5 then [] else (b.drop (recNum e 8 8)).take (recNum e 16 8)

def sofEntries (b : List Byte) : List (List Byte) := (List.range (recNum b 18 2)).map (sofEntry b)

/-- The names of the sections lie in `.strtab`, whose strings end (03, R58). -/
def sofNames (b : List Byte) : Bool :=
  match (sofEntries b).find? fun e => recNum e 4 1 == 10 with
  | some t => (sofContents b t).getLast? == some 0 && (sofEntries b).all fun e => decide (recNum e 0 4 < recNum t 16 8)
  | none => false

/-- The section table is legal: types 1 to 12, each once, their fields in range, their contents in the file and their names in
`.strtab`; `.sig` there exactly where FFLAGS says so (03, R58, R63). -/
def sofTable (b : List Byte) : Bool :=
  let l := sofEntries b
  decide (recNum b 24 8 + 32 * recNum b 18 2 ≤ recNum b 4 8) && decide ((l.map fun e => recNum e 4 1).Nodup) &&
    (l.all fun e => decide (1 ≤ recNum e 4 1) && decide (recNum e 4 1 ≤ 12) && decide (2 ≤ recNum e 5 1) && decide (recNum e 5 1 ≤ 16)
      && decide (recNum e 6 2 < 8) && (decide (2 < recNum e 4 1) || recNum e 6 2 &&& 5 == 5)
      && recNum e 24 8 == 0 && (if recNum e 4 1 = 5 then recNum e 8 8 == 0
        else decide (recNum e 8 8 + recNum e 16 8 ≤ recNum b 4 8))) &&
    sofNames b && (l.any (fun e => recNum e 4 1 == 12) == decide (recNum b 20 4 % 2 = 1))

/-- What the digest of R63 covers: the header, then each section but `.sig`, its entry and its contents. -/
def sofSigned (b : List Byte) : List Byte :=
  b.take 64 ++ (((sofEntries b).filter fun e => recNum e 4 1 != 12).map fun e => e ++ sofContents b e).flatten

/-- The file is a firmware image whose `.sig` verifies (22, R383). -/
def firmwareOk (b : List Byte) : Bool :=
  sofHead b && recNum b 20 4 == 3 && sofTable b && match (sofEntries b).find? fun e => recNum e 4 1 == 12 with
    | some e => recNum e 16 8 == 2428 &&
        Config.verifies (BitVec.ofNat 64 (recNum (sofContents b e) 0 8)) (sha3 (sofSigned b)) ((sofContents b e).drop 8)
    | none => false

/-- FWLOAD (22, R383; 03, R57, R63): a firmware image that verifies (log 12) and is not below the fused minimum version is
accepted; otherwise STATUS 1 and the running firmware stays. -/
def State.doFwload (s : State) (tag : BitVec 32) (pa target : Nat) : State :=
  if 5 ≤ target ∨ !s.recordOk pa 64 then s.answered tag 10 2
  else
    match s.homeBytes (s.ownRegion pa) 64 with
    | none => s.answered tag 10 1
    | some h =>
      match if s.recordOk pa (recNum h 4 8) then s.homeBytes (s.ownRegion pa) (recNum h 4 8) else none with
      | none => s.answered tag 10 1
      | some b =>
        if firmwareOk b ∧ Config.minVersion ≤ recNum b 12 4 then
          { s with fwpend := s.fwpend.filter (fun (p : Nat × Nat × Nat × BitVec 256) => p.1 != target) ++
                              [(target, pa, recNum b 12 4, sha3 b)] }.answered tag 10 0
        else s.answered tag 10 1

/-- What a report signs (R384): serial and identity, which are constants without a body (log 12), the nonce, the digests of
the running images. -/
def State.reportHead (s : State) (nonce : List Byte) : List Byte :=
  (List.range 72).map Config.reportByte ++ nonce ++ ((List.range 5).map fun k => leBytes 32 (kvGet 0 s.fwdig k).toNat).flatten
    ++ List.replicate 388 0

/-- The report of R384, signed over the digest of its other bytes. -/
def State.reportBytes (s : State) (nonce : List Byte) : List Byte :=
  s.reportHead nonce ++ (List.range 2420).map (Config.signed s.tick (sha3 (s.reportHead nonce)))

/-- ATTEST (22, R384). -/
def State.doAttest (s : State) (tag : BitVec 32) (nonce report : Nat) : State :=
  if !s.recordOk nonce 32 ∨ !s.recordOk report 3072 then s.answered tag 11 2
  else
    match s.homeBytes (s.ownRegion nonce) 32 with
    | none => s.answered tag 11 1
    | some b => { (s.keepWrite (s.ownRegion report) (s.reportBytes b)).answered tag 11 0 with tick := s.tick + 1 }

/-! ### WRESET (R382) -/

/-- What a core keeps across a warm reset: counters, suspect mark, fence. -/
def Core.warm (c : Core) : Core :=
  { Core.idle with ctrs := c.ctrs, suspect := c.suspect, fenced := c.fenced || c.toFence }

/-- What a Cupola keeps: its control register, pass position, counters and log. -/
def Cupola.warm (c : Cupola) : Cupola :=
  { c with owed := [], busy := [], forced := [], active := [], queue := [], replies := [] }

/-- WRESET (R382): issue stops, and the package drains (KSTATE 2); the reset follows, and the answer once the Keep runs again
and the links have trained. -/
def State.doWreset (s : State) (tag : BitVec 32) : State := { s.waiting tag 12 0 with kstate := 2 }

/-- The reset of a warm reset (R382; 05, R97; 21, R372): the Belfry's lines are written back, running launches are reported
failed, and what the table keeps is kept; bring-up follows (KSTATE 0). -/
def State.warmReset (s : State) : State :=
  let s := s.belfry.foldl State.writeBack s
  let run := (s.tcbs.filter fun p => p.2.st == .running).map (·.1)
  let s := run.foldl (fun s i => (s.retire i true)) s
  ({ s with
    cur := ⟨Group.idle, Slice.idle .execute⟩
    others := [], teams := [], clusters := [], saved := [], writes := [], chans := [], tlb := [], scopes := [], icache := []
    frames := s.frames.filter fun p => !handleSpf p.2.handle && !run.contains p.2.tcb
    tcbs := s.tcbs.map fun (p : Nat × Tcb) => (p.1, { p.2 with replays := 0, parent := none })
    cores := s.cores.map fun (c : Nat × Core) => (c.1, c.2.warm)
    cups := s.cups.map fun (c : Nat × Cupola) => (c.1, c.2.warm)
    belfry := [], streams := [], iters := [], bagUndo := [], lanterns := [], resv := [], snaps := [], writers := []
    fwpend := []
    ctxs := s.ctxs.map fun (c : Nat × CtxState) => (c.1, { c.2 with gholder := none, garr := [], gphase := [], parents := [] })
    ports := s.ports.map fun (p : Nat × Port) => (p.1, if p.2.state = 0 then p.2 else { p.2 with state := 1, replays := 0 })
    hlink := { s.hlink with state := 1 }
    mirrorSent := none
    kstate := 0 } : State).settleRoom

/-! ### SCRUB, AAEFENCE, CORESTAT -/

/-- SCRUB (04, R71): the scrub control register of a Cupola; PASSES is read-only.  A value whose PMIN is out of range is ignored,
and the command is answered with STATUS 0 (DESIGN CHOICE, log 9: R71 and R374 do not say with which). -/
def State.doScrub (s : State) (tag : BitVec 32) (stack : Nat) (value : BitVec 64) : State :=
  let p := value.toNat / 2 ^ 16 % 2 ^ 16
  if 12 ≤ stack ∨ value.toNat / 2 ^ 33 ≠ 0 then s.answered tag 13 2
  else if p < 60 ∨ 43200 < p then s.answered tag 13 0
  else (s.modCup stack fun c => { c with scrubEn := value.getLsbD 32, pmin := p }).answered tag 13 0

/-- AAEFENCE (07, R141; 20, R359): the fence of a core's AAE cleared, or set once its coupled teams have been saved; while
one of them cannot be saved the command is refused, and the fence takes effect when that team has ended. -/
def State.doAaefence (s : State) (tag : BitVec 32) (core v : Nat) : State :=
  if 192 ≤ core ∨ 1 < v then s.answered tag 14 2
  else if v = 0 then (s.modCore core fun c => { c with fenced := false, toFence := false }).settleRoom.answered tag 14 0
  else
    let s := (s.modCore core fun c => { c with toFence := true }).stopCoupled core 4096
    let stuck := (s.teamsOn core).any fun p => p.2.stop == 0 && match alFind s.tcbs p.2.tcb with
      | some t => !t.kernel.detached
      | none => false
    if stuck then s.answered tag 14 1 else s.waiting tag 14 core

/-- CORESTAT (22, R374): the four counters of each core. -/
def State.doCorestat (s : State) (tag : BitVec 32) (pa : Nat) : State :=
  if s.recordOk pa 3072 then
    (s.keepWrite (s.ownRegion pa) (((List.range 192).map fun n =>
      ((List.range 4).map fun k => leBytes 4 (kvGet 0 (s.core n).ctrs k)).flatten).flatten)).answered tag 15 0
  else s.answered tag 15 2

/-! ## The ring (R374, R375) -/

/-- The effect of a command, and its answer where it has one at once. -/
def State.effect (s : State) (tag : BitVec 32) : Command → State
  | .summary pa => s.doSummary tag pa
  | .ctxset ctx r => s.doCtxset tag ctx r
  | .inval ctx va len kind => s.doInval tag ctx va len kind
  | .resolve tcb ans => s.doResolve tag tcb ans
  | .preempt tcb => s.doPreempt tag tcb
  | .routebind die ctx pa => s.doRoutebind tag die ctx pa
  | .clrsuspect core => s.doClrsuspect tag core
  | .domain own peer ring => s.doDomain tag own peer ring
  | .route pkg ports => s.doRoute tag pkg ports
  | .fwload pa target => s.doFwload tag pa target
  | .attest nonce report => s.doAttest tag nonce report
  | .wreset => s.doWreset tag
  | .scrub stack value => s.doScrub tag stack value
  | .aaefence core v => s.doAaefence tag core v
  | .corestat pa => s.doCorestat tag pa
  | .bad opc => s.answered tag opc 2

/-- Who answers: the Keep while it runs, the boot ROM of a halted package a SUMMARY (R386). -/
def State.hears (s : State) : Command → Bool
  | .summary _ => s.kstate == 1 || s.kstate == 3
  | _ => s.kstate == 1

/-- A command joins the ring.  The Keep performs commands one at a time in ring order: one that finds another before it waits
(R374), but for the SUMMARY of a halted package, which the boot ROM answers (R386). -/
def State.command (s : State) (tag : BitVec 32) (c : Command) : Host.Outcome State Fault Refusal :=
  let s := s.settlePend
  if !s.hears c then .next s
  else
    let s := { s with ring := (s.ring.1, (s.ring.2 + 1) % 2 ^ 32) }
    if s.kstate = 1 ∧ (s.pend.isSome ∨ s.cmds ≠ []) then .next { s with cmds := s.cmds ++ [(tag, c)] }
    else .next (s.effect tag c).settlePend

/-- The Keep goes on with the ring: a WRESET that has drained resets the package; else, with nothing unanswered, the next
command is performed. -/
def State.nextCommand (s : State) : State :=
  let s := s.settlePend
  match s.pend, s.cmds with
  | some (_, opc, _), _ => if opc = 12 ∧ s.kstate = 2 ∧ s.writes = [] then s.warmReset else s
  | none, (tag, c) :: rest => if s.kstate ≠ 1 then s else (({ s with cmds := rest } : State).effect tag c).settlePend
  | none, [] => s

/-- SUMMARY (R375). -/
def execSummary (tag : BitVec 32) (pa : Nat) (s : State) : Host.Outcome State Fault Refusal := s.command tag (.summary pa)

/-- CTXSET (R374). -/
def execCtxset (tag : BitVec 32) (ctx : Nat) (r : CtxRec) (s : State) : Host.Outcome State Fault Refusal :=
  s.command tag (.ctxset ctx r)

/-- INVAL (R376). -/
def execInval (tag : BitVec 32) (ctx : Nat) (va : BitVec 64) (len kind : Nat) (s : State) : Host.Outcome State Fault Refusal :=
  s.command tag (.inval ctx va len kind)

/-- RESOLVE (20, R349). -/
def execResolve (tag : BitVec 32) (tcb ans : Nat) (s : State) : Host.Outcome State Fault Refusal := s.command tag (.resolve tcb ans)

/-- PREEMPT (26, R393). -/
def execPreempt (tag : BitVec 32) (tcb : Nat) (s : State) : Host.Outcome State Fault Refusal := s.command tag (.preempt tcb)

/-- ROUTEBIND (18, R318). -/
def execRoutebind (tag : BitVec 32) (die ctx pa : Nat) (s : State) : Host.Outcome State Fault Refusal :=
  s.command tag (.routebind die ctx pa)

/-- CLRSUSPECT (21, R364). -/
def execClrsuspect (tag : BitVec 32) (core : Nat) (s : State) : Host.Outcome State Fault Refusal := s.command tag (.clrsuspect core)

/-- DOMAIN (R379, R380). -/
def execDomain (tag : BitVec 32) (own peer ring : Nat) (s : State) : Host.Outcome State Fault Refusal :=
  s.command tag (.domain own peer ring)

/-- ROUTE (R378). -/
def execRoute (tag : BitVec 32) (pkg : Nat) (ports : BitVec 64) (s : State) : Host.Outcome State Fault Refusal :=
  s.command tag (.route pkg ports)

/-- FWLOAD (R383). -/
def execFwload (tag : BitVec 32) (pa target : Nat) (s : State) : Host.Outcome State Fault Refusal := s.command tag (.fwload pa target)

/-- ATTEST (R384). -/
def execAttest (tag : BitVec 32) (nonce report : Nat) (s : State) : Host.Outcome State Fault Refusal :=
  s.command tag (.attest nonce report)

/-- WRESET (R382). -/
def execWreset (tag : BitVec 32) (s : State) : Host.Outcome State Fault Refusal := s.command tag .wreset

/-- SCRUB (04, R71). -/
def execScrub (tag : BitVec 32) (stack : Nat) (value : BitVec 64) (s : State) : Host.Outcome State Fault Refusal :=
  s.command tag (.scrub stack value)

/-- AAEFENCE (07, R141). -/
def execAaefence (tag : BitVec 32) (core v : Nat) (s : State) : Host.Outcome State Fault Refusal := s.command tag (.aaefence core v)

/-- CORESTAT (R374). -/
def execCorestat (tag : BitVec 32) (pa : Nat) (s : State) : Host.Outcome State Fault Refusal := s.command tag (.corestat pa)

/-! ## Spare takeover (R381) -/

/-- Step 3: the Keep of a spare replays a mirrored packet, read from the mirror ring at `pa`, as a packet of a launch queue.
Which packets have no completion record, and so the addresses in ring order, the turns say (log 93). -/
def State.mirrorReplay (s : State) (ctx queue pa : Nat) : State :=
  if s.kstate ≠ 1 then s
  else match s.homeBytes (s.ownRegion pa) 64 with
    | some b => { s.append ctx queue (BitVec.ofNat 512 (leNat b)) none with tick := s.tick + 1 }
    | none => s

end Sys2Proof.Machine
end

