-- ==== Sys2Proof/Machine/Tasks.lean ====
section
/-! DEFINITION. The TASK words (18, R320-R330). -/

namespace Sys2Proof.Machine

/-! ## Shared checks (R321, R322) -/

def SliceKind.isKeep (k : SliceKind) : Bool :=
  match k with
  | .keep => true
  | .lantern _ => true
  | _ => false

/-- A member legal in the group's own stream only, cause 0x13 with the word elsewhere. -/
def State.inGroup (s : State) (r : Res α) : Res α :=
  match s.cur.sl.kind with
  | .execute => r
  | _ => .trap 0x13 s.exec' s.wordAux

/-- A member not legal in an access slice. -/
def State.notAccess (s : State) (r : Res α) : Res α :=
  match s.cur.sl.kind with
  | .access => .trap 0x13 s.exec' s.wordAux
  | _ => r

/-- A member not legal in a stream of the Keep or of a Lantern. -/
def State.notKeep (s : State) (r : Res α) : Res α :=
  if s.cur.sl.kind.isKeep then .trap 0x13 s.exec' s.wordAux else r

/-- A code address (cause 0x09). -/
def State.codeOk (s : State) (a : W64) (r : Res α) : Res α := if a.toNat % 4 ≠ 0 then .trap 0x09 s.exec' a else r

/-- A register value within the member's table (cause 0x02 with the value). -/
def State.valueOk (s : State) (v : W64) (ok : Bool) (r : Res α) : Res α := if ok then r else .trap 0x02 s.exec' v

/-! ## Pieces (R309, R312, R324) -/

/-- The depth whose frame holds the grid piece, and whether the kernel declares that frame. -/
def gridDepth (t : Tcb) : Nat × Bool :=
  let d := if pktC t.packet = 1 then 2 else 1
  (d, t.kernel.frm.getD d 0 != 0)

/-- Where the piece at a depth lives. -/
inductive PieceAt where
  | grid (cluster : Nat)
  | frame (f : Nat)
  deriving DecidableEq, Repr

/-- The piece held at depth `k`: the grid piece of the group's cluster, in its frame or in the Keep alone, or that of a
spawnr frame. -/
def State.pieceAt (s : State) (k : Nat) : Option PieceAt :=
  let own : Option PieceAt := match alFind s.tcbs s.cur.g.tcb with
    | some t => if gridDepth t = (k, false) ∧ (alFind s.clusters s.clusterNo).isSome then some (.grid s.clusterNo) else none
    | none => none
  match own with
  | some p => some p
  | none =>
    match s.frameOf (s.disp k) with
    | some (f, x) => if x.piece = none then none else if x.grid then some (.grid x.cluster) else some (.frame f)
    | none => none

/-- lo and hi of a piece. -/
def State.bounds (s : State) (p : PieceAt) : Nat × Nat :=
  match p with
  | .grid c => match alFind s.clusters c with
    | some x => (x.lo, x.hi)
    | none => (0, 0)
  | .frame f => ((s.getSlot f 0).toNat, (s.getSlot f 1).toNat)

/-- The lowest index of a piece taken. -/
def State.takeIndex (s : State) (p : PieceAt) : State :=
  match p with
  | .grid c => { s with clusters := alMod s.clusters c fun x => { x with lo := x.lo + 1, taken := x.taken + 1 } }.mirrorPiece c
  | .frame f => s.setSlot f 0 (s.getSlot f 0 + 1)

/-- The walks by which they are read. -/
def State.markPiece (s : State) (p : PieceAt) : State :=
  match p with
  | .grid _ => s
  | .frame f => (s.markSlot f 0).markSlot f 1

/-- A word that reads the bounds of a piece: cause 0x0A where its slots are uncorrectable (20, R354). -/
def State.boundsGood (s : State) (p : PieceAt) (r : Res α) : Res α :=
  match p with
  | .grid _ => r
  | .frame f => s.slotsGood f [0, 1] r

def execRtake (d b : BitVec 9) (s : State) : Host.Outcome State Fault Refusal :=
  let k := (s.rd b.toNat).toNat
  s.run (s.notKeep (s.flagged s.setaFlag (s.valueOk (s.rd b.toNat) (decide (1 ≤ k) && decide (k ≤ 3)) (s.destOk d.toNat (
    match s.pieceAt k with
    | none => .trap 0x13 s.exec' (BitVec.ofNat 64 k)
    | some p =>
      s.boundsGood p (
        let (lo, hi) := s.bounds p
        let t := s.markPiece p
        .ok (if lo < hi then (t.takeIndex p).wr d.toNat (BitVec.ofNat 64 lo) else t.wr d.toNat ones64)))))))

/-! ## spawn, spawnr (R323; 17, R302) -/

def ctlGrain (v : W64) : Nat := v.toNat / 2 ^ 16 % 2 ^ 32
def ctlJw (v : W64) : Bool := v.getLsbD 12
def ctlPrio (v : W64) : Nat := v.toNat / 2 ^ 10 % 4
def ctlSize (v : W64) : Nat := v.toNat % 1024 + 1

/-- The control word's reserved fields and the fields of the two members. -/
def ctlOk (v : W64) (range : Bool) : Bool :=
  v.toNat / 2 ^ 48 == 0 && v.toNat / 2 ^ 13 % 8 == 0 && (if range then decide (1 ≤ ctlGrain v) && decide (2 ≤ ctlSize v)
    else ctlGrain v == 0)

/-- The records that wait in the queues of a context's launches (R316). -/
def State.recsQueued (s : State) (ctx : Nat) : Nat :=
  let own := fun tcb : Nat => (alFind s.tcbs tcb).any fun t => t.ctx == ctx
  let inQs := fun l : List (Nat × Cluster) => (l.map fun c =>
    if own c.2.tcb then (c.2.crqs.map fun q => q.2.length).foldl (· + ·) 0 else 0).foldl (· + ·) 0
  let tiles := (s.tcbs.map fun p => if p.2.ctx = ctx then p.2.tiles.length else 0).foldl (· + ·) 0
  tiles + inQs s.clusters + (s.saved.map fun p => inQs p.2.clusters).foldl (· + ·) 0

/-- The context's task pool has room for `n` more records of 32 bytes (R315, R316). -/
def State.recRoom (s : State) (n : Nat) : Bool :=
  s.ctx?.any fun c => decide (32 * (s.recsQueued s.cur.g.ctx + n) ≤ c.r.tskPool.size)

/-- A spawn's storage (R323): the place of its frame, and room for its record, or reason 1. -/
def State.spawnPlace (s : State) (ctl : W64) (k : Team → W64 → Res State) : Res State :=
  match s.team? with
  | none => s.frameTrap 1 3
  | some t =>
    match s.placeFrame t.core t.cidx s.cur.g.ctx 3 (ctlSize ctl) with
    | none => s.frameTrap 1 3
    | some h => if s.recRoom 1 then k t h else s.frameTrap 1 3

/-- The record and its frame pushed: the frame with its slots, the reference of JOIN, the push after a release at sg1. -/
def State.pushSpawn (s : State) (t : Team) (h code ctl : W64) (slots : List W64) (piece : Option Nat) : Res State :=
  let d3 := s.disp 3
  if ctlJw ctl && d3 == 0 then s.frameTrap 0 3
  else if !s.released (dieBit s.die) then .stall
  else
    let r : ContRec := { join := if ctlJw ctl then d3 else 0, frame := h, code := code, prio := ctlPrio ctl, kind := 1 }
    let (s', f) := s.newFrame
      { handle := h, ctx := s.cur.g.ctx, tcb := s.cur.g.tcb, cluster := t.cluster, core := t.core, size := ctlSize ctl,
        slots := [], count := 1, owner := .nobody, link := s.linkFor 3, saved := none, cont := none, buf := [],
        piece := piece, grid := false, join := none, combine := none, born := some r }
    let s' := s'.fillSlots f slots
    let s' := match if ctlJw ctl then s.frameOf d3 else none with
      | some p => s'.addRef p.1
      | none => s'
    .ok (s'.pushRec t.cluster s.cur.g.tcb r)

def execSpawn (a b : BitVec 9) (c : BitVec 7) (s : State) : Host.Outcome State Fault Refusal :=
  let ctl := s.rd c.toNat
  let va := s.rd b.toNat
  s.run (s.inGroup (s.flagged s.setaFlag (s.valueOk ctl (ctlOk ctl false) (s.codeOk (s.rd a.toNat) (s.initAligned va (
    s.spawnPlace ctl fun t h => (s.readInit va (ctlSize ctl)).bind fun (vs, ps) =>
      (s.markAll ps .read).pushSpawn t h (s.rd a.toNat) ctl vs none))))))

def execSpawnr (a b : BitVec 9) (c : BitVec 7) (s : State) : Host.Outcome State Fault Refusal :=
  let ctl := s.rd c.toNat
  let lo := (s.rd b.toNat).setWidth 32
  let hi := (s.rd b.toNat >>> 32).setWidth 32
  s.run (s.inGroup (s.flagged s.setaFlag (s.valueOk ctl (ctlOk ctl true) (s.valueOk (s.rd b.toNat) (decide (lo ≤ hi)) (
    s.codeOk (s.rd a.toNat) (s.spawnPlace ctl fun t h =>
      s.pushSpawn t h (s.rd a.toNat) ctl [lo.setWidth 64, hi.setWidth 64] (some (ctlGrain ctl))))))))

/-! ## launch (R325) -/

/-- The launch a device packet is accepted under: the grid of the issuing slice, none for a stream of the Keep. -/
def State.parentNo (s : State) : Nat := if s.cur.sl.kind.isKeep then 4096 else s.cur.g.tcb

def execLaunch (a b : BitVec 9) (c : BitVec 7) (s : State) : Host.Outcome State Fault Refusal :=
  let va := s.rd a.toNat
  let q := (s.rd c.toNat).toNat
  s.run (s.notAccess (s.flagged s.setaFlag (s.valueOk (s.rd c.toNat) (decide (q ≤ 15)) (s.destOk b.toNat (
    if va.toNat % 64 ≠ 0 then .trap 0x09 s.exec' va
    else
      match s.readVas va 8 with
      | .error (n, x) => .fail n s.exec' x
      | .ok (vs, ps) =>
        match s.ctx? with
        | none => .stall
        | some k =>
          if (k.queue q).cap ≤ kvGet 0 k.tails q - kvGet 0 k.heads q then .stall
          else
            let p : BitVec 512 := BitVec.ofNat 512 (leNat (vs.map dwordBytes).flatten)
            let op := s.nextId
            let s := (s.markAll ps .read).issue (.task (.scal b.toNat)) s.setaFlag []
            let s := s.append s.cur.g.ctx q p (if s.cur.sl.kind.isKeep then none else some s.cur.g.tcb)
            .ok (s.modCtx fun k => { k with parents := k.parents ++ [(q, kvGet 0 k.tails q - 1, s.parentNo, op)] }))))))

/-! ## tcbdec, eplan (R320, R326, R327) -/

/-- `n` count units taken off a waiting TCB; at 0 it is ready. -/
def subCount (now n : Nat) (t : Tcb) : Tcb :=
  if t.preds ≤ n then { t with preds := 0, st := .ready, readyAt := now } else { t with preds := t.preds - n }

def State.modTcb (s : State) (i : Nat) (f : Tcb → Tcb) : State :=
  { s with tcbs := alMod s.tcbs i f, nextId := s.nextId + 1 }

/-- What the group's launch took off another's counts, kept for a rollback (21, R370). -/
def State.reduced (s : State) (i : Nat) (d : Int) (m : Nat) : State :=
  if s.cur.sl.kind.isKeep then s
  else { s with tcbs := alMod s.tcbs s.cur.g.tcb fun t => { t with reduced := t.reduced ++ [(i, d, m)] } }

def execTcbdec (a b : BitVec 9) (s : State) : Host.Outcome State Fault Refusal :=
  let i := (s.rd a.toNat).toNat
  let n := (s.rd b.toNat).toNat
  s.run (s.notAccess (s.flagged s.setaFlag (s.valueOk (s.rd a.toNat) (decide (i ≤ 4095)) (
    s.valueOk (s.rd b.toNat) (decide (1 ≤ n) && decide (n ≤ 4095)) (
      match s.tcb? i with
      | none => .trap 0x13 s.exec' (s.rd a.toNat)
      | some t =>
        if t.ctx ≠ s.cur.g.ctx ∨ t.st ≠ .waiting ∨ t.manual < n then .trap 0x13 s.exec' (s.rd a.toNat)
        else if !s.released 0x0F then .stall
        else
          .ok ((s.modTcb i fun t => subCount s.nextId n { t with manual := t.manual - n }).reduced i (-n) n).settleReady)))))

/-- Heights of the tiles of a count below 256, largest first, with their valid rows (R320). -/
def smallTiles (r : Nat) : List Nat → List (Nat × Nat)
  | [] => if 0 < r then [(8, r)] else []
  | h :: t => if h ≤ r then (h, h) :: smallTiles (r - h) t else smallTiles r t

/-- The tiles of one expert: height and valid rows in order. -/
def tilesOf (n : Nat) : List (Nat × Nat) := List.replicate (n / 256) (256, 256) ++ smallTiles (n % 256) [128, 64, 32, 16, 8]

/-- Tiles with their row offsets. -/
def withOffsets (off : Nat) : List (Nat × Nat) → List (Nat × Nat × Nat)
  | [] => []
  | (h, v) :: t => (off, h, v) :: withOffsets (off + v) t

/-- The slots of the tile frames of all experts, expert by expert. -/
def planSlots (bag : W64) (counts : List Nat) : List (List W64) :=
  (((List.range counts.length).zip counts).map fun e =>
    let ts := withOffsets 0 (tilesOf e.2)
    ((List.range ts.length).zip ts).map fun k =>
      [BitVec.ofNat 64 e.1, BitVec.ofNat 64 k.2.1, BitVec.ofNat 64 k.2.2.1, BitVec.ofNat 64 k.2.2.2, bag, BitVec.ofNat 64 k.1,
       0, 0]).flatten

/-- `n` 32-bit words from a VA up as the selected slice reads them; at the first failure its cause and address. -/
def State.readCounts (s : State) (va : W64) : Nat → Except (Nat × W64) (List Nat × List (List Nat))
  | 0 => .ok ([], [])
  | n + 1 =>
    match s.readVa s.cur.sl.nextSeq va with
    | .error e => .error (e, va)
    | .ok (v, t) =>
      match s.readCounts (va + 4) n with
      | .error e => .error e
      | .ok (vs, ps) => .ok ((picked va.toNat 4 v).toNat :: vs, t.path :: ps)

/-- The launch whose tile queue takes the records: the issuing slice's; for a stream of the Keep or a Lantern, which has none,
one of the context's running launches, else the combine launch (DESIGN CHOICE, log 38). -/
def State.tileLaunch (s : State) (comb : Nat) : Nat :=
  if s.cur.sl.kind.isKeep then
    let l := (s.tcbs.filter fun p => p.2.ctx == s.cur.g.ctx && p.2.st == .running && !p.2.rolling).map (·.1)
    l.getD (Config.pick s.tick % (if l.length = 0 then 1 else l.length)) comb
  else s.cur.g.tcb

/-- One tile frame, in the frame pool, which every cluster of the launch reaches (log 8), and its record. -/
def State.pushTile (s : State) (tcb : Nat) (link : Option Nat) (code : W64) (comb prio : Nat) (slots : List W64) : Res State :=
  match s.framePlace s.cur.g.ctx 3 8 with
  | none => s.frameTrap 1 3
  | some h =>
    let r : ContRec := { join := BitVec.ofNat 64 comb, frame := h, code := code, prio := prio, kind := 3 }
    let (s', f) := s.newFrame
      { handle := h, ctx := s.cur.g.ctx, tcb := tcb, cluster := s.clusterNo, core := s.coreNo, size := 8, slots := [],
        count := 1, owner := .nobody, link := link, saved := none, cont := none, buf := [], piece := none,
        grid := false, join := none, combine := none, born := some r }
    .ok ((s'.fillSlots f slots).pushRec s.clusterNo tcb r)

def State.pushTiles (s : State) (tcb : Nat) (link : Option Nat) (code : W64) (comb prio : Nat) : List (List W64) → Res State
  | [] => .ok s
  | x :: rest => (s.pushTile tcb link code comb prio x).bind fun s => s.pushTiles tcb link code comb prio rest

def execEplan (a b : BitVec 9) (s : State) : Host.Outcome State Fault Refusal :=
  let va := s.rd a.toNat
  s.run (s.notAccess (s.flagged s.setaFlag (s.destOk b.toNat (
    if va.toNat % 64 ≠ 0 then .trap 0x09 s.exec' va
    else
      match s.readVas va 8 with
      | .error (n, x) => .fail n s.exec' x
      | .ok (vs, ps) =>
        let w := fun k => vs.getD k 0
        let nexp := (w 1).toNat / 2 ^ 32
        let comb := (w 1).toNat / 2 ^ 16 % 2 ^ 16
        let prio := (w 1).toNat / 2 ^ 8 % 2 ^ 8
        if w 0 ≠ 0 ∨ (w 1).toNat % 256 ≠ 0 ∨ w 5 ≠ 0 ∨ w 6 ≠ 0 ∨ w 7 ≠ 0 ∨ nexp = 0 ∨ 65536 < nexp ∨ 4095 < comb ∨ 3 < prio then
          .trap 0x02 s.exec' s.wordAux
        else s.codeOk (w 4) (
          if !acquireDone s.cur.sl s.cur.sl.nextSeq then .stall
          else if (w 3).toNat % 4 ≠ 0 then .trap 0x09 s.exec' (w 3)
          else
            match s.readCounts (w 3) nexp with
            | .error (n, x) => .fail n s.exec' x
            | .ok (cs, qs) =>
              let ok := match s.tcb? comb with
                | some t => t.ctx == s.cur.g.ctx && t.st == .waiting && t.manual != 0
                | none => false
              if !ok then .trap 0x13 s.exec' (BitVec.ofNat 64 comb)
              else
                let l := planSlots (w 2) cs
                if !s.recRoom l.length then s.frameTrap 1 3
                else if !s.released (dieBit s.die) then .stall
                else
                    (((s.markAll ps .read).markAll qs .read).pushTiles (s.tileLaunch comb)
                        (if s.cur.sl.kind.isKeep then none else s.linkFor 3) (w 4) comb prio l).bind fun s =>
                      .ok (((s.modTcb comb fun t =>
                        subCount s.nextId 1 { t with preds := t.preds + l.length, manual := t.manual - 1 }).reduced
                          comb ((l.length : Int) - 1) 1).settleReady.wr
                        b.toNat (BitVec.ofNat 64 l.length)))))))

/-! ## wphase (R328) -/

/-- wphase: the group waits at its continuation, its release complete; the acquire of the phase's end stands behind the word,
before all that the group issues when it resumes. -/
def execWphase (a : BitVec 9) (s : State) : Host.Outcome State Fault Refusal :=
  s.runBranch (s.inGroup (s.flagged s.setaFlag (s.codeOk (s.rd a.toNat) (
    let empty := match alFind s.clusters s.clusterNo with
      | some c => decide (c.hi ≤ c.lo)
      | none => true
    let all := (List.range 32).all fun l => lane s.cur.g.pcv l == ones64 || inMask s.exec' l
    if !empty || !all then .trap 0x13 s.exec' 0
    else if !s.released 0x0F then .stall
    else
      let s' := ((s.branch fun _ => s.rd a.toNat).setWait s.setaFlag .wphase).acquire
      let s' := if s.cur.g.task = .team then s'.modTeam fun t => { t with wph := t.wph ||| maskBit s.cur.g.gidx } else s'
      .ok ({ s' with tcbs := alMod s'.tcbs s.cur.g.tcb fun t => { t with waited := true } }.endPhase s.cur.g.tcb)))))

/-! ## tself, fcont (R329, R330) -/

def TaskKind.code : TaskKind → Nat
  | .team => 0
  | .spawned => 1
  | .continuation => 2
  | .tile => 3

/-- The task word; 0 in a stream of the Keep or a Lantern. -/
def State.taskWord (s : State) : W64 :=
  if s.cur.sl.kind.isKeep then 0 else BitVec.ofNat 64 (s.cur.g.tcb * 2 ^ 16 + s.cur.g.prio * 4 + s.cur.g.task.code)

/-- The deepest piece in d1 to d3; none in a stream of the Keep or a Lantern. -/
def State.deepestPiece (s : State) : Option PieceAt :=
  if s.cur.sl.kind.isKeep then none else ([3, 2, 1].filterMap s.pieceAt).head?

/-- What is left of it, 0 where there is none. -/
def State.deepestLeft (s : State) : W64 :=
  match s.deepestPiece with
  | some p => let (lo, hi) := s.bounds p; BitVec.ofNat 64 (hi - lo)
  | none => 0

/-- The walks by which its bounds are read. -/
def State.markDeepest (s : State) : State := (s.deepestPiece.map s.markPiece).getD s

/-- Its bounds can be read. -/
def State.deepestGood (s : State) (r : Res α) : Res α :=
  match s.deepestPiece with
  | some p => s.boundsGood p r
  | none => r

def execTself (a b : BitVec 9) (s : State) : Host.Outcome State Fault Refusal :=
  s.run (s.flagged s.setaFlag (s.destOk a.toNat (s.destOk b.toNat (
    s.deepestGood (.ok ((s.markDeepest.wr a.toNat s.taskWord).wr b.toNat s.deepestLeft))))))

/-- The frame is the group's own, its team's (depth 2) or its cluster's (depth 1): a declared one records no display and
comes from no record. -/
def State.mayContinue (s : State) (x : Frame) : Bool :=
  s.owns x || x.owner == .team s.cur.g.team || x.owner == .cluster s.clusterNo ||
    (handleDepth x.handle == 1 && x.saved.isNone && x.born.isNone && x.cluster == s.clusterNo)

def execFcont (a b : BitVec 9) (c : BitVec 7) (s : State) : Host.Outcome State Fault Refusal :=
  let dep := (s.rd b.toNat).toNat
  let prio := (s.rd c.toNat).toNat
  s.run (s.inGroup (s.flagged s.setaFlag (s.valueOk (s.rd b.toNat) (decide (dep ≤ 3)) (
    s.valueOk (s.rd c.toNat) (decide (prio ≤ 3)) (s.codeOk (s.rd a.toNat) (
      if dep = 0 then s.frameTrap 2 0
      else (s.frameAt dep).bind fun (f, x) =>
        if !s.mayContinue x then s.frameTrap 2 dep
        else .ok (s.modFrame f fun x => { x with
          cont := some { join := 0, frame := x.handle, code := s.rd a.toNat, prio := prio, kind := 2 } })))))))

end Sys2Proof.Machine
end

