-- ==== Sys2Proof/Machine/Xlane.lean ====
section
/-! DEFINITION. XLANE: permutations, reductions, scans and scalar-lane moves over the element row of a register (11,
R207-R212). -/

namespace Sys2Proof.Machine

/-- A vector word that raises sticky flags. -/
def State.vwordF (s : State) (d : Nat) (srcs : List Src) (f : List Lanes → Lanes × W64) : Res Resident :=
  (s.sources srcs (some d)).bind fun (vs, g) =>
    (s.writeName g d s.exec' (f vs).1).bind fun g => .ok { s.cur with g := { g with fflg := g.fflg ||| (f vs).2 } }

/-- Element `i` of the row of a register (R207). -/
def rowEl (v : Lanes) (w i : Nat) : Nat := subEl (lane v (i / (64 / w))) (i % (64 / w)) w

/-- A register from its element row. -/
def rowOf (w : Nat) (f : Nat → Nat) : Lanes := tab fun l => mapEls w fun e => f (l * (64 / w) + e)

/-- A permutation of one source's row. -/
def State.xperm1 (s : State) (d a : BitVec 7) (x : BitVec 1) (w : Nat) (f : Lanes → Nat → Nat) : Res Resident :=
  s.vectorOnly (s.vword d.toNat [⟨a.toNat, x == 1⟩] fun vs => rowOf w (f (vs.getD 0 zeroLanes)))

/-- A permutation of two sources' rows. -/
def State.xperm2 (s : State) (d a b : BitVec 7) (x y : BitVec 1) (w : Nat) (f : Lanes → Lanes → Nat → Nat) : Res Resident :=
  s.vectorOnly (s.vword d.toNat [⟨a.toNat, x == 1⟩, ⟨b.toNat, y == 1⟩] fun vs =>
    rowOf w (f (vs.getD 0 zeroLanes) (vs.getD 1 zeroLanes)))

/-! ## Permutations (R209, R211) -/

def execXshfl (d a b : BitVec 7) (x y : BitVec 1) (w : BitVec 2) (s : State) : Host.Outcome State Fault Refusal :=
  let n := 32 * (64 / widthOf w)
  s.runCur (s.xperm2 d a b x y (widthOf w) fun a b i => rowEl a (widthOf w) (rowEl b (widthOf w) i % n))

/-- The sub-element part of IMM8 must exist at the width. -/
def State.subOk (s : State) (e p : Nat) (r : Res α) : Res α := if p ≤ e then .trap 0x02 s.exec' s.wordAux else r

def execXswz (d a : BitVec 7) (i : BitVec 8) (x : BitVec 1) (w : BitVec 2) (s : State) : Host.Outcome State Fault Refusal :=
  let p := 64 / widthOf w
  s.runCur (s.subOk (i.toNat % 8) p (s.xperm1 d a x (widthOf w) fun a k =>
    rowEl a (widthOf w) ((k / p ^^^ i.toNat / 8) * p + (k % p ^^^ i.toNat % 8))))

def execXrot (d a : BitVec 7) (i : BitVec 8) (x : BitVec 1) (w : BitVec 2) (s : State) : Host.Outcome State Fault Refusal :=
  let n := 32 * (64 / widthOf w)
  s.runCur (s.xperm1 d a x (widthOf w) fun a k => rowEl a (widthOf w) ((k + i.toNat) % n))

def execXbcast (d a : BitVec 7) (i : BitVec 8) (x : BitVec 1) (w : BitVec 2) (s : State) : Host.Outcome State Fault Refusal :=
  let p := 64 / widthOf w
  s.runCur (s.subOk (i.toNat % 8) p (s.xperm1 d a x (widthOf w) fun a _ =>
    rowEl a (widthOf w) (i.toNat / 8 * p + i.toNat % 8)))

def execXzip (d a b : BitVec 7) (x y : BitVec 1) (w : BitVec 2) (s : State) : Host.Outcome State Fault Refusal :=
  s.runCur (s.xperm2 d a b x y (widthOf w) fun a b i =>
    if i % 2 = 0 then rowEl a (widthOf w) (i / 2) else rowEl b (widthOf w) (i / 2))

def execXunzip (d a b : BitVec 7) (x y : BitVec 1) (w : BitVec 2) (s : State) : Host.Outcome State Fault Refusal :=
  let h := 32 * (64 / widthOf w) / 2
  s.runCur (s.xperm2 d a b x y (widthOf w) fun a b i =>
    if i < h then rowEl a (widthOf w) (2 * i) else rowEl b (widthOf w) (2 * (i - h) + 1))

/-! ## Reductions and scans (R210) -/

/-- Two entries of the tree combined; an absent one leaves the other. -/
def combEl (op : Nat → Nat → Nat × W64) (p q : Option Nat) : Option Nat × W64 :=
  match p, q with
  | none, q => (q, 0)
  | p, none => (p, 0)
  | some a, some b => (some (op a b).1, (op a b).2)

/-- One step of the tree: entry `l` becomes what `pair` says, from the entries before the step. -/
def treeStep (op : Nat → Nat → Nat × W64) (pair : Nat → Option (Nat × Nat)) (t : List (Option Nat) × W64) :
    List (Option Nat) × W64 :=
  let r := (List.range 32).map fun l => match pair l with
    | some (i, j) => combEl op (t.1.getD i none) (t.1.getD j none)
    | none => (t.1.getD l none, 0)
  (r.map (·.1), r.foldl (fun v e => v ||| e.2) t.2)

/-- The fixed pairwise tree of a reduction. -/
def reduceEls (op : Nat → Nat → Nat × W64) (x : List (Option Nat)) : List (Option Nat) × W64 :=
  [1, 2, 4, 8, 16].foldl (fun t d => treeStep op (fun l => if l % (2 * d) = 0 then some (l, l + d) else none) t) (x, 0)

/-- The inclusive scan. -/
def scanEls (op : Nat → Nat → Nat × W64) (x : List (Option Nat)) : List (Option Nat) × W64 :=
  [1, 2, 4, 8, 16].foldl (fun t d => treeStep op (fun l => if d ≤ l then some (l - d, l) else none) t) (x, 0)

/-- A reduction or scan of each sub-element position over the lanes of a mask. -/
def treeWord (m : Mask) (w : Nat) (scan : Bool) (op : Nat → Nat → Nat × W64) (v : Lanes) : Lanes × W64 :=
  let t := (List.range (64 / w)).map fun e =>
    let x := (List.range 32).map fun l => if inMask m l then some (subEl (lane v l) e w) else none
    if scan then scanEls op x else reduceEls op x
  (tab fun l => mapEls w fun e => ((t.getD e ([], 0)).1.getD (if scan then l else 0) none).getD 0,
   t.foldl (fun f e => f ||| e.2) 0)

def State.xtree (s : State) (d a : BitVec 7) (x : BitVec 1) (w : Nat) (scan : Bool) (op : Nat → Nat → Nat × W64) : Res Resident :=
  s.vectorOnly (s.vwordF d.toNat [⟨a.toNat, x == 1⟩] fun vs => treeWord s.exec' w scan op (vs.getD 0 zeroLanes))

def execXredadd (d a : BitVec 7) (x : BitVec 1) (w : BitVec 2) (s : State) : Host.Outcome State Fault Refusal :=
  s.runCur (s.xtree d a x (widthOf w) false fun p q => ((p + q) % 2 ^ widthOf w, 0))

def execXredmin (d a : BitVec 7) (x : BitVec 1) (w : BitVec 2) (s : State) : Host.Outcome State Fault Refusal :=
  s.runCur (s.xtree d a x (widthOf w) false fun p q => (minEl (widthOf w) p q, 0))

def execXredmax (d a : BitVec 7) (x : BitVec 1) (w : BitVec 2) (s : State) : Host.Outcome State Fault Refusal :=
  s.runCur (s.xtree d a x (widthOf w) false fun p q => (maxEl (widthOf w) p q, 0))

def execXfredaddF32 (d a : BitVec 7) (x : BitVec 1) (s : State) : Host.Outcome State Fault Refusal :=
  s.runCur (s.xtree d a x 32 false (fp32.bin addNum))

def execXfredmaxF32 (d a : BitVec 7) (x : BitVec 1) (s : State) : Host.Outcome State Fault Refusal :=
  s.runCur (s.xtree d a x 32 false (pick32 Num.max))

def execXscan (d a : BitVec 7) (x : BitVec 1) (w : BitVec 2) (s : State) : Host.Outcome State Fault Refusal :=
  s.runCur (s.xtree d a x (widthOf w) true fun p q => ((p + q) % 2 ^ widthOf w, 0))

def execXfscanF32 (d a : BitVec 7) (x : BitVec 1) (s : State) : Host.Outcome State Fault Refusal :=
  s.runCur (s.xtree d a x 32 true (fp32.bin addNum))

/-! ## Scalar-lane moves (R212) -/

/-- xget at width `w`. -/
def State.xget (s : State) (d : BitVec 9) (a : BitVec 7) (l : BitVec 5) (u : BitVec 3) (x : BitVec 1) (w : Nat) : Res State :=
  s.vectorOnly (s.subOk u.toNat (64 / w) (s.destOk d.toNat ((s.sources [⟨a.toNat, x == 1⟩] none).bind fun (vs, g) =>
    .ok ((s.setG fun _ => g).wr d.toNat (BitVec.ofNat 64 (subEl (lane (vs.getD 0 zeroLanes) l.toNat) u.toNat w))))))

/-- One element of a lane replaced. -/
def putEl (v : W64) (e w x : Nat) : W64 := mapEls w fun k => if k = e then x else subEl v k w

/-- xput at width `w`: the named lane is written whether or not it executes. -/
def State.xput (s : State) (d : BitVec 7) (b : BitVec 9) (l : BitVec 5) (u : BitVec 3) (w : Nat) : Res Resident :=
  s.vectorOnly (s.subOk u.toNat (64 / w) (s.noQueue d.toNat (
    let v := putEl (lane (s.cur.g.kept d.toNat) l.toNat) u.toNat w ((s.rd b.toNat).toNat % 2 ^ w)
    (s.writeName s.cur.g d.toNat (maskBit l.toNat) (tab fun _ => v)).bind fun g => .ok { s.cur with g := g })))

def execXgetW8 (d : BitVec 9) (a : BitVec 7) (l : BitVec 5) (u : BitVec 3) (x : BitVec 1) (s : State) : Host.Outcome State Fault Refusal :=
  s.run (s.xget d a l u x 8)

def execXgetW16 (d : BitVec 9) (a : BitVec 7) (l : BitVec 5) (u : BitVec 3) (x : BitVec 1) (s : State) : Host.Outcome State Fault Refusal :=
  s.run (s.xget d a l u x 16)

def execXgetW32 (d : BitVec 9) (a : BitVec 7) (l : BitVec 5) (u : BitVec 3) (x : BitVec 1) (s : State) : Host.Outcome State Fault Refusal :=
  s.run (s.xget d a l u x 32)

def execXgetW64 (d : BitVec 9) (a : BitVec 7) (l : BitVec 5) (u : BitVec 3) (x : BitVec 1) (s : State) : Host.Outcome State Fault Refusal :=
  s.run (s.xget d a l u x 64)

def execXputW8 (d : BitVec 7) (b : BitVec 9) (l : BitVec 5) (u : BitVec 3) (s : State) : Host.Outcome State Fault Refusal :=
  s.runCur (s.xput d b l u 8)

def execXputW16 (d : BitVec 7) (b : BitVec 9) (l : BitVec 5) (u : BitVec 3) (s : State) : Host.Outcome State Fault Refusal :=
  s.runCur (s.xput d b l u 16)

def execXputW32 (d : BitVec 7) (b : BitVec 9) (l : BitVec 5) (u : BitVec 3) (s : State) : Host.Outcome State Fault Refusal :=
  s.runCur (s.xput d b l u 32)

def execXputW64 (d : BitVec 7) (b : BitVec 9) (l : BitVec 5) (u : BitVec 3) (s : State) : Host.Outcome State Fault Refusal :=
  s.runCur (s.xput d b l u 64)

/-- xballot: the executing lanes whose value is not zero. -/
def execXballot (d : BitVec 9) (a : BitVec 7) (x : BitVec 1) (s : State) : Host.Outcome State Fault Refusal :=
  s.run (s.vectorOnly (s.destOk d.toNat ((s.sources [⟨a.toNat, x == 1⟩] none).bind fun (vs, g) =>
    .ok ((s.setG fun _ => g).wr d.toNat
      ((maskOf fun l => inMask s.exec' l && lane (vs.getD 0 zeroLanes) l != 0).setWidth 64)))))

end Sys2Proof.Machine
end

