-- ==== Sys2Proof/Machine/Dispatch.lean ====
section
/-! DEFINITION. One arm per instruction: its meaning. -/

namespace Sys2Proof.Machine

def exec (i : Instr) (s : State) : Host.Outcome State Fault Refusal :=
  match i with
  | .clauseHeader c n w a b y => Sys2Proof.Machine.execClauseHeader c n w a b y s
  | .rpt c d a b => Sys2Proof.Machine.execRpt c d a b s
  | .bra o => Sys2Proof.Machine.execBra o s
  | .bz a1 o => Sys2Proof.Machine.execBz a1 o s
  | .bnz a1 o => Sys2Proof.Machine.execBnz a1 o s
  | .bneg a1 o => Sys2Proof.Machine.execBneg a1 o s
  | .bnneg a1 o => Sys2Proof.Machine.execBnneg a1 o s
  | .bvz a x o => Sys2Proof.Machine.execBvz a x o s
  | .bvnz a x o => Sys2Proof.Machine.execBvnz a x o s
  | .call o => Sys2Proof.Machine.execCall o s
  | .callr a1 => Sys2Proof.Machine.execCallr a1 s
  | .jmpr a1 o => Sys2Proof.Machine.execJmpr a1 o s
  | .ret => Sys2Proof.Machine.execRet s
  | .exit => Sys2Proof.Machine.execExit s
  | .vpark => Sys2Proof.Machine.execVpark s
  | .yield => Sys2Proof.Machine.execYield s
  | .trap a1 i1 => Sys2Proof.Machine.execTrap a1 i1 s
  | .rfe => Sys2Proof.Machine.execRfe s
  | .brk => Sys2Proof.Machine.execBrk s
  | .sysrd d i1 => Sys2Proof.Machine.execSysrd d i1 s
  | .syswr a1 i1 => Sys2Proof.Machine.execSyswr a1 i1 s
  | .fent p z a1 => Sys2Proof.Machine.execFent p z a1 s
  | .fexit p a1 => Sys2Proof.Machine.execFexit p a1 s
  | .fdisp p a1 => Sys2Proof.Machine.execFdisp p a1 s
  | .fpub p => Sys2Proof.Machine.execFpub p s
  | .pcvrd d => Sys2Proof.Machine.execPcvrd d s
  | .pcvwr a x => Sys2Proof.Machine.execPcvwr a x s
  | .trpv d a x => Sys2Proof.Machine.execTrpv d a x s
  | .add d a b => Sys2Proof.Machine.execAdd d a b s
  | .sub d a b => Sys2Proof.Machine.execSub d a b s
  | .mul d a b => Sys2Proof.Machine.execMul d a b s
  | .mulh d a b => Sys2Proof.Machine.execMulh d a b s
  | .mulhu d a b => Sys2Proof.Machine.execMulhu d a b s
  | .div d a b => Sys2Proof.Machine.execDiv d a b s
  | .divu d a b => Sys2Proof.Machine.execDivu d a b s
  | .rem d a b => Sys2Proof.Machine.execRem d a b s
  | .remu d a b => Sys2Proof.Machine.execRemu d a b s
  | .and d a b => Sys2Proof.Machine.execAnd d a b s
  | .or d a b => Sys2Proof.Machine.execOr d a b s
  | .xor d a b => Sys2Proof.Machine.execXor d a b s
  | .andn d a b => Sys2Proof.Machine.execAndn d a b s
  | .shl d a b => Sys2Proof.Machine.execShl d a b s
  | .shr d a b => Sys2Proof.Machine.execShr d a b s
  | .sar d a b => Sys2Proof.Machine.execSar d a b s
  | .rot d a b => Sys2Proof.Machine.execRot d a b s
  | .min d a b => Sys2Proof.Machine.execMin d a b s
  | .max d a b => Sys2Proof.Machine.execMax d a b s
  | .minu d a b => Sys2Proof.Machine.execMinu d a b s
  | .maxu d a b => Sys2Proof.Machine.execMaxu d a b s
  | .slt d a b => Sys2Proof.Machine.execSlt d a b s
  | .sltu d a b => Sys2Proof.Machine.execSltu d a b s
  | .seq d a b => Sys2Proof.Machine.execSeq d a b s
  | .sel d a b => Sys2Proof.Machine.execSel d a b s
  | .clz d a => Sys2Proof.Machine.execClz d a s
  | .ctz d a => Sys2Proof.Machine.execCtz d a s
  | .popc d a => Sys2Proof.Machine.execPopc d a s
  | .addi d a i1 => Sys2Proof.Machine.execAddi d a i1 s
  | .andi d a i1 => Sys2Proof.Machine.execAndi d a i1 s
  | .ori d a i1 => Sys2Proof.Machine.execOri d a i1 s
  | .xori d a i1 => Sys2Proof.Machine.execXori d a i1 s
  | .shli d a i1 => Sys2Proof.Machine.execShli d a i1 s
  | .shri d a i1 => Sys2Proof.Machine.execShri d a i1 s
  | .sari d a i1 => Sys2Proof.Machine.execSari d a i1 s
  | .slti d a i1 => Sys2Proof.Machine.execSlti d a i1 s
  | .sltui d a i1 => Sys2Proof.Machine.execSltui d a i1 s
  | .seqi d a i1 => Sys2Proof.Machine.execSeqi d a i1 s
  | .muli d a i1 => Sys2Proof.Machine.execMuli d a i1 s
  | .movi d i1 => Sys2Proof.Machine.execMovi d i1 s
  | .movhi d i1 => Sys2Proof.Machine.execMovhi d i1 s
  | .ldpc d i1 => Sys2Proof.Machine.execLdpc d i1 s
  | .vadd d a b x y w => Sys2Proof.Machine.execVadd d a b x y w s
  | .vsub d a b x y w => Sys2Proof.Machine.execVsub d a b x y w s
  | .vaddss d a b x y w => Sys2Proof.Machine.execVaddss d a b x y w s
  | .vaddsu d a b x y w => Sys2Proof.Machine.execVaddsu d a b x y w s
  | .vsubss d a b x y w => Sys2Proof.Machine.execVsubss d a b x y w s
  | .vsubsu d a b x y w => Sys2Proof.Machine.execVsubsu d a b x y w s
  | .vmul d a b x y w => Sys2Proof.Machine.execVmul d a b x y w s
  | .vmulh d a b x y w => Sys2Proof.Machine.execVmulh d a b x y w s
  | .vmulhu d a b x y w => Sys2Proof.Machine.execVmulhu d a b x y w s
  | .vmad d a b x y w => Sys2Proof.Machine.execVmad d a b x y w s
  | .vmin d a b x y w => Sys2Proof.Machine.execVmin d a b x y w s
  | .vmax d a b x y w => Sys2Proof.Machine.execVmax d a b x y w s
  | .vminu d a b x y w => Sys2Proof.Machine.execVminu d a b x y w s
  | .vmaxu d a b x y w => Sys2Proof.Machine.execVmaxu d a b x y w s
  | .vand d a b x y w => Sys2Proof.Machine.execVand d a b x y w s
  | .vor d a b x y w => Sys2Proof.Machine.execVor d a b x y w s
  | .vxor d a b x y w => Sys2Proof.Machine.execVxor d a b x y w s
  | .vandn d a b x y w => Sys2Proof.Machine.execVandn d a b x y w s
  | .vshl d a b x y w => Sys2Proof.Machine.execVshl d a b x y w s
  | .vshr d a b x y w => Sys2Proof.Machine.execVshr d a b x y w s
  | .vsar d a b x y w => Sys2Proof.Machine.execVsar d a b x y w s
  | .vrot d a b x y w => Sys2Proof.Machine.execVrot d a b x y w s
  | .vceq d a b x y w => Sys2Proof.Machine.execVceq d a b x y w s
  | .vclt d a b x y w => Sys2Proof.Machine.execVclt d a b x y w s
  | .vcltu d a b x y w => Sys2Proof.Machine.execVcltu d a b x y w s
  | .vsel d a b x y w => Sys2Proof.Machine.execVsel d a b x y w s
  | .vclz d a x w => Sys2Proof.Machine.execVclz d a x w s
  | .vpopc d a x w => Sys2Proof.Machine.execVpopc d a x w s
  | .vabs d a x w => Sys2Proof.Machine.execVabs d a x w s
  | .vdot4 d a b x y => Sys2Proof.Machine.execVdot4 d a b x y s
  | .vmov d a x w => Sys2Proof.Machine.execVmov d a x w s
  | .vwiden d a x w => Sys2Proof.Machine.execVwiden d a x w s
  | .vnarrow d a x w => Sys2Proof.Machine.execVnarrow d a x w s
  | .vlid d w => Sys2Proof.Machine.execVlid d w s
  | .vaddi d a i1 x w => Sys2Proof.Machine.execVaddi d a i1 x w s
  | .vshli d a i1 x w => Sys2Proof.Machine.execVshli d a i1 x w s
  | .vshri d a i1 x w => Sys2Proof.Machine.execVshri d a i1 x w s
  | .vsari d a i1 x w => Sys2Proof.Machine.execVsari d a i1 x w s
  | .vandi d a i1 x w => Sys2Proof.Machine.execVandi d a i1 x w s
  | .vmovi d i1 w => Sys2Proof.Machine.execVmovi d i1 w s
  | .vceqi d a i1 x w => Sys2Proof.Machine.execVceqi d a i1 x w s
  | .vaddS d a a1 x w => Sys2Proof.Machine.execVaddS d a a1 x w s
  | .vsubS d a a1 x w => Sys2Proof.Machine.execVsubS d a a1 x w s
  | .vmulS d a a1 x w => Sys2Proof.Machine.execVmulS d a a1 x w s
  | .vminS d a a1 x w => Sys2Proof.Machine.execVminS d a a1 x w s
  | .vmaxS d a a1 x w => Sys2Proof.Machine.execVmaxS d a a1 x w s
  | .vandS d a a1 x w => Sys2Proof.Machine.execVandS d a a1 x w s
  | .vmovS d a1 w => Sys2Proof.Machine.execVmovS d a1 w s
  | .vceqS d a a1 x w => Sys2Proof.Machine.execVceqS d a a1 x w s
  | .vcltS d a a1 x w => Sys2Proof.Machine.execVcltS d a a1 x w s
  | .faddF32 d a b x y h k => Sys2Proof.Machine.execFaddF32 d a b x y h k s
  | .fsubF32 d a b x y h k => Sys2Proof.Machine.execFsubF32 d a b x y h k s
  | .fmulF32 d a b x y h k => Sys2Proof.Machine.execFmulF32 d a b x y h k s
  | .ffmaF32 d a b x y h k => Sys2Proof.Machine.execFfmaF32 d a b x y h k s
  | .ffmsF32 d a b x y h k => Sys2Proof.Machine.execFfmsF32 d a b x y h k s
  | .fminF32 d a b x y h k => Sys2Proof.Machine.execFminF32 d a b x y h k s
  | .fmaxF32 d a b x y h k => Sys2Proof.Machine.execFmaxF32 d a b x y h k s
  | .fabsF32 d a x h => Sys2Proof.Machine.execFabsF32 d a x h s
  | .fnegF32 d a x h => Sys2Proof.Machine.execFnegF32 d a x h s
  | .fceqF32 d a b x y h k => Sys2Proof.Machine.execFceqF32 d a b x y h k s
  | .fcltF32 d a b x y h k => Sys2Proof.Machine.execFcltF32 d a b x y h k s
  | .fcleF32 d a b x y h k => Sys2Proof.Machine.execFcleF32 d a b x y h k s
  | .faddBf16 d a b x y h k => Sys2Proof.Machine.execFaddBf16 d a b x y h k s
  | .fmulBf16 d a b x y h k => Sys2Proof.Machine.execFmulBf16 d a b x y h k s
  | .ffmaBf16 d a b x y h k => Sys2Proof.Machine.execFfmaBf16 d a b x y h k s
  | .fdot2Bf16 d a b x y h k => Sys2Proof.Machine.execFdot2Bf16 d a b x y h k s
  | .faddF16 d a b x y h k => Sys2Proof.Machine.execFaddF16 d a b x y h k s
  | .fmulF16 d a b x y h k => Sys2Proof.Machine.execFmulF16 d a b x y h k s
  | .ffmaF16 d a b x y h k => Sys2Proof.Machine.execFfmaF16 d a b x y h k s
  | .fdot2F16 d a b x y h k => Sys2Proof.Machine.execFdot2F16 d a b x y h k s
  | .faddF64 d a b x y h k => Sys2Proof.Machine.execFaddF64 d a b x y h k s
  | .fmulF64 d a b x y h k => Sys2Proof.Machine.execFmulF64 d a b x y h k s
  | .ffmaF64 d a b x y h k => Sys2Proof.Machine.execFfmaF64 d a b x y h k s
  | .fcvtF32Bf16 d a x h => Sys2Proof.Machine.execFcvtF32Bf16 d a x h s
  | .fcvtBf16F32 d a x h => Sys2Proof.Machine.execFcvtBf16F32 d a x h s
  | .fcvtF32F16 d a x h => Sys2Proof.Machine.execFcvtF32F16 d a x h s
  | .fcvtF16F32 d a x h => Sys2Proof.Machine.execFcvtF16F32 d a x h s
  | .fcvtF32E4m3 d a x h => Sys2Proof.Machine.execFcvtF32E4m3 d a x h s
  | .fcvtE4m3F32 d a x h => Sys2Proof.Machine.execFcvtE4m3F32 d a x h s
  | .fcvtF32E5m2 d a x h => Sys2Proof.Machine.execFcvtF32E5m2 d a x h s
  | .fcvtE5m2F32 d a x h => Sys2Proof.Machine.execFcvtE5m2F32 d a x h s
  | .fcvtF32I32 d a x h => Sys2Proof.Machine.execFcvtF32I32 d a x h s
  | .fcvtI32F32 d a x h => Sys2Proof.Machine.execFcvtI32F32 d a x h s
  | .fcvtI32F32z d a x h => Sys2Proof.Machine.execFcvtI32F32z d a x h s
  | .fcvtF64F32 d a x h => Sys2Proof.Machine.execFcvtF64F32 d a x h s
  | .fcvtF32F64 d a x h => Sys2Proof.Machine.execFcvtF32F64 d a x h s
  | .xshfl d a b x y w => Sys2Proof.Machine.execXshfl d a b x y w s
  | .xswz d a i1 x w => Sys2Proof.Machine.execXswz d a i1 x w s
  | .xrot d a i1 x w => Sys2Proof.Machine.execXrot d a i1 x w s
  | .xbcast d a i1 x w => Sys2Proof.Machine.execXbcast d a i1 x w s
  | .xredadd d a x w => Sys2Proof.Machine.execXredadd d a x w s
  | .xredmin d a x w => Sys2Proof.Machine.execXredmin d a x w s
  | .xredmax d a x w => Sys2Proof.Machine.execXredmax d a x w s
  | .xfredaddF32 d a x => Sys2Proof.Machine.execXfredaddF32 d a x s
  | .xfredmaxF32 d a x => Sys2Proof.Machine.execXfredmaxF32 d a x s
  | .xscan d a x w => Sys2Proof.Machine.execXscan d a x w s
  | .xfscanF32 d a x => Sys2Proof.Machine.execXfscanF32 d a x s
  | .xzip d a b x y w => Sys2Proof.Machine.execXzip d a b x y w s
  | .xunzip d a b x y w => Sys2Proof.Machine.execXunzip d a b x y w s
  | .xgetW8 d a l u x => Sys2Proof.Machine.execXgetW8 d a l u x s
  | .xgetW16 d a l u x => Sys2Proof.Machine.execXgetW16 d a l u x s
  | .xgetW32 d a l u x => Sys2Proof.Machine.execXgetW32 d a l u x s
  | .xgetW64 d a l u x => Sys2Proof.Machine.execXgetW64 d a l u x s
  | .xputW8 d a1 l u => Sys2Proof.Machine.execXputW8 d a1 l u s
  | .xputW16 d a1 l u => Sys2Proof.Machine.execXputW16 d a1 l u s
  | .xputW32 d a1 l u => Sys2Proof.Machine.execXputW32 d a1 l u s
  | .xputW64 d a1 l u => Sys2Proof.Machine.execXputW64 d a1 l u s
  | .xballot d a x => Sys2Proof.Machine.execXballot d a x s
  | .srcp d a x h => Sys2Proof.Machine.execSrcp d a x h s
  | .srsqrt d a x h => Sys2Proof.Machine.execSrsqrt d a x h s
  | .ssqrt d a x h => Sys2Proof.Machine.execSsqrt d a x h s
  | .sexp2 d a x h => Sys2Proof.Machine.execSexp2 d a x h s
  | .slog2 d a x h => Sys2Proof.Machine.execSlog2 d a x h s
  | .sexp d a x h => Sys2Proof.Machine.execSexp d a x h s
  | .ssinpi d a x h => Sys2Proof.Machine.execSsinpi d a x h s
  | .scospi d a x h => Sys2Proof.Machine.execScospi d a x h s
  | .stanh d a x h => Sys2Proof.Machine.execStanh d a x h s
  | .ssigm d a x h => Sys2Proof.Machine.execSsigm d a x h s
  | .sladd d a b x y w => Sys2Proof.Machine.execSladd d a b x y w s
  | .slsub d a b x y w => Sys2Proof.Machine.execSlsub d a b x y w s
  | .slmul d a b x y w => Sys2Proof.Machine.execSlmul d a b x y w s
  | .sldiv d a b x y w => Sys2Proof.Machine.execSldiv d a b x y w s
  | .slrcp d a x w => Sys2Proof.Machine.execSlrcp d a x w s
  | .slneg d a x w => Sys2Proof.Machine.execSlneg d a x w s
  | .slabs d a x w => Sys2Proof.Machine.execSlabs d a x w s
  | .slexp d a x w => Sys2Proof.Machine.execSlexp d a x w s
  | .sllog d a x w => Sys2Proof.Machine.execSllog d a x w s
  | .slmin d a b x y w => Sys2Proof.Machine.execSlmin d a b x y w s
  | .slmax d a b x y w => Sys2Proof.Machine.execSlmax d a b x y w s
  | .slceq d a b x y w => Sys2Proof.Machine.execSlceq d a b x y w s
  | .slclt d a b x y w => Sys2Proof.Machine.execSlclt d a b x y w s
  | .slsqrt d a x w => Sys2Proof.Machine.execSlsqrt d a x w s
  | .slcvtSlF32 d a x => Sys2Proof.Machine.execSlcvtSlF32 d a x s
  | .slcvtF32Sl d a x => Sys2Proof.Machine.execSlcvtF32Sl d a x s
  | .slcvtSlF64 d a x => Sys2Proof.Machine.execSlcvtSlF64 d a x s
  | .slcvtF64Sl d a x => Sys2Proof.Machine.execSlcvtF64Sl d a x s
  | .slcvtSl16Sl32 d a x => Sys2Proof.Machine.execSlcvtSl16Sl32 d a x s
  | .slcvtSl32Sl16 d a x => Sys2Proof.Machine.execSlcvtSl32Sl16 d a x s
  | .sllvl d a x w => Sys2Proof.Machine.execSllvl d a x w s
  | .vld d a1 o v f => Sys2Proof.Machine.execVld d a1 o v f s
  | .vst d a1 o v f => Sys2Proof.Machine.execVst d a1 o v f s
  | .vldu d a1 i1 f => Sys2Proof.Machine.execVldu d a1 i1 f s
  | .vstu d a1 i1 f => Sys2Proof.Machine.execVstu d a1 i1 f s
  | .vlds d a1 o v f => Sys2Proof.Machine.execVlds d a1 o v f s
  | .vsts d a1 o v f => Sys2Proof.Machine.execVsts d a1 o v f s
  | .vldsu d a1 i1 f => Sys2Proof.Machine.execVldsu d a1 i1 f s
  | .vstsu d a1 i1 f => Sys2Proof.Machine.execVstsu d a1 i1 f s
  | .sld d a1 i1 f => Sys2Proof.Machine.execSld d a1 i1 f s
  | .sst d a1 i1 f => Sys2Proof.Machine.execSst d a1 i1 f s
  | .sldw d a1 i1 f => Sys2Proof.Machine.execSldw d a1 i1 f s
  | .vpop d q f => Sys2Proof.Machine.execVpop d q f s
  | .fld p a1 r f => Sys2Proof.Machine.execFld p a1 r f s
  | .fst p a1 r f => Sys2Proof.Machine.execFst p a1 r f s
  | .fldb p a1 r f => Sys2Proof.Machine.execFldb p a1 r f s
  | .flda p a1 r f => Sys2Proof.Machine.execFlda p a1 r f s
  | .famo p a1 r f => Sys2Proof.Machine.execFamo p a1 r f s
  | .vstb d a1 t f => Sys2Proof.Machine.execVstb d a1 t f s
  | .bar d b o f => Sys2Proof.Machine.execBar d b o f s
  | .barinit a1 b f => Sys2Proof.Machine.execBarinit a1 b f s
  | .barsig b f => Sys2Proof.Machine.execBarsig b f s
  | .barwait b f => Sys2Proof.Machine.execBarwait b f s
  | .gbar a1 b f => Sys2Proof.Machine.execGbar a1 b f s
  | .qpush a1 q f => Sys2Proof.Machine.execQpush a1 q f s
  | .qpop a1 q f => Sys2Proof.Machine.execQpop a1 q f s
  | .qtry a1 q f => Sys2Proof.Machine.execQtry a1 q f s
  | .qallow a1 q f => Sys2Proof.Machine.execQallow a1 q f s
  | .ringpub g a1 f => Sys2Proof.Machine.execRingpub g a1 f s
  | .ringwait d g a1 f => Sys2Proof.Machine.execRingwait d g a1 f s
  | .ringadv d g a1 f => Sys2Proof.Machine.execRingadv d g a1 f s
  | .aadd d a c w x f => Sys2Proof.Machine.execAadd d a c w x f s
  | .aand d a c w x f => Sys2Proof.Machine.execAand d a c w x f s
  | .aor d a c w x f => Sys2Proof.Machine.execAor d a c w x f s
  | .axor d a c w x f => Sys2Proof.Machine.execAxor d a c w x f s
  | .amin d a c w x f => Sys2Proof.Machine.execAmin d a c w x f s
  | .amax d a c w x f => Sys2Proof.Machine.execAmax d a c w x f s
  | .aswap d a c w x f => Sys2Proof.Machine.execAswap d a c w x f s
  | .acas d a c w x f => Sys2Proof.Machine.execAcas d a c w x f s
  | .redadd d a c w x f => Sys2Proof.Machine.execRedadd d a c w x f s
  | .redmin d a c w x f => Sys2Proof.Machine.execRedmin d a c w x f s
  | .redmax d a c w x f => Sys2Proof.Machine.execRedmax d a c w x f s
  | .fredadd d a c w x f => Sys2Proof.Machine.execFredadd d a c w x f s
  | .fence c k f => Sys2Proof.Machine.execFence c k f s
  | .qfence c k q f => Sys2Proof.Machine.execQfence c k q f s
  | .mbrd d m f => Sys2Proof.Machine.execMbrd d m f s
  | .mbwr d m f => Sys2Proof.Machine.execMbwr d m f s
  | .mbtry d m f => Sys2Proof.Machine.execMbtry d m f s
  | .mma a b c h u => Sys2Proof.Machine.execMma a b c h u s
  | .mmaz a b c h u => Sys2Proof.Machine.execMmaz a b c h u s
  | .mset a => Sys2Proof.Machine.execMset a s
  | .mzero a1 c => Sys2Proof.Machine.execMzero a1 c s
  | .mpar a1 => Sys2Proof.Machine.execMpar a1 s
  | .mdrain a1 b c => Sys2Proof.Machine.execMdrain a1 b c s
  | .mdrainv a1 c => Sys2Proof.Machine.execMdrainv a1 c s
  | .msoft a1 b c => Sys2Proof.Machine.execMsoft a1 b c s
  | .mside a1 b c => Sys2Proof.Machine.execMside a1 b c s
  | .macq a1 b c => Sys2Proof.Machine.execMacq a1 b c s
  | .mrel a1 c => Sys2Proof.Machine.execMrel a1 c s
  | .mrelf a1 c => Sys2Proof.Machine.execMrelf a1 c s
  | .mred a1 b c => Sys2Proof.Machine.execMred a1 b c s
  | .cpy t a1 a => Sys2Proof.Machine.execCpy t a1 a s
  | .gath t a1 a => Sys2Proof.Machine.execGath t a1 a s
  | .scat t a1 a => Sys2Proof.Machine.execScat t a1 a s
  | .chain t a1 a => Sys2Proof.Machine.execChain t a1 a s
  | .ringsub t a1 a => Sys2Proof.Machine.execRingsub t a1 a s
  | .unsub t a1 => Sys2Proof.Machine.execUnsub t a1 s
  | .pull t a1 a => Sys2Proof.Machine.execPull t a1 a s
  | .tlook t a1 => Sys2Proof.Machine.execTlook t a1 s
  | .tfill t a1 a => Sys2Proof.Machine.execTfill t a1 a s
  | .tevict t a => Sys2Proof.Machine.execTevict t a s
  | .tinval t a => Sys2Proof.Machine.execTinval t a s
  | .coll t a1 a => Sys2Proof.Machine.execColl t a1 a s
  | .oldu t a1 a => Sys2Proof.Machine.execOldu t a1 a s
  | .oldg t a1 a => Sys2Proof.Machine.execOldg t a1 a s
  | .bput r k b l f => Sys2Proof.Machine.execBput r k b l f s
  | .bputl r b f => Sys2Proof.Machine.execBputl r b f s
  | .bcount d a1 => Sys2Proof.Machine.execBcount d a1 s
  | .bcounts d a1 a => Sys2Proof.Machine.execBcounts d a1 a s
  | .bnew d a1 a => Sys2Proof.Machine.execBnew d a1 a s
  | .bgrow d a1 a => Sys2Proof.Machine.execBgrow d a1 a s
  | .bfree d a1 => Sys2Proof.Machine.execBfree d a1 s
  | .bseal d a1 => Sys2Proof.Machine.execBseal d a1 s
  | .biter d a1 a => Sys2Proof.Machine.execBiter d a1 a s
  | .bnext r k b f => Sys2Proof.Machine.execBnext r k b f s
  | .bwrite r k b l f => Sys2Proof.Machine.execBwrite r k b l f s
  | .bdrain d a1 a => Sys2Proof.Machine.execBdrain d a1 a s
  | .spawn a1 b c => Sys2Proof.Machine.execSpawn a1 b c s
  | .spawnr a1 b c => Sys2Proof.Machine.execSpawnr a1 b c s
  | .rtake a1 b => Sys2Proof.Machine.execRtake a1 b s
  | .launch a1 b c => Sys2Proof.Machine.execLaunch a1 b c s
  | .tcbdec a1 b => Sys2Proof.Machine.execTcbdec a1 b s
  | .eplan a1 b => Sys2Proof.Machine.execEplan a1 b s
  | .wphase a1 => Sys2Proof.Machine.execWphase a1 s
  | .tself a1 b => Sys2Proof.Machine.execTself a1 b s
  | .fcont a1 b c => Sys2Proof.Machine.execFcont a1 b c s
  | .uncorrectableLoadTrap => Sys2Proof.Machine.execUncorrectableLoadTrap s
  | .load op part => Sys2Proof.Machine.execLoad op part s
  | .drain op part => Sys2Proof.Machine.execDrain op part s
  | .apply agent w => Sys2Proof.Machine.execApply agent w s
  | .atomic op loc => Sys2Proof.Machine.execAtomic op loc s
  | .publish frame => Sys2Proof.Machine.execPublish frame s
  | .engineOpStart core q => Sys2Proof.Machine.execEngineOpStart core q s
  | .engineOpComplete core q => Sys2Proof.Machine.execEngineOpComplete core q s
  | .subscriptionAccept op => Sys2Proof.Machine.execSubscriptionAccept op s
  | .loaderPublish stack slot => Sys2Proof.Machine.execLoaderPublish stack slot s
  | .storerStore stack slot => Sys2Proof.Machine.execStorerStore stack slot s
  | .oqEntryArrive q entry => Sys2Proof.Machine.execOqEntryArrive q entry s
  | .rdPacket stack p ecc => Sys2Proof.Machine.execRdPacket stack p ecc s
  | .wrPacket stack p => Sys2Proof.Machine.execWrPacket stack p s
  | .atmPacket stack p op => Sys2Proof.Machine.execAtmPacket stack p op s
  | .memoryReply stack die tag => Sys2Proof.Machine.execMemoryReply stack die tag s
  | .perBankRefresh stack pch bank => Sys2Proof.Machine.execPerBankRefresh stack pch bank s
  | .refreshComplete stack pch bank => Sys2Proof.Machine.execRefreshComplete stack pch bank s
  | .patrolScrub stack ecc => Sys2Proof.Machine.execPatrolScrub stack ecc s
  | .lanternGateRow die => Sys2Proof.Machine.execLanternGateRow die s
  | .launchDoorbell ctx queue packet => Sys2Proof.Machine.execLaunchDoorbell ctx queue packet s
  | .launchAccept => Sys2Proof.Machine.execLaunchAccept s
  | .piecePlace core => Sys2Proof.Machine.execPiecePlace core s
  | .pieceSplit core => Sys2Proof.Machine.execPieceSplit core s
  | .gangStarve tcb => Sys2Proof.Machine.execGangStarve tcb s
  | .crPop team slot => Sys2Proof.Machine.execCrPop team slot s
  | .groupLeave => Sys2Proof.Machine.execGroupLeave s
  | .schedAgingBoost group => Sys2Proof.Machine.execSchedAgingBoost group s
  | .scoreboardSquash core quarter => Sys2Proof.Machine.execScoreboardSquash core quarter s
  | .preemption tcb team => Sys2Proof.Machine.execPreemption tcb team s
  | .preemptSave team => Sys2Proof.Machine.execPreemptSave team s
  | .unitResume unit core => Sys2Proof.Machine.execUnitResume unit core s
  | .wphaseSpill team => Sys2Proof.Machine.execWphaseSpill team s
  | .storageEccError core source tcb aux lasting => Sys2Proof.Machine.execStorageEccError core source tcb aux lasting s
  | .aaeLastingFault core tcb => Sys2Proof.Machine.execAaeLastingFault core tcb s
  | .rollback tcb => Sys2Proof.Machine.execRollback tcb s
  | .flitCrcError port => Sys2Proof.Machine.execFlitCrcError port s
  | .portRetrain port => Sys2Proof.Machine.execPortRetrain port s
  | .remoteTimeout die pkg => Sys2Proof.Machine.execRemoteTimeout die pkg s
  | .fabricDeliver m => Sys2Proof.Machine.execFabricDeliver m s
  | .hostAccess m => Sys2Proof.Machine.execHostAccess m s
  | .thermalHalt die => Sys2Proof.Machine.execThermalHalt die s
  | .thermalResume die => Sys2Proof.Machine.execThermalResume die s
  | .powerLimitThrottle die => Sys2Proof.Machine.execPowerLimitThrottle die s
  | .bringUp failsAt => Sys2Proof.Machine.execBringUp failsAt s
  | .firmwareSwap target => Sys2Proof.Machine.execFirmwareSwap target s
  | .summary tag pa => Sys2Proof.Machine.execSummary tag pa s
  | .ctxset tag ctx r => Sys2Proof.Machine.execCtxset tag ctx r s
  | .inval tag ctx va len kind => Sys2Proof.Machine.execInval tag ctx va len kind s
  | .resolve tag tcb ans => Sys2Proof.Machine.execResolve tag tcb ans s
  | .preempt tag tcb => Sys2Proof.Machine.execPreempt tag tcb s
  | .routebind tag die ctx pa => Sys2Proof.Machine.execRoutebind tag die ctx pa s
  | .clrsuspect tag core => Sys2Proof.Machine.execClrsuspect tag core s
  | .domain tag own peer ring => Sys2Proof.Machine.execDomain tag own peer ring s
  | .route tag pkg ports => Sys2Proof.Machine.execRoute tag pkg ports s
  | .fwload tag pa target => Sys2Proof.Machine.execFwload tag pa target s
  | .attest tag nonce report => Sys2Proof.Machine.execAttest tag nonce report s
  | .wreset tag => Sys2Proof.Machine.execWreset tag s
  | .scrub tag stack value => Sys2Proof.Machine.execScrub tag stack value s
  | .aaefence tag core v => Sys2Proof.Machine.execAaefence tag core v s
  | .corestat tag pa => Sys2Proof.Machine.execCorestat tag pa s
  | .placementHomeApply op => Sys2Proof.Machine.execPlacementHomeApply op s
  | .matrixWordComplete core op mismatches => Sys2Proof.Machine.execMatrixWordComplete core op mismatches s
  | .retrainComplete port ok => Sys2Proof.Machine.execRetrainComplete port ok s

end Sys2Proof.Machine
end

