-- ==== Sys2Proof/Machine/Issue.lean ====
section
/-! DEFINITION. What comes between the dispatch and the step: the word that issues, fetching a clause, the scheduler's choice,
time (02, R20-R39; 16, R271-R277). -/

namespace Sys2Proof.Machine

/-! ## The word that issues -/

/-- Opcodes legal in the scalar profile (02, R21). -/
def scalarOp (cls op : Nat) : Bool :=
  if cls = 0 then op != 6 && op != 7 && op != 0x0D && !(decide (0x18 ≤ op) && decide (op ≤ 0x1A))
  else if cls = 8 then (decide (9 ≤ op) && decide (op ≤ 0x0B)) || op == 0x0D || op == 0x0E || op == 0x10 || op == 0x11
  else if cls = 9 then (decide (0x10 ≤ op) && decide (op ≤ 0x1B)) || op == 0x20 || op == 0x21 || (decide (0x22 ≤ op) && decide (op ≤ 0x24))
  else true

/-- The instruction of an issue of a word in its class. -/
noncomputable def State.runWord (s : State) (cls w : Nat) : Host.Outcome State Fault Refusal :=
  match decodeWord cls (BitVec.ofNat 32 w) with
  | .error _ => .next (s.trap 0x02 s.exec' s.wordAux)
  | .ok i =>
    if s.cur.sl.scalar && !scalarOp cls (wordOp cls w) then .next (s.trap 0x02 s.exec' s.wordAux)
    else if s.cur.sl.wait.isNone && s.interlocked cls w then .next s
    else exec i s

/-- The word at the position of the clause issues: the header, a repeat word, or an instruction at issue `k` of its repeat. -/
noncomputable def State.runClause (s : State) (c : Clause) : Host.Outcome State Fault Refusal :=
  if c.idx = 0 then
    match decodeHeader c.hdr with
    | .error _ => .next (s.trap 0x01 s.exec' s.wordAux)
    | .ok i => exec i s
  else if isRptWord c.word.toNat then
    match decodeWord c.cls c.word with
    | .ok (.rpt n d a b) => if c.rptOk d a b then exec (.rpt n d a b) s else .next (s.trap 0x02 s.exec' s.wordAux)
    | _ => .next (s.trap 0x02 s.exec' s.wordAux)
  else
    match decodeWord c.cls c.word, stepWord c.cls s.cur.sl.rep c.word.toNat with
    | .error _, _ => .next (s.trap 0x02 s.exec' s.wordAux)
    | .ok _, .error v => .next (s.trap 0x03 s.exec' (BitVec.ofInt 64 v))
    | .ok _, .ok w => s.runWord c.cls w

/-! ## Fetching (02, R39; 16, R271, R272; 07, R140; 20, R347) -/

/-- The next clause of the selected slice fetched with its EXEC. -/
def State.fetchNext (s : State) : State :=
  match s.cur.sl.handler with
  | some h => s.loadClause h.pc h.exec 0
  | none =>
    if s.cur.sl.scalar then (if s.cur.sl.ended then s else s.loadClause s.cur.sl.pc 1 0)
    else
      let act := activeMask s.cur.g.pcv s.cur.g.park
      let a := minPc s.cur.g.pcv act
      if act = 0 then s else s.loadClause a (maskOf fun l => inMask act l && lane s.cur.g.pcv l == a) 0

/-- A clause that could not be fetched is fetched again at its place; a place past its end is the next clause; after a `trap` or
`brk` the slice goes on behind the word. -/
def State.fetchAgain (s : State) (c : Clause) : State :=
  let t := s.loadClause c.addr c.exec c.idx
  match t.cur.sl.clause with
  | some k =>
    if k.absent || k.idx == 0 then t
    else if t.cur.sl.after && k.legal t.cur.sl.kind && decide (k.idx ≤ k.cnt) then t.pastWord k
    else t.placeAt k.exec k
  | none => t

/-- The selected slice may not issue now: it is held by the Keep, has been stopped, or rests for a pre-emption, on a die in thermal
halt, on a fenced AAE, or on a package that drains for a warm reset (20, R349, R356; 22, R382, R385; 07, R141). -/
def State.mayNotIssue (s : State) : Bool :=
  s.kstate == 2 || s.cur.sl.ended || s.cur.sl.wait == some .keep || s.cur.sl.wait == some .preempted || (s.cur.sl.stopped && s.cur.sl.atRest) ||
    (s.cur.sl.kind != .keep && s.halted.contains s.die) || (s.cur.sl.kind == .access && (s.core s.coreNo).fenced)

/-- The next step of the selected slice: a deferred trap at the boundary (20, R351), a fetch, or its next word. -/
noncomputable def State.issueNext (s : State) : Host.Outcome State Fault Refusal :=
  if s.mayNotIssue then .next s
  else if s.cur.sl.wait.isNone && s.cur.sl.handler.isNone && s.cur.sl.badLoad.isSome then exec .uncorrectableLoadTrap s
  else
    match s.cur.sl.clause with
    | none => .next (if s.cur.g.id = 0 then s else s.fetchNext)
    | some c => if c.absent then .next (s.fetchAgain c) else s.runClause c

/-- The step of the selected slice issues a word of its clause: no fetch, no header, no repeat word (02, R32), no deferred
trap. -/
def State.issuesWord (s : State) : Bool :=
  match s.cur.sl.clause with
  | some c => !c.absent && c.idx != 0 && !isRptWord c.word.toNat && !(s.cur.sl.wait.isNone && s.cur.sl.handler.isNone && s.cur.sl.badLoad.isSome)
  | none => false

/-- Where `t` follows by a word of `s`'s selected slice: its group counts as the one that issued last, in its own class
again (16, R277); an access slice as the one its AAE issued from last (07, R140). -/
def State.markIssued (s t : State) : State :=
  if t.cur = s.cur ∨ t.cur.g.id ≠ s.cur.g.id ∨ !s.issuesWord then t
  else if s.cur.sl.kind = .access then t.onSlice s.cur.g.id .access fun t => t.setSl fun x => { x with turn := s.tick }
  else t.setG fun g => { g with issued := s.tick, skipped := 0, boosted := false }

/-! ## The scheduler (16, R276, R277; 07, R140) -/

/-- The selected slice comes, within `n` steps that fetch, pass a header or a repeat word or take a trap, to a word that
issues: the flags of the header's WAIT are clear, the word is collectable and held back by nothing, what it waits for has
come. -/
noncomputable def State.comesToWord (s : State) : Nat → Bool
  | 0 => false
  | n + 1 => match s.issueNext with
    | .next u => u.cur != s.cur && (s.issuesWord || u.comesToWord n)
    | _ => true

/-- The next word of the slice of a group can issue (R276): a clause to fetch, a header, a repeat word, and as much of the
handler of a trap taken on the way may stand before it. -/
noncomputable def State.ready (s : State) (r : Resident) (k : SliceKind) : Bool :=
  let t := s.focus r.g.id k
  r.g.id != 0 && t.cur.sl.kind == k && t.comesToWord 8

/-- The group is on the quarter. -/
def State.onQuarter (s : State) (core quarter : Nat) (r : Resident) : Bool :=
  r.g.id != 0 && r.g.quarter == quarter && s.teamCore r.g.team == core

/-- A group is eligible (R276): on the quarter, not ended, its execute slice ready. -/
noncomputable def State.eligible (s : State) (core quarter : Nat) (r : Resident) : Bool :=
  s.onQuarter core quarter r && r.g.alive && s.ready r .execute

/-- The priority class (R277). -/
def Group.cls (g : Group) : Nat := if g.boosted then 3 else g.prio

/-- The first group comes before the second: a higher class, or in one class the one that issued less recently. -/
def Group.leads (h b : Group) : Bool := decide (b.cls < h.cls) || (h.cls == b.cls && decide (h.issued < b.issued))

/-- The group that comes before the others. -/
def bestGroup : List Group → Option Group
  | [] => none
  | h :: t =>
    match bestGroup t with
    | none => some h
    | some b => if b.leads h then some b else some h

/-- The access slice of a group. -/
def Resident.accessSlice (r : Resident) : Option Slice :=
  if r.sl.kind = .access then some r.sl else r.g.companion.filter fun x => x.kind == .access

/-- The access slice the AAE issued from least recently. -/
def nextAccess : List (Nat × Slice) → Option (Nat × Slice)
  | [] => none
  | h :: t =>
    match nextAccess t with
    | none => some h
    | some b => if b.2.turn < h.2.turn then some b else some h

/-- Another slice comes first: on the same quarter an eligible group that leads, on the same AAE a ready access slice whose
turn is earlier. -/
noncomputable def State.outranked (s : State) : Bool :=
  match s.cur.sl.kind with
  | .execute => s.others.any fun r =>
      r.g.leads s.cur.g && s.eligible s.coreNo s.cur.g.quarter r
  | .access => s.others.any fun r =>
      (r.accessSlice.any fun x => decide (x.turn < s.cur.sl.turn)) && s.teamCore r.g.team == s.coreNo && s.ready r .access
  | _ => false

/-- The eligible groups of a quarter that have been passed over count it; the others count from 0 again (R277). -/
noncomputable def State.passOver (s t : State) : State :=
  if s.cur.sl.kind ≠ .execute then t
  else s.others.foldl (fun t r =>
    if s.onQuarter s.coreNo s.cur.g.quarter r then
      t.modGroup r.g.id fun x => { x with skipped := if s.eligible s.coreNo s.cur.g.quarter r then x.skipped + 1 else 0 }
    else t) t

/-- A slice asked to stop whose word cannot issue stops there, the word not performed (20, R356, step 1). -/
def State.stopsHere (s : State) : State :=
  if s.cur.sl.stopped && !s.cur.sl.atRest then s.setSl fun x => { x with blocked := true } else s

/-- The selected slice goes on: a word issues unless another slice comes first; a fetch, a header and a repeat word issue
nothing, and no slice comes before another in them. -/
noncomputable def State.issue1 (s : State) : Host.Outcome State Fault Refusal :=
  if !s.issuesWord then s.issueNext
  else if s.outranked then .next s
  else
    match s.issueNext with
    | .next t => .next (if t.cur = s.cur then t.stopsHere else s.passOver (s.markIssued t))
    | .fault f => .fault f
    | .refused r => .refused r

/-- The next sequential clause is fetched while the current one issues (24, R392): its walks mark their entries (06, R101);
what cannot be fetched traps when the slice comes there. -/
def State.prefetch (s : State) : State :=
  if s.mayNotIssue then s
  else match s.cur.sl.clause with
    | none => s
    | some c => match s.fetchClause c.next with
      | .ok (_, _, ps) => if c.absent then s else s.markAll ps .fetch
      | .error _ => s

/-- A quarter's cycle: the chosen group's next word issues. -/
noncomputable def State.chooseOn (s : State) (core quarter : Nat) : Host.Outcome State Fault Refusal :=
  match bestGroup (((s.cur :: s.others).filter fun r => s.eligible core quarter r).map (·.g)) with
  | none => .next s
  | some g => (s.focus g.id .execute).issue1

/-- An AAE's cycle: the ready access slice whose turn it is issues. -/
noncomputable def State.chooseAae (s : State) (core : Nat) : Host.Outcome State Fault Refusal :=
  match nextAccess (((s.cur :: s.others).filter fun r => s.teamCore r.g.team == core && s.ready r .access).filterMap fun r =>
      r.accessSlice.map fun x => (r.g.id, x)) with
  | none => .next s
  | some (i, _) => (s.focus i .access).issue1

/-! ## Time (00, R3; 04, R70) -/

/-- Registers that a load word has yet to write (04, R70). -/
def Slice.loading (x : Slice) : Named :=
  x.ops.foldl (fun n o => match o.kind with
    | .load (.scal d) => { n with scal := d :: n.scal }
    | .load (.vec d) => { n with vec := d :: n.vec }
    | .load (.bcast d) => { n with vec := d :: n.vec }
    | _ => n) ⟨[], []⟩

/-- The selected slice cannot issue because it waits on a memory reply: on a flag of its header's WAIT, on the register of a
load, or on its word's own flag, which counts 63 (02, R15). -/
def State.awaitsMemory (s : State) : Bool :=
  s.cur.g.id != 0 && match s.cur.sl.clause with
    | none => false
    | some c =>
      if c.idx = 0 then
        s.cur.sl.ops.any fun o => o.isMemory && match o.flag with
          | some f => c.hdr.toNat / 2 ^ 12 % 2 ^ 12 / 2 ^ f % 2 == 1
          | none => false
      else s.cur.sl.wait.isNone && !isRptWord c.word.toNat && match stepWord c.cls s.cur.sl.rep c.word.toNat with
        | .ok w =>
          let n := s.named c.cls w
          let l := s.cur.sl.loading
          (n.scal.any fun r => l.scal.contains r) || (n.vec.any fun r => l.vec.contains r) ||
            match s.wordFlag c.cls w with
              | some f => !s.flagFree (some f) && s.cur.sl.ops.any fun o => o.isMemory && o.flag == some f
              | none => false
        | .error _ => false

/-- A group seen from its execute slice, where it has one. -/
def Resident.execSide (r : Resident) : Resident := if r.sl.kind = .access then r.swap else r

/-- Slices whose clause with YLD has ended take their place at the back. -/
def Slice.goBack (x : Slice) (tick : Nat) : Slice :=
  if x.yielded then { x with yielded := false, turn := if x.kind = .access then tick else x.turn } else x

def Resident.goBack (r : Resident) (tick : Nat) : Resident :=
  let y := fun x : Slice => x.yielded && x.kind != .access
  { g := { r.g with issued := if y r.sl || r.g.companion.any y then tick else r.g.issued
                    companion := r.g.companion.map (·.goBack tick) }
    sl := r.sl.goBack tick }

/-- Compute cycles pass: what has come completes the operations it belongs to; the cycle counter, latacc of the groups
that wait on memory; the next free value's number. -/
def State.past (s : State) : State :=
  let s := s.settle
  let n := BitVec.ofNat 64 (Config.cycles s.tick)
  let f := fun r : Resident =>
    let r := r.goBack s.tick
    if ({ s with cur := r.execSide } : State).awaitsMemory then { r with g := { r.g with latacc := r.g.latacc + n } } else r
  { s with cycle := s.cycle + n, tick := s.tick + 1, cur := f s.cur, others := s.others.map f }

/-! ## The environment's turns -/

/-- Entries a cache holds: 64 a quarter's, 2,048 a core's (06, R105). -/
def cacheSize (quarter : Option Nat) : Nat := if quarter.isSome then 64 else 2048

/-- What a walk finds, to be kept: the cause that ends it, or 0 with its leaf; the size as a power of two of what the entry at
its end covers; the entries passed.  None where it meets uncorrectable data. -/
def State.walkKept (s : State) (va : Nat) : List (Nat × Nat × Bool × Bool) → Nat → List Nat → Option (Nat × W64 × Nat × List Nat)
  | [], _, _ => none
  | (sh, cnt, may, must) :: rest, base, path =>
    let pa := s.ownRegion base + 8 * (va / 2 ^ sh % cnt)
    if !s.paValid pa then some (0x08, 0, sh, path)
    else if s.unreadable pa then none
    else
      let e := s.homeDword pa
      if !e.getLsbD 0 || !entryOk e then some (0x07, e, sh, path)
      else if e.getLsbD 1 then
        if !may || entryPfn e % 2 ^ sh != 0 then some (0x07, e, sh, path) else some (0, e, sh, path ++ [pa])
      else if must then some (0x07, e, sh, path)
      else s.walkKept va rest (entryPfn e) (path ++ [pa])

/-- A translation, as the tables give it now, kept in a core's cache or a quarter's (06, R104, R105). -/
def State.cacheFill (s : State) (core : Nat) (quarter : Option Nat) (ctx : Nat) (va : W64) : State :=
  match alFind s.ctxs ctx with
  | none => s
  | some c =>
    match s.walkKept va.toNat walkLevels (tableBase c.r.table) [] with
    | none => s
    | some (cause, e, sh, path) =>
      if (s.tlb.filter fun t => t.core == core && t.quarter == quarter).length < cacheSize quarter ∧ va.toNat < 2 ^ 56 then
        { s with tlb := s.tlb ++ [{ core := core, quarter := quarter, ctx := ctx, va := va.toNat / 2 ^ sh * 2 ^ sh, size := 2 ^ sh,
                                    cause := cause, leaf := e, path := path }] }
      else s

def State.cacheDrop (s : State) (core : Nat) (quarter : Option Nat) (ctx : Nat) (va : W64) : State :=
  { s with tlb := s.tlb.filter fun t => !(t.core == core && t.quarter == quarter && t.ctx == ctx && decide (t.va ≤ va.toNat) &&
                                          decide (va.toNat < t.va + t.size)) }

/-- An entry of the scope table as it stands at its home kept as one more copy (15, R265). -/
def State.scopeFill (s : State) (ctx n : Nat) : State :=
  match alFind s.ctxs ctx with
  | none => s
  | some c =>
    match s.keepRead ctx (c.r.scopeTab + BitVec.ofNat 64 (32 * n)) 4 with
    | some b =>
      let t := s.keepMark ctx (c.r.scopeTab + BitVec.ofNat 64 (32 * n)) 4
      { t with scopes := t.scopes ++ [⟨ctx, n, BitVec.ofNat 256 (leNat b)⟩] }
    | none => s

/-- An instruction word held for a launch since it was ready, before a later store changes it (02, R40). -/
def State.codeKeep (s : State) (tcb pa : Nat) : State :=
  match alFind s.tcbs tcb with
  | some t => if (t.st = .ready ∨ t.st = .running) ∧ pa % 4 = 0 then { s with icache := s.icache ++ [(tcb, pa, s.homeWord pa)] } else s
  | none => s

/-- A byte on its way to a scratchpad arrives before the others (02, R18). -/
def State.spadByte (s : State) (core q k : Nat) : State :=
  match (s.core core).queue q with
  | [] => s
  | o :: _ => match o.out[k]? with
    | none => s
    | some b => (s.land [b]).modHead core q fun o => { o with out := o.out.eraseIdx k }

def State.tileByte (s : State) (stream k : Nat) : State :=
  match (s.streams.find? fun x => x.id == stream).bind fun x => x.out.bind fun l => l[k]? with
  | none => s
  | some b => (s.land [b]).modStream stream fun x => { x with out := x.out.map fun l => l.eraseIdx k }

/-- One turn of the agenda. -/
noncomputable def State.takeTurn (s : State) (t : Turn) : Host.Outcome State Fault Refusal :=
  match t with
  | .select g k => .next (s.focus g k)
  | .choose c q => s.chooseOn c q
  | .event i => if i.hasWord then .next s else exec i s
  | .aae c => s.chooseAae c
  | .cacheFill c q x va => .next (s.cacheFill c q x va)
  | .cacheDrop c q x va => .next (s.cacheDrop c q x va)
  | .scopeFill x n => .next (s.scopeFill x n)
  | .codeKeep i pa => .next (s.codeKeep i pa)
  | .hostSpan b n => .next { s with hostSpan := (b, n) }
  | .spadByte c q k => .next (s.spadByte c q k)
  | .badCommand g o => s.command g (.bad o)
  | .command => .next s.nextCommand
  | .goodFlit p => .next (s.goodFlit p)
  | .prefetch => .next s.prefetch
  | .mirrorReplay c q pa => .next (s.mirrorReplay c q pa)
  | .tileByte x k => .next (s.tileByte x k)
  | .issue => s.issue1
  | .pass => .next s

/-- The step: time passes; then the agenda's first turn is taken, or, with none, a package that has not come up is brought
up (22, R386) and one that has lets the selected slice issue. -/
noncomputable def State.stepOn (s : State) : Host.Outcome State Fault Refusal :=
  match s.agenda with
  | t :: rest => State.takeTurn { s.past with agenda := rest } t
  | [] => if s.kstate = 0 then exec (.bringUp none) s.past else s.past.issue1

/-! ## Placing an instruction -/

/-- A clause in the buffer of the selected slice of a running package. -/
def State.withClause (s : State) (hdr : W32) (words : List W32) (idx : Nat) : State :=
  { s with
    kstate := 1, agenda := []
    cur := { s.cur with sl := { s.cur.sl with
      clause := some { addr := 0, hdr := hdr, words := words, idx := idx, exec := BitVec.allOnes 32 }, wait := none, rep := none } } }

/-- The header that stands before one word of a class: CNT 1, no WAIT, no flag. -/
def plainHeader (cls : Nat) : W32 := BitVec.ofNat 32 (cls * 2 ^ 28 + 2 ^ 24 + 0xFF0)

/-- The bits of a table row placed as the next thing that issues: a header with words of zeros, or a word in a clause of
its class. -/
noncomputable def State.withTableWord (s : State) (nbits w : Nat) : State :=
  let w0 : W32 := BitVec.ofNat 32 w
  let zeros := fun n => List.replicate n (0 : W32)
  match tableWord nbits w with
  | some (14, _) => s.withClause w0 (zeros (w / 2 ^ 24 % 16)) 0
  | some (cls, _) =>
    if nbits ≤ 32 then s.withClause (plainHeader cls) [w0] 1
    else s.withClause w0 (BitVec.ofNat 32 (w / 2 ^ 32) :: zeros (w / 2 ^ 24 % 16 - 1)) 1
  | none => s.withClause w0 (zeros (w / 2 ^ 24 % 16)) 0

end Sys2Proof.Machine
end

