-- ==== Sys2Proof/Machine/Step.lean ====
section
/-! DEFINITION. The step. -/

namespace Sys2Proof.Machine

/-- One step of the package. -/
noncomputable def step (s : State) : Host.Outcome State Fault Refusal := s.stepOn

/-- The state with the bits of a row of the opcode table placed where the next step takes its instruction: in the clause
buffer of the selected slice, as the clause of which it is the next word (16; log 19). -/
noncomputable def State.withFetchWord (s : State) (nbits w : Nat) : State := s.withTableWord nbits w

end Sys2Proof.Machine
end

