-- ==== Sys2Proof/Safety.lean ====
section
/-! DEFINITION. What counts as a safe run, and the words that claims about a step are stated in. -/

namespace Sys2Proof.Machine

/-- Every agent's view of memory is in canonical form. -/
def Views.wf (v : Views) : Bool := memWf v.d0 && memWf v.d1 && memWf v.d2 && memWf v.d3 && memWf v.h

/-- The machine goes on: no fault and no refusal. -/
def GoesOn {σ φ ρ : Type} (o : Host.Outcome σ φ ρ) : Prop := ∃ t, o = .next t

/-- A run of `k` steps that never stops. -/
def State.safeFor (s : State) : Nat → Prop
  | 0 => True
  | k + 1 => ∃ t, step s = .next t ∧ t.safeFor k

/-- Every byte reads the same for every agent. -/
def SameBytes (s t : State) : Prop := ∀ e a, readByte (t.views.get e) a = readByte (s.views.get e) a

/-- Nothing outside the selected group changed: memory, teams, frames, launches, cores, the other groups. -/
def OutsideSame (s t : State) : Prop := t = { s with cur := t.cur }

/-- The scalar registers but those that `d` names hold what they held. -/
def RegsSame (s t : State) (d : Nat → Bool) : Prop := ∀ n, d n = false → t.rd n = s.rd n

/-- The vector names but those that `d` names hold what they held. -/
def NamesSame (s t : State) (d : Nat → Bool) : Prop := ∀ n, d n = false → t.cur.g.name n = s.cur.g.name n

/-- Of the slice only its scalar registers, its place in the code, the mark of a clause with YLD that has ended and, in handler
mode, the handler's PC may differ:
flags, outstanding operations, own writes, the recorded trap, a wait and the rest are the same. -/
def SliceSame (s t : State) : Prop :=
  t.cur.sl = { s.cur.sl with s := t.cur.sl.s, pc := t.cur.sl.pc, clause := t.cur.sl.clause, rep := t.cur.sl.rep,
                             only := t.cur.sl.only, handler := t.cur.sl.handler, yielded := t.cur.sl.yielded } ∧
  (t.cur.sl.handler.map fun h => { h with pc := 0 }) = s.cur.sl.handler.map fun h => { h with pc := 0 }

/-- Of the group only the lane PCs and park bits may differ: registers, sticky flags, queues, display, accumulators. -/
def GroupSame (s t : State) : Prop := t.cur.g = { s.cur.g with pcv := t.cur.g.pcv, park := t.cur.g.park }

/-- Of the group only its vector names, latches, lane PCs and park bits may differ. -/
def GroupSameButNames (s t : State) : Prop :=
  t.cur.g = { s.cur.g with v := t.cur.g.v, latchA := t.cur.g.latchA, latchB := t.cur.g.latchB, alatch := t.cur.g.alatch, pcv := t.cur.g.pcv,
                           park := t.cur.g.park }

end Sys2Proof.Machine
end

