-- ==== Sys2Proof/Certificates/Slice0/Obligations.lean ====
section
/-! DEFINITION. The statements for the provers. -/

open Sys2Proof Sys2Proof.Machine

/-! ## Encoding (02) -/

/-- O1. A few words, each written out from the spec's encoding of it, decode to the instruction they stand for. -/
def Obligations.DecodeOfWords : Prop :=
  decodeHeader 0x24000FF0#32 = .ok (.clauseHeader 2 4 0 15 15 0) ∧
  decodeWord 1 0x10140C07#32 = .ok (.sub 5 6 7) ∧
  decodeWord 2 0x38100803#32 = .ok (.sari 4 4 3) ∧
  decodeWord 2 0x60280000#32 = .ok (.movi 10 0) ∧
  decodeWord 2 0x6828FFF0#32 = .ok (.movhi 10 0xFFF0) ∧
  decodeWord 0 0x02000000#32 = .ok (.bra 0) ∧
  decodeWord 0 0x1E090005#32 = .error .illegalWord

/-- O2. Decode and encode agree: every well-formed instruction of a class, with every operand at every value, is read back
from its word in that class; the repeat word in every class; the header as a header. -/
def Obligations.DecodeOfEncode : Prop :=
  (∀ (i : Instr) (c : Nat), i.cls = some c → i.wf = true → decodeWord c (BitVec.ofNat 32 (encode i)) = .ok i) ∧
  (∀ (n : BitVec 6) (d a b : BitVec 4) (c : Nat), c < 14 →
    decodeWord c (BitVec.ofNat 32 (encode (.rpt n d a b))) = .ok (.rpt n d a b)) ∧
  ∀ (c n : BitVec 4) (w : BitVec 12) (a b : BitVec 4) (y : BitVec 1), (Instr.clauseHeader c n w a b y).wf = true →
    decodeHeader (BitVec.ofNat 32 (encode (.clauseHeader c n w a b y))) = .ok (.clauseHeader c n w a b y)

/-- O3. No two words of a class stand for one instruction and no reserved bit is dropped: a word that decodes is the word of
the instruction it decodes to, which is well-formed and of that class (or the repeat word). -/
def Obligations.EncodeOfDecode : Prop :=
  (∀ (c : Nat) (w : W32) (i : Instr), decodeWord c w = .ok i →
    encode i = w.toNat ∧ i.wf = true ∧ (i.cls = some c ∨ ∃ n d a b, i = .rpt n d a b)) ∧
  ∀ (w : W32) (i : Instr), decodeHeader w = .ok i → encode i = w.toNat ∧ i.wf = true ∧
    ∃ c n k a b y, i = .clauseHeader c n k a b y

/-! ## The step -/

/-- The selected slice may take a step of its own: nothing holds it, and no deferred trap comes first. -/
def Sys2Proof.Claims.goes (s : State) : Prop :=
  s.mayNotIssue = false ∧ (s.cur.sl.wait.isSome = true ∨ s.cur.sl.handler.isSome = true ∨ s.cur.sl.badLoad = none)

/-- What the step adds around a word: a word that moved its slice or group counts as an issue, and the groups passed over
on its quarter count it; a slice asked to stop whose word did not move stops there (R356). -/
noncomputable def Sys2Proof.Claims.counted (s : State) (o : Host.Outcome State Fault Refusal) : Host.Outcome State Fault Refusal :=
  match o with
  | .next t => .next (if t.cur = s.cur then t.stopsHere else s.passOver (s.markIssued t))
  | o => o

/-- A step runs the decoded instruction.  With no turn before it and the package up, time passes and the word at the position
of the clause runs: the header at index 0, a repeat word, which issues nothing (R32), and at a later index the instruction
that the word, stepped by its repeat, decodes to in the clause's class, unless another slice comes first or a register it
names is still to be written, when the step leaves the slice where it is. -/
def Sys2Proof.Claims.StepRunsWord : Prop :=
  ∀ (s : State) (c : Clause), s.agenda = [] → s.kstate ≠ 0 → Claims.goes s.past → s.past.cur.sl.clause = some c → c.absent = false →
    (c.idx = 0 → ∀ i, decodeHeader c.hdr = .ok i → step s = exec i s.past) ∧
    (c.idx ≠ 0 → isRptWord c.word.toNat = true → ∀ n d a b, decodeWord c.cls c.word = .ok (.rpt n d a b) →
      c.rptOk d a b = true → step s = exec (.rpt n d a b) s.past) ∧
    (c.idx ≠ 0 → isRptWord c.word.toNat = false → ∀ (j i : Instr) (w : Nat), decodeWord c.cls c.word = .ok j →
      stepWord c.cls s.past.cur.sl.rep c.word.toNat = .ok w → decodeWord c.cls (BitVec.ofNat 32 w) = .ok i →
      (s.past.cur.sl.scalar = true → scalarOp c.cls (wordOp c.cls w) = true) →
      step s = if s.past.outranked then .next s.past
        else if s.past.cur.sl.wait.isNone && s.past.interlocked c.cls w then .next s.past.stopsHere
        else Claims.counted s.past (exec i s.past))

/-- A turn of the environment that is an agent's step is exec of it on the state in which time has passed. -/
def Sys2Proof.Claims.StepTakesEvent : Prop :=
  ∀ (s : State) (i : Instr) (r : List Turn), s.agenda = .event i :: r → i.hasWord = false →
    step s = exec i { s.past with agenda := r }

/-- O4. A step runs the decoded instruction, and a turn of the environment that is an agent's step is exec of it. -/
def Obligations.StepRunsDecoded : Prop := Claims.StepRunsWord ∧ Claims.StepTakesEvent

/-- O5. The machine never stops: an illegal word, a misaligned or unmapped address, a refused command, an error of the
storage all lead to a next state. -/
def Obligations.NeverStops : Prop := (∀ i s, ∃ t, exec i s = .next t) ∧ ∀ s, ∃ t, step s = .next t

/-- O6. Every step keeps the canonical form of every agent's memory. -/
def Obligations.StepKeepsMemoryForm : Prop :=
  ∀ s t : State, s.views.wf = true → step s = .next t → t.views.wf = true

/-- O7. Right after reset bring-up has not run: the boot ROM holds the package, no group is resident and every lane of the
selected one has exited, no context is defined, every control block is free, no write is on its way; every agent's memory is
in canonical form. -/
def Obligations.ResetState : Prop :=
  State.reset.views.wf = true ∧ State.reset.kstate = 0 ∧ State.reset.cur.g.id = 0 ∧ State.reset.others = [] ∧
  (∀ l, l < 32 → lane State.reset.cur.g.pcv l = ones64) ∧ State.reset.ctxs = [] ∧ (∀ i, alFind State.reset.tcbs i = none) ∧
  State.reset.teams = [] ∧ State.reset.writes = [] ∧ (∀ e, State.reset.clock e = Stamp.zero) ∧
  ∀ n, State.reset.rd n = 0

/-! ## Scalar words (10) -/

/-- The value that a SALU or SIMM word gives its register, as the tables of R190, R191, R192 and R193 state it. -/
def Sys2Proof.Claims.scalarResult (s : State) : Instr → Option (BitVec 9 × W64)
  | .add d a b => some (d, .ofNat 64 ((s.rd a.toNat).toNat + (s.rd b.toNat).toNat))
  | .sub d a b => some (d, .ofInt 64 ((s.rd a.toNat).toInt - (s.rd b.toNat).toInt))
  | .mul d a b => some (d, .ofNat 64 ((s.rd a.toNat).toNat * (s.rd b.toNat).toNat))
  | .mulh d a b => some (d, .ofInt 64 ((s.rd a.toNat).toInt * (s.rd b.toNat).toInt / 2 ^ 64))
  | .mulhu d a b => some (d, .ofNat 64 ((s.rd a.toNat).toNat * (s.rd b.toNat).toNat / 2 ^ 64))
  | .div d a b => some (d, if s.rd b.toNat = 0 then .ofInt 64 (-1) else .ofInt 64 ((s.rd a.toNat).toInt.tdiv (s.rd b.toNat).toInt))
  | .divu d a b => some (d, if s.rd b.toNat = 0 then .ofInt 64 (-1) else .ofNat 64 ((s.rd a.toNat).toNat / (s.rd b.toNat).toNat))
  | .rem d a b => some (d, if s.rd b.toNat = 0 then s.rd a.toNat
      else .ofInt 64 ((s.rd a.toNat).toInt - (s.rd a.toNat).toInt.tdiv (s.rd b.toNat).toInt * (s.rd b.toNat).toInt))
  | .remu d a b => some (d, if s.rd b.toNat = 0 then s.rd a.toNat else .ofNat 64 ((s.rd a.toNat).toNat % (s.rd b.toNat).toNat))
  | .and d a b => some (d, s.rd a.toNat &&& s.rd b.toNat)
  | .or d a b => some (d, s.rd a.toNat ||| s.rd b.toNat)
  | .xor d a b => some (d, s.rd a.toNat ^^^ s.rd b.toNat)
  | .andn d a b => some (d, s.rd a.toNat &&& ~~~(s.rd b.toNat))
  | .shl d a b => some (d, .ofNat 64 ((s.rd a.toNat).toNat * 2 ^ ((s.rd b.toNat).toNat % 256)))
  | .shr d a b => some (d, .ofNat 64 ((s.rd a.toNat).toNat / 2 ^ ((s.rd b.toNat).toNat % 256)))
  | .sar d a b => some (d, .ofInt 64 ((s.rd a.toNat).toInt / 2 ^ ((s.rd b.toNat).toNat % 256)))
  | .rot d a b => some (d, (s.rd a.toNat).rotateLeft ((s.rd b.toNat).toNat % 64))
  | .min d a b => some (d, if (s.rd a.toNat).toInt ≤ (s.rd b.toNat).toInt then s.rd a.toNat else s.rd b.toNat)
  | .max d a b => some (d, if (s.rd a.toNat).toInt ≤ (s.rd b.toNat).toInt then s.rd b.toNat else s.rd a.toNat)
  | .minu d a b => some (d, if (s.rd a.toNat).toNat ≤ (s.rd b.toNat).toNat then s.rd a.toNat else s.rd b.toNat)
  | .maxu d a b => some (d, if (s.rd a.toNat).toNat ≤ (s.rd b.toNat).toNat then s.rd b.toNat else s.rd a.toNat)
  | .slt d a b => some (d, if (s.rd a.toNat).toInt < (s.rd b.toNat).toInt then 1 else 0)
  | .sltu d a b => some (d, if (s.rd a.toNat).toNat < (s.rd b.toNat).toNat then 1 else 0)
  | .seq d a b => some (d, if s.rd a.toNat = s.rd b.toNat then 1 else 0)
  | .sel d a b => some (d, if s.rd d.toNat ≠ 0 then s.rd a.toNat else s.rd b.toNat)
  | .addi d a i => some (d, .ofInt 64 ((s.rd a.toNat).toInt + i.toInt))
  | .andi d a i => some (d, s.rd a.toNat &&& i.signExtend 64)
  | .ori d a i => some (d, s.rd a.toNat ||| i.signExtend 64)
  | .xori d a i => some (d, s.rd a.toNat ^^^ i.signExtend 64)
  | .shli d a i => some (d, .ofNat 64 ((s.rd a.toNat).toNat * 2 ^ (i.toNat % 256)))
  | .shri d a i => some (d, .ofNat 64 ((s.rd a.toNat).toNat / 2 ^ (i.toNat % 256)))
  | .sari d a i => some (d, .ofInt 64 ((s.rd a.toNat).toInt / 2 ^ (i.toNat % 256)))
  | .slti d a i => some (d, if (s.rd a.toNat).toInt < i.toInt then 1 else 0)
  | .sltui d a i => some (d, if (s.rd a.toNat).toNat < (i.signExtend 64).toNat then 1 else 0)
  | .seqi d a i => some (d, if (s.rd a.toNat).toInt = i.toInt then 1 else 0)
  | .muli d a i => some (d, .ofInt 64 ((s.rd a.toNat).toInt * i.toInt))
  | .movi d i => some (d, .ofInt 64 i.toInt)
  | .movhi d i => some (d, .ofNat 64 ((s.rd d.toNat).toNat * 2 ^ 18 + i.toNat))
  | .ldpc d i => some (d, .ofInt 64 ((s.clauseAddr).toNat + 4 * i.toInt))
  | _ => none

/-- A register that belongs to trap handling while a handler is installed (R345): s496 to s510 outside handler mode. -/
def Sys2Proof.Claims.trapRegister (s : State) (n : Nat) : Prop :=
  496 ≤ n ∧ n ≤ 510 ∧ s.cur.sl.handler = none ∧ ∃ c, s.ctx? = some c ∧ c.r.trapTab ≠ 0

/-- The frame of a word that writes one scalar register: nothing outside the group, of the group only the lanes' place in
the code, of the slice only that register and its place in the code; every byte of memory reads as before. -/
def Sys2Proof.Claims.ScalarFrame (s t : State) (d : Nat) : Prop :=
  OutsideSame s t ∧ GroupSame s t ∧ SliceSame s t ∧ RegsSame s t (· == d) ∧ SameBytes s t

/-- The SALU and SIMM words, clz, ctz and popc apart: the register takes the value of the tables, s0 discards it, the
position advances, and nothing else changes; a destination that belongs to trap handling takes cause 0x03 instead. -/
def Sys2Proof.Claims.ScalarTable : Prop :=
  ∀ (i : Instr) (s : State) (d : BitVec 9) (v : W64), Claims.scalarResult s i = some (d, v) →
    (¬Claims.trapRegister s d.toNat → ∃ t, exec i s = .next t ∧ t.rd d.toNat = (if d = 0 then 0 else v) ∧
      t = (s.wr d.toNat v).advance ∧ Claims.ScalarFrame s t d.toNat) ∧
    (Claims.trapRegister s d.toNat → exec i s = .next (s.trap 0x03 s.exec' (.ofNat 64 d.toNat)))

/-- clz, ctz and popc: the number of zero bits above the highest one bit, below the lowest one bit, and of one bits. -/
def Sys2Proof.Claims.BitCounts : Prop :=
  ∀ (s : State) (d a : BitVec 9), ¬Claims.trapRegister s d.toNat →
    (∃ n : Nat, n ≤ 64 ∧ exec (.clz d a) s = .next (s.wr d.toNat (.ofNat 64 n)).advance ∧
      (∀ k, 64 - n ≤ k → (s.rd a.toNat).getLsbD k = false) ∧ (n < 64 → (s.rd a.toNat).getLsbD (63 - n) = true)) ∧
    (∃ n : Nat, n ≤ 64 ∧ exec (.ctz d a) s = .next (s.wr d.toNat (.ofNat 64 n)).advance ∧
      (∀ k, k < n → (s.rd a.toNat).getLsbD k = false) ∧ (n < 64 → (s.rd a.toNat).getLsbD n = true)) ∧
    exec (.popc d a) s =
      .next (s.wr d.toNat (.ofNat 64 ((List.range 64).filter fun k => (s.rd a.toNat).getLsbD k).length)).advance

/-- O8. The SALU and SIMM words: registers, values, trap destinations, bit counts. -/
def Obligations.ScalarResults : Prop := Claims.ScalarTable ∧ Claims.BitCounts

/-! ## Clauses and control flow (02, 16) -/

/-- O9. A clause header of a class that the stream allows: the first word comes next when every flag named in WAIT is clear,
and the group waits, unchanged, while one is not; a header with an illegal field, or of a class outside the stream's profile
(R20), takes cause 0x01. -/
def Obligations.HeaderTestsWait : Prop :=
  ∀ (c n : BitVec 4) (w : BitVec 12) (a b : BitVec 4) (y : BitVec 1) (s : State),
    let i := Instr.clauseHeader c n w a b y
    (i.wf = true → s.cur.sl.kind.allows c.toNat = true →
      ((∀ f, f < 12 → w.getLsbD f = true → kvGet 0 s.cur.sl.flags f = 0) → ∃ t, exec i s = .next t ∧
        t = s.setSl (fun x => { x with clause := x.clause.map fun k => { k with idx := 1 } })) ∧
      ((∃ f, f < 12 ∧ w.getLsbD f = true ∧ kvGet 0 s.cur.sl.flags f ≠ 0) → exec i s = .next s)) ∧
    (i.wf = false ∨ s.cur.sl.kind.allows c.toNat = false → exec i s = .next (s.trap 0x01 s.exec' s.wordAux))

/-- O10. A repeat word issues nothing itself: the next word issues CNT6 + 1 times, issue k with each register field at its
encoded value plus k times its signed step, and a field that leaves its range stops that issue. -/
def Obligations.RepeatSteps : Prop :=
  (∀ (n : BitVec 6) (d a b : BitVec 4) (s : State) (c : Clause), s.cur.sl.clause = some c →
    exec (.rpt n d a b) s = .next (s.setSl fun x => { x with
      clause := some { c with idx := c.idx + 1 }
      rep := some { k := 0, n := n.toNat + 1, d := d.toInt, a := a.toInt, b := b.toInt } })) ∧
  (∀ (s : State) (c : Clause) (p : Rep), s.cur.sl.clause = some c → s.cur.sl.rep = some p → p.k + 1 < p.n →
    s.advance = s.setSl fun x => { x with only := none, rep := some { p with k := p.k + 1 } }) ∧
  ∀ (f : FieldAt) (k w : Nat) (st : Int),
    stepField (some f) k st w = if 0 ≤ (f.get w : Int) + k * st ∧ (f.get w : Int) + k * st < 2 ^ f.width
      then .ok (f.put w ((f.get w : Int) + k * st).toNat) else .error ((f.get w : Int) + k * st)

/-- The place where the word sends the slice: in a group's own stream each lane of EXEC to the address that `f` gives it,
the others staying; in handler mode the handler's PC; in a scalar-profile stream its PC. -/
def Sys2Proof.Claims.Goes (s t : State) (f : Nat → W64) : Prop :=
  t.cur.sl.clause = none ∧ t.cur.sl.rep = none ∧
  match s.cur.sl.handler with
  | some h => t.cur.sl.handler = some { h with pc := f ((lanesOf s.exec').headD 0) } ∧ t.cur.g.pcv = s.cur.g.pcv ∧
      t.cur.g.park = s.cur.g.park
  | none => t.cur.sl.handler = none ∧
    if s.cur.sl.kind = .execute then
      ∀ l, l < 32 → lane t.cur.g.pcv l = if inMask s.exec' l then f l else lane s.cur.g.pcv l
    else t.cur.sl.pc = f 0

/-- The word is the last of its clause. -/
def Sys2Proof.Claims.atEnd (s : State) : Prop := ∃ c, s.cur.sl.clause = some c ∧ c.idx = c.cnt

/-- A call, which writes s511. -/
def Sys2Proof.Claims.calls : Instr → Bool
  | .call _ => true
  | .callr _ => true
  | _ => false

/-- O11. The scalar branches, calls and ret, last in their clause: the slice goes to the target, or to the next clause N
where the condition fails, with P the address of the word; a call leaves N in s511; nothing else changes. -/
def Obligations.ScalarBranches : Prop :=
  ∀ s : State, Claims.atEnd s → ∀ (i : Instr) (taken : Bool) (dest : W64),
    (match i with
      | .bra o => taken = true ∧ dest = s.cur.wordAddr + 4 * o.signExtend 64
      | .bz a o => taken = (s.rd a.toNat == 0) ∧ dest = s.cur.wordAddr + 4 * o.signExtend 64
      | .bnz a o => taken = (s.rd a.toNat != 0) ∧ dest = s.cur.wordAddr + 4 * o.signExtend 64
      | .bneg a o => taken = (s.rd a.toNat).getLsbD 63 ∧ dest = s.cur.wordAddr + 4 * o.signExtend 64
      | .bnneg a o => taken = !(s.rd a.toNat).getLsbD 63 ∧ dest = s.cur.wordAddr + 4 * o.signExtend 64
      | .jmpr a o => taken = true ∧ dest = s.rd a.toNat + 4 * o.signExtend 64 ∧ dest.toNat % 4 = 0
      | .call o => taken = true ∧ dest = s.cur.wordAddr + 4 * o.signExtend 64
      | .callr a => taken = true ∧ dest = s.rd a.toNat ∧ dest.toNat % 4 = 0
      | .ret => taken = true ∧ dest = s.rd 511 ∧ dest.toNat % 4 = 0
      | _ => False) →
    ∃ t, exec i s = .next t ∧ Claims.Goes s t (fun _ => if taken then dest else s.cur.nextAddr) ∧
      (∀ n, t.rd n = if n = 511 ∧ Claims.calls i = true then s.cur.nextAddr else s.rd n) ∧
      OutsideSame s t ∧ GroupSame s t ∧ SliceSame s t ∧ SameBytes s t

/-- O12. bvz and bvnz decide lane by lane, or in handler mode once, where the condition holds in every recorded lane or in
none; the source is read (and popped where it is a queue) and freed by LA.  In handler mode a condition that holds in some
recorded lanes only takes cause 0x02. -/
def Obligations.LaneBranches : Prop :=
  ∀ (s : State) (a : BitVec 7) (x : BitVec 1) (o : BitVec 17) (v : Lanes) (g : Group) (z : Bool), Claims.atEnd s →
    s.cur.sl.kind = .execute → s.sources [⟨a.toNat, x == 1⟩] none = .ok ([v], g) →
    let i := if z then Instr.bvz a x o else .bvnz a x o
    let holds := fun l => (lane v l == 0) == z
    let one := (∀ l ∈ lanesOf s.exec', holds l = true) ∨ ∀ l ∈ lanesOf s.exec', holds l = false
    (s.cur.sl.handler = none ∨ one → ∃ t, exec i s = .next t ∧ t.cur.g.v = g.v ∧ (∀ n, t.rd n = s.rd n) ∧ OutsideSame s t ∧
      SliceSame s t ∧ GroupSameButNames s t ∧ SameBytes s t ∧
      (s.cur.sl.handler = none ∨ s.exec' ≠ 0 → Claims.Goes s t fun l =>
        if holds l then s.cur.wordAddr + 4 * o.signExtend 64 else s.cur.nextAddr)) ∧
    (s.cur.sl.handler.isSome = true → ¬one → exec i s = .next (s.trap 0x02 s.exec' s.wordAux))

/-- O13. The lane state words, last in their clause and outside handler mode.  vpark parks every lane of EXEC at N, exempt
from the rejoin test of this clause end, unless no lane is left active; yield sends them to N and the group counts as having
issued last, an access slice as the last of its AAE's turn; exit sends them to all ones, and in a scalar-profile stream ends
the slice once the releases of the frames it gives up are done. -/
def Obligations.LaneStateWords : Prop :=
  ∀ s : State, Claims.atEnd s → s.cur.sl.handler = none →
    (s.cur.sl.kind = .execute → ∃ t, exec .vpark s = .next t ∧ Claims.Goes s t (fun _ => s.cur.nextAddr) ∧
      (∀ n, t.rd n = s.rd n) ∧ OutsideSame s t ∧ GroupSame s t ∧ SliceSame s t ∧ SameBytes s t ∧
      (activeMask t.cur.g.pcv (s.cur.g.park ||| s.exec') ≠ 0 → ∀ l, l < 32 → inMask s.exec' l = true →
        inMask t.cur.g.park l = true) ∧
      (activeMask t.cur.g.pcv (s.cur.g.park ||| s.exec') = 0 → t.cur.g.park = 0)) ∧
    (∃ t, exec .yield s = .next t ∧ Claims.Goes s t (fun _ => s.cur.nextAddr) ∧ (∀ n, t.rd n = s.rd n) ∧ OutsideSame s t ∧
      SameBytes s t ∧ if s.cur.sl.kind = .access then GroupSame s t ∧ SliceSame (s.setSl fun x => { x with turn := s.tick }) t
        else SliceSame s t ∧ t.cur.g = { s.cur.g with pcv := t.cur.g.pcv, park := t.cur.g.park, issued := s.tick }) ∧
    (s.cur.sl.kind = .execute → ∃ t, exec .exit s = .next t ∧ Claims.Goes s t (fun _ => ones64) ∧ ∀ n, t.rd n = s.rd n) ∧
    (s.cur.sl.scalar = true → s.mayGiveUp s.axdFrames = true → ∃ t, exec .exit s = .next t ∧ t.cur.sl.ended = true ∧
      t.cur.sl.pc = ones64 ∧ t.cur.sl.clause = none ∧ ∀ n, t.rd n = s.rd n)

/-- O14. A branch-type word that is not the last of its clause takes cause 0x02 at that word; a register target that is no
multiple of 4 takes cause 0x09 with the target. -/
def Obligations.BranchTraps : Prop :=
  ∀ (s : State) (c : Clause), s.cur.sl.clause = some c →
    (c.idx ≠ c.cnt → ∀ i : Instr, (match i with
        | .bra _ => True
        | .bz _ _ => True
        | .bnz _ _ => True
        | .bneg _ _ => True
        | .bnneg _ _ => True
        | .bvz _ _ _ => True
        | .bvnz _ _ _ => True
        | .call _ => True
        | .callr _ => True
        | .jmpr _ _ => True
        | .ret => True
        | .exit => True
        | .vpark => True
        | .yield => True
        | .rfe => True
        | _ => False) → exec i s = .next (s.trap 0x02 s.exec' s.wordAux)) ∧
    (c.idx = c.cnt →
      (∀ a : BitVec 9, (s.rd a.toNat).toNat % 4 ≠ 0 → exec (.callr a) s = .next (s.trap 0x09 s.exec' (s.rd a.toNat))) ∧
      (∀ (a : BitVec 9) (o : BitVec 16), (s.rd a.toNat + 4 * o.signExtend 64).toNat % 4 ≠ 0 →
        exec (.jmpr a o) s = .next (s.trap 0x09 s.exec' (s.rd a.toNat + 4 * o.signExtend 64))) ∧
      ((s.rd 511).toNat % 4 ≠ 0 → exec .ret s = .next (s.trap 0x09 s.exec' (s.rd 511))))

/-! ## Exceptions (16, 20) -/

/-- O15. A software trap and a breakpoint, at any word, take their exceptions: cause 0x11 with IMM7 × 2^56 + S[SA][55:0],
cause 0x12 with 0, with EXEC; on return, with s506 and s507 as they were reported, the group goes on at the following word,
or at the next clause after the last. -/
def Obligations.SoftwareTraps : Prop :=
  (∀ (s : State) (a : BitVec 9) (i : BitVec 7),
    exec (.trap a i) s = .next (s.trap 0x11 s.exec' (.ofNat 64 (i.toNat * 2 ^ 56 + (s.rd a.toNat).toNat % 2 ^ 56))) ∧
    exec .brk s = .next (s.trap 0x12 s.exec' 0)) ∧
  ∀ (s : State) (c : Clause) (h : Handler) (hd : W32) ws ps, s.cur.sl.clause = some c → c.idx = c.cnt →
    s.cur.sl.handler = some h → h.cause = 0x11 ∨ h.cause = 0x12 → h.load = none → s.cur.sl.kind = .execute →
    s.rd 506 = h.clause → (s.rd 507).toNat = h.word → h.word ≠ 0 → s.fetchClause h.clause = .ok (hd, ws, ps) →
    ({ addr := h.clause, hdr := hd, words := ws, idx := h.word, exec := h.exec } : Clause).legal .execute = true →
    let cnt := hd.toNat / 2 ^ 24 % 16
    (h.word < cnt → ∃ t, exec .rfe s = .next t ∧ t.cur.sl.handler = none ∧
      t.cur.sl.clause = some { addr := h.clause, hdr := hd, words := ws, idx := h.word + 1, exec := h.exec }) ∧
    (h.word = cnt → ∃ t, exec .rfe s = .next t ∧ t.cur.sl.handler = none ∧ t.cur.sl.clause = none ∧
      ∀ l, l < 32 → lane t.cur.g.pcv l =
        if inMask h.exec l then h.clause + .ofNat 64 (4 * (cnt + 1)) else lane s.cur.g.pcv l)

/-- A trap with a handler, outside handler mode: the state is next, s504 to s510 hold what R345 says (s508 the lanes reported,
of a word that runs again in some lanes those of them in which it does, R88), s511 and every
register below s504 are as they were, EXEC and the place are recorded, the handler PC is the table's entry, the other lanes
keep their PCs and park bits, and no byte of memory and no other group changes, but for the A bit of the table's leaf. -/
def Sys2Proof.Claims.EntryState : Prop :=
  ∀ (s : State) (c : Clause) (cause : Nat) (m : Mask) (aux e : W64), s.cur.sl.clause = some c → s.cur.sl.handler = none →
    s.handlerFor cause = some e →
    let t := s.trap cause m aux
    t.rd 504 = (if cause = 0x0A then c.addr + .ofNat 64 (4 * c.idx) else 0) ∧ t.rd 505 = .ofNat 64 cause ∧ t.rd 506 = c.addr ∧
    t.rd 507 = .ofNat 64 c.idx ∧ t.rd 508 = (match s.cur.sl.only with
      | some k => m &&& k
      | none => m).setWidth 64 ∧ t.rd 509 = aux ∧ t.rd 510 = s.rd 511 ∧
    (∀ n, n < 504 ∨ 510 < n → t.rd n = s.rd n) ∧
    (∃ h, t.cur.sl.handler = some h ∧ h.cause = cause ∧ h.exec = c.exec ∧ h.pc = e ∧ h.clause = c.addr ∧ h.word = c.idx ∧
      h.rep = s.cur.sl.rep) ∧
    t.cur.g.pcv = s.cur.g.pcv ∧ t.cur.g.park = s.cur.g.park ∧ t.others = s.others ∧ SameBytes (s.markHandler cause) t

/-- The handler of a cause: the entry at table base + 8 × cause; none where no table is installed, where the entry is
zero or no multiple of 4, or where its read fails. -/
def Sys2Proof.Claims.HandlerOfCause : Prop :=
  ∀ (s : State) (cause : Nat) (c : CtxState), s.ctx? = some c →
    (c.r.trapTab = 0 → s.handlerFor cause = none) ∧
    (c.r.trapTab ≠ 0 → (∀ x, s.lookVa s.cur.sl.nextSeq (c.r.trapTab + .ofNat 64 (8 * cause)) = .error x → s.handlerFor cause = none) ∧
      ∀ e p, s.lookVa s.cur.sl.nextSeq (c.r.trapTab + .ofNat 64 (8 * cause)) = .ok (e, p) →
        s.handlerFor cause = if e = 0 ∨ e.toNat % 4 ≠ 0 then none else some e)

/-- O16. Taking an exception: where the handler stands, and the state at its entry. -/
def Obligations.TrapEntry : Prop := Claims.EntryState ∧ Claims.HandlerOfCause

/-- O17. rfe, last in its clause and in handler mode with no faulted load: handler mode is left, s511 holds s510, and with
s507 = 0 the recorded lanes stand at s506, unparked; outside handler mode rfe takes cause 0x02. -/
def Obligations.ReturnFromTrap : Prop :=
  ∀ (s : State) (c : Clause), s.cur.sl.clause = some c → c.idx = c.cnt →
    (s.cur.sl.handler = none → exec .rfe s = .next (s.trap 0x02 s.exec' s.wordAux)) ∧
    ∀ h, s.cur.sl.handler = some h → h.load = none → s.cur.sl.kind = .execute → s.rd 507 = 0 →
      ∃ t, exec .rfe s = .next t ∧ t.cur.sl.handler = none ∧ t.cur.sl.clause = none ∧
        (∀ n, t.rd n = if n = 511 then s.rd 510 else s.rd n) ∧
        (∀ l, l < 32 → lane t.cur.g.pcv l = if inMask h.exec l then s.rd 506 else lane s.cur.g.pcv l) ∧
        t.cur.g.park = s.cur.g.park &&& ~~~h.exec ∧ SameBytes s t

/-- What the system registers hold: flags, latacc, the cycle counter, the identity of group, team, cluster and grid, the bases
that the context's record gives, the park mask, the launch mode, the depths. -/
def Sys2Proof.Claims.SysValues : Prop :=
  ∀ s : State,
    (s.sysVal 1 = s.cur.g.fflg ∧ s.sysVal 2 = s.cur.g.slflg ∧ s.sysVal 3 = s.cur.g.latacc ∧ s.sysVal 4 = s.cycle ∧
      s.sysVal 5 = .ofNat 64 (s.cur.g.quarter * 2 ^ 8 + s.cur.g.gidx) ∧
      s.sysVal 8 = .ofNat 64 (s.cur.g.ctx % 2 ^ 16 * 2 ^ 32 + s.cur.g.tcb) ∧
      s.sysVal 0x0A = s.cur.g.park.setWidth 64 ∧ s.sysVal 0x0B = if s.cur.g.coupled then 0 else 1) ∧
    (∀ t, s.team? = some t → s.sysVal 6 = .ofNat 64 (s.coreNo * 2 ^ 40 + t.tidx % 2 ^ 32) ∧
      ∀ c, alFind s.clusters t.cluster = some c → s.sysVal 7 = .ofNat 64 (t.cidx * 2 ^ 32 + c.clid % 2 ^ 32)) ∧
    (∀ c, s.ctx? = some c → s.sysVal 9 = c.r.trapTab ∧ s.sysVal 0x0C = c.r.scopeTab ∧ s.sysVal 0x0D = c.r.boundTab) ∧
    ∀ k, k < 16 → s.sysVal (0x10 + k) = match s.cur.g.name (112 + k) with
      | .queue n _ => .ofNat 64 n
      | _ => 0

/-- O18. System registers: sysrd delivers the register's value; syswr of a legal value writes fflg, slflg, latacc or a depth
register, and a depth discards what the name holds; both wait for what the group has outstanding and can set the register;
the other registers are read-only, cause 0x08; a value with a reserved bit, a depth above 8 and an index that names no
register take cause 0x02. -/
def Obligations.SystemRegisters : Prop :=
  Claims.SysValues ∧ ∀ (s : State) (d a : BitVec 9) (i : BitVec 7),
    (i ≠ 1 ∧ i ≠ 3 ∨ s.cur.allOps = [] → s.sysBusy i.toNat = false) ∧
    (sysRegOk i = true → ¬Claims.trapRegister s d.toNat → s.sysBusy i.toNat = true → exec (.sysrd d i) s = .next s) ∧
    (sysRegOk i = true → ¬(4 ≤ i.toNat ∧ i.toNat ≤ 0x0D) → s.sysBusy i.toNat = true → exec (.syswr a i) s = .next s) ∧
    (sysRegOk i = true → ¬Claims.trapRegister s d.toNat → s.sysBusy i.toNat = false →
      exec (.sysrd d i) s = .next (s.wr d.toNat (s.sysVal i.toNat)).advance) ∧
    (s.sysBusy i.toNat = false →
      (i = 1 → 64 ≤ (s.rd a.toNat).toNat → exec (.syswr a i) s = .next (s.trap 0x02 s.exec' (s.rd a.toNat))) ∧
      (i = 2 → 16 ≤ (s.rd a.toNat).toNat → exec (.syswr a i) s = .next (s.trap 0x02 s.exec' (s.rd a.toNat))) ∧
      (0x10 ≤ i.toNat → i.toNat ≤ 0x1F → 8 < (s.rd a.toNat).toNat →
        exec (.syswr a i) s = .next (s.trap 0x02 s.exec' (s.rd a.toNat))) ∧
      (i = 1 → (s.rd a.toNat).toNat < 64 → exec (.syswr a i) s = .next (s.setG fun g => { g with fflg := s.rd a.toNat }).advance) ∧
      (i = 2 → (s.rd a.toNat).toNat < 16 → exec (.syswr a i) s = .next (s.setG fun g => { g with slflg := s.rd a.toNat }).advance) ∧
      (i = 3 → exec (.syswr a i) s = .next (s.setG fun g => { g with latacc := s.rd a.toNat }).advance) ∧
      (0x10 ≤ i.toNat → i.toNat ≤ 0x1F → (s.rd a.toNat).toNat ≤ 8 → ∃ t, exec (.syswr a i) s = .next t ∧
        t.cur.g.name (i.toNat + 96) = (if s.rd a.toNat = 0 then .unmapped else .queue (s.rd a.toNat).toNat []) ∧
        (∀ n, n ≠ i.toNat + 96 → t.cur.g.name n = s.cur.g.name n) ∧ ∀ n, t.rd n = s.rd n)) ∧
    (4 ≤ i.toNat → i.toNat ≤ 0x0D → exec (.syswr a i) s = .next (s.trap 0x08 s.exec' (s.rd a.toNat))) ∧
    (sysRegOk i = false → exec (.syswr a i) s = .next (s.trap 0x02 s.exec' s.wordAux) ∧
      exec (.sysrd d i) s = .next (s.trap 0x02 s.exec' s.wordAux))

/-- O19. pcvrd gives all 32 lanes their PCs; pcvwr writes the lanes outside EXEC, unparks them, and leaves EXEC alone, or
traps with cause 0x09 where a value it would write is neither a multiple of 4 nor all ones; trpv, in the handler of a faulted
load, gives the data delivered so far in the lanes without bad data and 0 elsewhere, and records the replacements; in another
handler it takes cause 0x13 with that trap's cause, outside one 0x02. -/
def Obligations.LanePcWords : Prop :=
  ∀ (s : State) (d a : BitVec 7) (x : BitVec 1), s.cur.sl.kind = .execute →
    (∀ g, s.writeName s.cur.g d.toNat (BitVec.allOnes 32) s.cur.g.pcv = .ok g →
      exec (.pcvrd d) s = .next ({ s with cur := { s.cur with g := g } } : State).advance) ∧
    (∀ v g, s.sources [⟨a.toNat, x == 1⟩] none = .ok ([v], g) →
      ((∀ l, l < 32 → inMask s.exec' l = true ∨ (lane v l).toNat % 4 = 0 ∨ lane v l = ones64) →
        exec (.pcvwr a x) s = .next ({ s with cur := { s.cur with
          g := { g with pcv := merge s.exec' g.pcv v, park := g.park &&& s.exec' } } } : State).advance) ∧
      ((∃ l, l < 32 ∧ inMask s.exec' l = false ∧ (lane v l).toNat % 4 ≠ 0 ∧ lane v l ≠ ones64) →
        ∃ m b, exec (.pcvwr a x) s = .next (s.trap 0x09 m b))) ∧
    (∀ h o v g g', s.cur.sl.handler = some h → h.load = some o → s.sources [⟨a.toNat, x == 1⟩] (some d.toNat) = .ok ([v], g) →
      s.writeName g d.toNat (BitVec.allOnes 32)
        (tab fun l => if inMask o.exec l && !inMask h.bad l then lane (gotLanes o.acc) l else 0) = .ok g' →
      exec (.trpv d a x) s = .next ({ s with cur := { g := g', sl := { s.cur.sl with
        handler := some { h with repl := some v } } } } : State).advance) ∧
    (s.cur.sl.handler = none → exec (.trpv d a x) s = .next (s.trap 0x02 s.exec' s.wordAux)) ∧
    ∀ h, s.cur.sl.handler = some h → h.load = none →
      exec (.trpv d a x) s = .next (if (s.cur.g.drained [⟨a.toNat, x == 1⟩] (some d.toNat)).full d.toNat
        then s.trap 0x03 s.exec' (.ofNat 64 d.toNat) else s.trap 0x13 s.exec' (.ofNat 64 h.cause))

/-! ## Vector words (08, 10, 11, 12) -/

/-- A vector word of the group's own stream that can issue: its sources can be read (their values `vs`, the group `g` after
the pops and last-read bits), and its destination, as it then stands, takes a result. -/
structure Sys2Proof.Claims.Ready (s : State) (d : Nat) (srcs : List Src) (vs : List Lanes) (g : Group) : Prop where
  stream : s.cur.sl.kind = .execute
  read   : s.sources srcs (some d) = .ok (vs, g)
  room   : ∀ r, ∃ g', s.writeName g d s.exec' r = .ok g'

/-- The word has issued with the result `r`, the sticky flags `f` and `sl`: the destination is written in the lanes of EXEC
as R148 and R153 say, and the position advances; the scalar registers, memory and all outside the group are as they were. -/
def Sys2Proof.Claims.Done (s t : State) (d : Nat) (g : Group) (r : Lanes) (f sl : W64) : Prop :=
  ∃ g', s.writeName g d s.exec' r = .ok g' ∧
    t = ({ s with cur := { s.cur with g := { g' with fflg := g'.fflg ||| f, slflg := g'.slflg ||| sl } } } : State).advance

/-- A vector result in the lanes of a mask: a mapped name keeps its other lanes (zero where a latch holds it and its
last-read bit waited for the latch); an unmapped name takes a register that is zero in its other lanes; a configured queue
receives an entry with zeros in its other lanes.  The other names, and of the group everything but names and latches, are as
they were. -/
def Sys2Proof.Claims.VectorWrite : Prop :=
  ∀ (s : State) (g g' : Group) (n : Nat) (m : Mask) (r : Lanes), s.writeName g n m r = .ok g' →
    (∀ k, k ≠ n → g'.name k = g.name k) ∧
    g' = { g with v := g'.v, latchA := g'.latchA, latchB := g'.latchB, alatch := g'.alatch } ∧
    (∀ old, g.name n = .mapped old → ∃ y, g'.name n = .mapped y ∧
      ∀ l, l < 32 → lane y l = if inMask m l then lane r l else if g.owed n then 0 else lane old l) ∧
    (g.name n = .unmapped → ∃ y, g'.name n = .mapped y ∧ ∀ l, l < 32 → lane y l = if inMask m l then lane r l else 0) ∧
    ∀ k es, g.name n = .queue k es → es.length < k ∧ ∃ y, g'.name n = .queue k (es ++ [y]) ∧
      ∀ l, l < 32 → lane y l = if inMask m l then lane r l else 0

/-- Reading sources: an unmapped name reads zero, a mapped name its register, a queue its head, which is popped; an empty
queue takes cause 0x04 with the name, after the 0x03 of a destination that can take no register.  A last-read bit of a mapped
name that is no latch's and not the destination unmaps it after the reads. -/
def Sys2Proof.Claims.VectorRead : Prop :=
  ∀ (s : State) (n : Nat) (lr : Bool) (d : Option Nat), s.cur.sl.kind = .execute →
    (s.cur.g.name n = .unmapped → s.sources [⟨n, lr⟩] d = .ok ([zeroLanes], s.cur.g)) ∧
    (∀ v, s.cur.g.name n = .mapped v → ∃ g, s.sources [⟨n, lr⟩] d = .ok ([v], g) ∧
      (lr = false ∨ d = some n → g = s.cur.g) ∧
      (lr = true → d ≠ some n → s.cur.g.latchA = none → s.cur.g.latchB = none → g.name n = .unmapped ∧
        ∀ k, k ≠ n → g.name k = s.cur.g.name k)) ∧
    (∀ k v t, s.cur.g.name n = .queue k (v :: t) → ∃ g, s.sources [⟨n, lr⟩] d = .ok ([v], g) ∧ g.name n = .queue k t ∧
      ∀ j, j ≠ n → g.name j = s.cur.g.name j) ∧
    ∀ k, s.cur.g.name n = .queue k [] →
      (∀ m, d = some m → s.cur.g.full m = true → s.sources [⟨n, lr⟩] d = .trap 0x03 s.exec' (.ofNat 64 m)) ∧
      ((∀ m, d = some m → s.cur.g.full m = false) → s.sources [⟨n, lr⟩] d = .trap 0x04 s.exec' (.ofNat 64 n))

/-- O20. Vector names, written and read.  The model's choices: 0x03 is found before 0x04 (log 83), and a name that a latch holds
and whose last-read bit waited for it reads as zero (log 81). -/
def Obligations.VectorNames : Prop := Claims.VectorWrite ∧ Claims.VectorRead

/-- Element `e` of width `w` of a lane value, read as unsigned and as two's complement (R4, R167). -/
def Sys2Proof.Claims.U (x : W64) (e w : Nat) : Int := (x.toNat / 2 ^ (e * w) % 2 ^ w : Nat)
def Sys2Proof.Claims.S (x : W64) (e w : Nat) : Int := if 2 * Claims.U x e w < 2 ^ w then Claims.U x e w else Claims.U x e w - 2 ^ w

/-- The width that a W field names. -/
def Sys2Proof.Claims.W (w : BitVec 2) : Nat := 8 * 2 ^ w.toNat

/-- A value held within bounds. -/
def Sys2Proof.Claims.hold (lo hi x : Int) : Int := if x < lo then lo else if hi < x then hi else x

/-- The number of a bit pattern's one bits, and of the zero bits above its highest one bit. -/
def Sys2Proof.Claims.ones (x w : Nat) : Nat := ((List.range w).filter fun k => x.testBit k).length
def Sys2Proof.Claims.zerosAbove (x w : Nat) : Nat := ((List.range w).filter fun k => x / 2 ^ k == 0).length

/-- What a VALU word does: destination, sources, whether it reads its destination, element width of the result, and the value
of element `e` of lane `l` from the lane values of A, of B and of the old destination, stored modulo 2^w. -/
structure Sys2Proof.Claims.VecOp where
  d    : BitVec 7
  srcs : List Src
  rmw  : Bool
  w    : Nat
  f    : Nat → Nat → W64 → W64 → W64 → Int

open Sys2Proof.Claims in
/-- The VALU words (R197 to R200). -/
def Sys2Proof.Claims.valu (s : State) : Instr → Option Claims.VecOp
  | .vadd d a b x y w => some ⟨d, [⟨a.toNat, x == 1⟩, ⟨b.toNat, y == 1⟩], false, W w, fun _ e A B _ => U A e (W w) + U B e (W w)⟩
  | .vsub d a b x y w => some ⟨d, [⟨a.toNat, x == 1⟩, ⟨b.toNat, y == 1⟩], false, W w, fun _ e A B _ => U A e (W w) - U B e (W w)⟩
  | .vaddss d a b x y w => some ⟨d, [⟨a.toNat, x == 1⟩, ⟨b.toNat, y == 1⟩], false, W w, fun _ e A B _ =>
      hold (-(2 ^ (W w - 1))) (2 ^ (W w - 1) - 1) (S A e (W w) + S B e (W w))⟩
  | .vaddsu d a b x y w => some ⟨d, [⟨a.toNat, x == 1⟩, ⟨b.toNat, y == 1⟩], false, W w, fun _ e A B _ =>
      hold 0 (2 ^ W w - 1) (U A e (W w) + U B e (W w))⟩
  | .vsubss d a b x y w => some ⟨d, [⟨a.toNat, x == 1⟩, ⟨b.toNat, y == 1⟩], false, W w, fun _ e A B _ =>
      hold (-(2 ^ (W w - 1))) (2 ^ (W w - 1) - 1) (S A e (W w) - S B e (W w))⟩
  | .vsubsu d a b x y w => some ⟨d, [⟨a.toNat, x == 1⟩, ⟨b.toNat, y == 1⟩], false, W w, fun _ e A B _ =>
      hold 0 (2 ^ W w - 1) (U A e (W w) - U B e (W w))⟩
  | .vmul d a b x y w => some ⟨d, [⟨a.toNat, x == 1⟩, ⟨b.toNat, y == 1⟩], false, W w, fun _ e A B _ => U A e (W w) * U B e (W w)⟩
  | .vmulh d a b x y w => some ⟨d, [⟨a.toNat, x == 1⟩, ⟨b.toNat, y == 1⟩], false, W w, fun _ e A B _ =>
      S A e (W w) * S B e (W w) / 2 ^ W w⟩
  | .vmulhu d a b x y w => some ⟨d, [⟨a.toNat, x == 1⟩, ⟨b.toNat, y == 1⟩], false, W w, fun _ e A B _ =>
      U A e (W w) * U B e (W w) / 2 ^ W w⟩
  | .vmad d a b x y w => some ⟨d, [⟨a.toNat, x == 1⟩, ⟨b.toNat, y == 1⟩], true, W w, fun _ e A B D =>
      U D e (W w) + U A e (W w) * U B e (W w)⟩
  | .vmin d a b x y w => some ⟨d, [⟨a.toNat, x == 1⟩, ⟨b.toNat, y == 1⟩], false, W w, fun _ e A B _ =>
      if S A e (W w) ≤ S B e (W w) then U A e (W w) else U B e (W w)⟩
  | .vmax d a b x y w => some ⟨d, [⟨a.toNat, x == 1⟩, ⟨b.toNat, y == 1⟩], false, W w, fun _ e A B _ =>
      if S A e (W w) ≤ S B e (W w) then U B e (W w) else U A e (W w)⟩
  | .vminu d a b x y w => some ⟨d, [⟨a.toNat, x == 1⟩, ⟨b.toNat, y == 1⟩], false, W w, fun _ e A B _ =>
      if U A e (W w) ≤ U B e (W w) then U A e (W w) else U B e (W w)⟩
  | .vmaxu d a b x y w => some ⟨d, [⟨a.toNat, x == 1⟩, ⟨b.toNat, y == 1⟩], false, W w, fun _ e A B _ =>
      if U A e (W w) ≤ U B e (W w) then U B e (W w) else U A e (W w)⟩
  | .vand d a b x y w => some ⟨d, [⟨a.toNat, x == 1⟩, ⟨b.toNat, y == 1⟩], false, W w, fun _ e A B _ => U (A &&& B) e (W w)⟩
  | .vor d a b x y w => some ⟨d, [⟨a.toNat, x == 1⟩, ⟨b.toNat, y == 1⟩], false, W w, fun _ e A B _ => U (A ||| B) e (W w)⟩
  | .vxor d a b x y w => some ⟨d, [⟨a.toNat, x == 1⟩, ⟨b.toNat, y == 1⟩], false, W w, fun _ e A B _ => U (A ^^^ B) e (W w)⟩
  | .vandn d a b x y w => some ⟨d, [⟨a.toNat, x == 1⟩, ⟨b.toNat, y == 1⟩], false, W w, fun _ e A B _ => U (A &&& ~~~B) e (W w)⟩
  | .vshl d a b x y w => some ⟨d, [⟨a.toNat, x == 1⟩, ⟨b.toNat, y == 1⟩], false, W w, fun _ e A B _ =>
      U A e (W w) * 2 ^ (U B e (W w) % 256).toNat⟩
  | .vshr d a b x y w => some ⟨d, [⟨a.toNat, x == 1⟩, ⟨b.toNat, y == 1⟩], false, W w, fun _ e A B _ =>
      U A e (W w) / 2 ^ (U B e (W w) % 256).toNat⟩
  | .vsar d a b x y w => some ⟨d, [⟨a.toNat, x == 1⟩, ⟨b.toNat, y == 1⟩], false, W w, fun _ e A B _ =>
      S A e (W w) / 2 ^ (U B e (W w) % 256).toNat⟩
  | .vrot d a b x y w => some ⟨d, [⟨a.toNat, x == 1⟩, ⟨b.toNat, y == 1⟩], false, W w, fun _ e A B _ =>
      U A e (W w) * 2 ^ (U B e (W w) % 256 % W w).toNat + U A e (W w) / 2 ^ (W w - (U B e (W w) % 256 % W w).toNat)⟩
  | .vceq d a b x y w => some ⟨d, [⟨a.toNat, x == 1⟩, ⟨b.toNat, y == 1⟩], false, W w, fun _ e A B _ =>
      if U A e (W w) = U B e (W w) then -1 else 0⟩
  | .vclt d a b x y w => some ⟨d, [⟨a.toNat, x == 1⟩, ⟨b.toNat, y == 1⟩], false, W w, fun _ e A B _ =>
      if S A e (W w) < S B e (W w) then -1 else 0⟩
  | .vcltu d a b x y w => some ⟨d, [⟨a.toNat, x == 1⟩, ⟨b.toNat, y == 1⟩], false, W w, fun _ e A B _ =>
      if U A e (W w) < U B e (W w) then -1 else 0⟩
  | .vsel d a b x y w => some ⟨d, [⟨a.toNat, x == 1⟩, ⟨b.toNat, y == 1⟩], true, W w, fun _ e A B D =>
      U ((A &&& D) ||| (B &&& ~~~D)) e (W w)⟩
  | .vclz d a x w => some ⟨d, [⟨a.toNat, x == 1⟩], false, W w, fun _ e A _ _ => zerosAbove (U A e (W w)).toNat (W w)⟩
  | .vpopc d a x w => some ⟨d, [⟨a.toNat, x == 1⟩], false, W w, fun _ e A _ _ => ones (U A e (W w)).toNat (W w)⟩
  | .vabs d a x w => some ⟨d, [⟨a.toNat, x == 1⟩], false, W w, fun _ e A _ _ => (S A e (W w)).natAbs⟩
  | .vdot4 d a b x y => some ⟨d, [⟨a.toNat, x == 1⟩, ⟨b.toNat, y == 1⟩], true, 32, fun _ e A B D =>
      U D e 32 + S A (4 * e) 8 * S B (4 * e) 8 + S A (4 * e + 1) 8 * S B (4 * e + 1) 8 + S A (4 * e + 2) 8 * S B (4 * e + 2) 8
        + S A (4 * e + 3) 8 * S B (4 * e + 3) 8⟩
  | .vmov d a x w => some ⟨d, [⟨a.toNat, x == 1⟩], false, W w, fun _ e A _ _ => U A e (W w)⟩
  | .vwiden d a x w => if w = 0 then none else
      some ⟨d, [⟨a.toNat, x == 1⟩], false, W w, fun _ e A _ _ => S A e (W w / 2)⟩
  | .vnarrow d a x w => if w = 3 then none else
      some ⟨d, [⟨a.toNat, x == 1⟩], false, W w, fun _ e A _ _ => if 2 * e < 64 / W w then
        hold (-(2 ^ (W w - 1))) (2 ^ (W w - 1) - 1) (S A e (2 * W w)) else 0⟩
  | .vlid d w => some ⟨d, [], false, W w, fun l e _ _ _ => l * (64 / W w) + e⟩
  | .vaddi d a i x w => some ⟨d, [⟨a.toNat, x == 1⟩], false, W w, fun _ e A _ _ => U A e (W w) + i.toNat⟩
  | .vshli d a i x w => some ⟨d, [⟨a.toNat, x == 1⟩], false, W w, fun _ e A _ _ => U A e (W w) * 2 ^ i.toNat⟩
  | .vshri d a i x w => some ⟨d, [⟨a.toNat, x == 1⟩], false, W w, fun _ e A _ _ => U A e (W w) / 2 ^ i.toNat⟩
  | .vsari d a i x w => some ⟨d, [⟨a.toNat, x == 1⟩], false, W w, fun _ e A _ _ => S A e (W w) / 2 ^ i.toNat⟩
  | .vandi d a i x w => some ⟨d, [⟨a.toNat, x == 1⟩], false, W w, fun _ e A _ _ => ((U A e (W w)).toNat &&& i.toNat : Nat)⟩
  | .vmovi d i w => some ⟨d, [], false, W w, fun _ _ _ _ _ => i.toNat⟩
  | .vceqi d a i x w => some ⟨d, [⟨a.toNat, x == 1⟩], false, W w, fun _ e A _ _ => if U A e (W w) = i.toNat then -1 else 0⟩
  | .vaddS d a b x w => some ⟨d, [⟨a.toNat, x == 1⟩], false, W w, fun _ e A _ _ => U A e (W w) + (s.rd b.toNat).toNat⟩
  | .vsubS d a b x w => some ⟨d, [⟨a.toNat, x == 1⟩], false, W w, fun _ e A _ _ => U A e (W w) - (s.rd b.toNat).toNat⟩
  | .vmulS d a b x w => some ⟨d, [⟨a.toNat, x == 1⟩], false, W w, fun _ e A _ _ => U A e (W w) * (s.rd b.toNat).toNat⟩
  | .vminS d a b x w => some ⟨d, [⟨a.toNat, x == 1⟩], false, W w, fun _ e A _ _ =>
      if S A e (W w) ≤ S (s.rd b.toNat) 0 (W w) then U A e (W w) else U (s.rd b.toNat) 0 (W w)⟩
  | .vmaxS d a b x w => some ⟨d, [⟨a.toNat, x == 1⟩], false, W w, fun _ e A _ _ =>
      if S A e (W w) ≤ S (s.rd b.toNat) 0 (W w) then U (s.rd b.toNat) 0 (W w) else U A e (W w)⟩
  | .vandS d a b x w => some ⟨d, [⟨a.toNat, x == 1⟩], false, W w, fun _ e A _ _ =>
      ((U A e (W w)).toNat &&& (s.rd b.toNat).toNat : Nat)⟩
  | .vmovS d b w => some ⟨d, [], false, W w, fun _ _ _ _ _ => (s.rd b.toNat).toNat⟩
  | .vceqS d a b x w => some ⟨d, [⟨a.toNat, x == 1⟩], false, W w, fun _ e A _ _ =>
      if U A e (W w) = U (s.rd b.toNat) 0 (W w) then -1 else 0⟩
  | .vcltS d a b x w => some ⟨d, [⟨a.toNat, x == 1⟩], false, W w, fun _ e A _ _ =>
      if S A e (W w) < S (s.rd b.toNat) 0 (W w) then -1 else 0⟩
  | _ => none

/-- O21. The VALU words: every element of every lane of the result is the value of the tables modulo 2^w, no flag is raised,
and the word completes; a word that reads a destination that is a queue takes cause 0x03 with the name. -/
def Obligations.ValuResults : Prop :=
  ∀ (s : State) (i : Instr) (p : Claims.VecOp), Claims.valu s i = some p →
    (∀ vs g, Claims.Ready s p.d.toNat p.srcs vs g → (p.rmw = true → (s.cur.g.name p.d.toNat).isQueue = false) →
      ∃ r t, exec i s = .next t ∧ Claims.Done s t p.d.toNat g r 0 0 ∧
        ∀ l e, l < 32 → e < 64 / p.w → Claims.U (lane r l) e p.w =
          p.f l e (lane (vs.getD 0 zeroLanes) l) (lane (vs.getD 1 zeroLanes) l) (lane (s.cur.g.val p.d.toNat) l) % 2 ^ p.w) ∧
    (s.cur.sl.kind = .execute → p.rmw = true → (s.cur.g.name p.d.toNat).isQueue = true →
      exec i s = .next (s.trap 0x03 s.exec' (.ofNat 64 p.d.toNat)))

/-! ## Floating point, special functions, level-index arithmetic, cross-lane words (09, 11, 12) -/

/-- What a word of the VF format does: destination, source A with its last-read and hold bits, source B with its bits where
the word has it, whether it reads its destination, the width and number of the elements of the result, and element `e` of a
lane with the flags it raises, from the lane values of A, of B and of the old destination. -/
structure Sys2Proof.Claims.VfOp where
  d   : BitVec 7
  a   : BitVec 7
  x   : BitVec 1
  h   : BitVec 1
  b   : Option (BitVec 7 × BitVec 1 × BitVec 1)
  acc : Bool
  w   : Nat
  n   : Nat
  f   : Nat → W64 → W64 → W64 → Nat × W64

/-- A value of a format from element `e` of a lane value. -/
def Sys2Proof.Claims.val (f : Fmt) (x : W64) (e : Nat) : Machine.Num := f.decode (subEl x e f.width)

open Sys2Proof.Claims in
/-- A word with two sources, and one that accumulates onto its destination; both round once. -/
def Sys2Proof.Claims.two (f : Fmt) (op : Machine.Num → Machine.Num → Machine.Num) (d a b : BitVec 7) (x y h k : BitVec 1) : VfOp :=
  ⟨d, a, x, h, some (b, y, k), false, f.width, 64 / f.width, fun e A B _ => f.round (op (val f A e) (val f B e))⟩

open Sys2Proof.Claims in
def Sys2Proof.Claims.fma (f : Fmt) (neg : Bool) (d a b : BitVec 7) (x y h k : BitVec 1) : VfOp :=
  ⟨d, a, x, h, some (b, y, k), true, f.width, 64 / f.width, fun e A B D =>
    f.round (sumNums [val f D e, if neg then ((val f A e).mul (val f B e)).neg else (val f A e).mul (val f B e)])⟩

open Sys2Proof.Claims in
/-- A two-term dot product onto FP32, rounded once. -/
def Sys2Proof.Claims.dot (f : Fmt) (d a b : BitVec 7) (x y h k : BitVec 1) : VfOp :=
  ⟨d, a, x, h, some (b, y, k), true, 32, 2, fun e A B D => fp32.round (sumNums [val fp32 D e,
    (val f A (2 * e)).mul (val f B (2 * e)), (val f A (2 * e + 1)).mul (val f B (2 * e + 1))])⟩

open Sys2Proof.Claims in
/-- A comparison or selection of FP32 elements: it raises NV alone, for a signalling NaN, or for any NaN. -/
def Sys2Proof.Claims.cmp (any : Bool) (f : Machine.Num → Machine.Num → Nat) (d a b : BitVec 7) (x y h k : BitVec 1) : VfOp :=
  ⟨d, a, x, h, some (b, y, k), false, 32, 2, fun e A B _ => (f (val fp32 A e) (val fp32 B e),
    if (if any then (val fp32 A e).isNan || (val fp32 B e).isNan else (val fp32 A e).isSig || (val fp32 B e).isSig) then fNV else 0)⟩

open Sys2Proof.Claims in
/-- A word with one source of `n` elements of width `ws`. -/
def Sys2Proof.Claims.one (ws wd n : Nat) (f : Nat → Nat × W64) (d a : BitVec 7) (x h : BitVec 1) : VfOp :=
  ⟨d, a, x, h, none, false, wd, n, fun e A _ _ => f (subEl A e ws)⟩

open Sys2Proof.Claims in
/-- The VFPU words (R203 to R206) and the SFU words (R213 to R218). -/
def Sys2Proof.Claims.vf : Instr → Option VfOp
  | .faddF32 d a b x y h k => some (two fp32 (fun p q => sumNums [p, q]) d a b x y h k)
  | .faddBf16 d a b x y h k => some (two bf16 (fun p q => sumNums [p, q]) d a b x y h k)
  | .faddF16 d a b x y h k => some (two fp16 (fun p q => sumNums [p, q]) d a b x y h k)
  | .faddF64 d a b x y h k => some (two fp64 (fun p q => sumNums [p, q]) d a b x y h k)
  | .fsubF32 d a b x y h k => some (two fp32 (fun p q => sumNums [p, q.neg]) d a b x y h k)
  | .fmulF32 d a b x y h k => some (two fp32 Machine.Num.mul d a b x y h k)
  | .fmulBf16 d a b x y h k => some (two bf16 Machine.Num.mul d a b x y h k)
  | .fmulF16 d a b x y h k => some (two fp16 Machine.Num.mul d a b x y h k)
  | .fmulF64 d a b x y h k => some (two fp64 Machine.Num.mul d a b x y h k)
  | .ffmaF32 d a b x y h k => some (fma fp32 false d a b x y h k)
  | .ffmaBf16 d a b x y h k => some (fma bf16 false d a b x y h k)
  | .ffmaF16 d a b x y h k => some (fma fp16 false d a b x y h k)
  | .ffmaF64 d a b x y h k => some (fma fp64 false d a b x y h k)
  | .ffmsF32 d a b x y h k => some (fma fp32 true d a b x y h k)
  | .fdot2Bf16 d a b x y h k => some (dot bf16 d a b x y h k)
  | .fdot2F16 d a b x y h k => some (dot fp16 d a b x y h k)
  | .fminF32 d a b x y h k => some (cmp false (fun p q => (fp32.round (p.min q)).1) d a b x y h k)
  | .fmaxF32 d a b x y h k => some (cmp false (fun p q => (fp32.round (p.max q)).1) d a b x y h k)
  | .fceqF32 d a b x y h k => some (cmp false (fun p q => if p.eq q then 0xFFFFFFFF else 0) d a b x y h k)
  | .fcltF32 d a b x y h k => some (cmp true (fun p q => if p.lt q then 0xFFFFFFFF else 0) d a b x y h k)
  | .fcleF32 d a b x y h k => some (cmp true (fun p q => if p.lt q || p.eq q then 0xFFFFFFFF else 0) d a b x y h k)
  | .fabsF32 d a x h => some (one 32 32 2 (fun c => fp32.round (fp32.decode c).abs) d a x h)
  | .fnegF32 d a x h => some (one 32 32 2 (fun c => fp32.round (fp32.decode c).neg) d a x h)
  | .fcvtF32Bf16 d a x h => some (one 16 32 2 (fun c => fp32.round (bf16.decode c)) d a x h)
  | .fcvtBf16F32 d a x h => some (one 32 16 2 (fun c => bf16.round (fp32.decode c)) d a x h)
  | .fcvtF32F16 d a x h => some (one 16 32 2 (fun c => fp32.round (fp16.decode c)) d a x h)
  | .fcvtF16F32 d a x h => some (one 32 16 2 (fun c => fp16.round (fp32.decode c)) d a x h)
  | .fcvtF32E4m3 d a x h => some (one 8 32 2 (fun c => fp32.round (Fmt8.e4m3.decode c)) d a x h)
  | .fcvtE4m3F32 d a x h => some (one 32 8 2 (fun c => Fmt8.e4m3.round (fp32.decode c)) d a x h)
  | .fcvtF32E5m2 d a x h => some (one 8 32 2 (fun c => fp32.round (Fmt8.e5m2.decode c)) d a x h)
  | .fcvtE5m2F32 d a x h => some (one 32 8 2 (fun c => Fmt8.e5m2.round (fp32.decode c)) d a x h)
  | .fcvtF32I32 d a x h => some (one 32 32 2 (fun c => fp32.round (numOfInt (sx 32 c))) d a x h)
  | .fcvtI32F32 d a x h => some (one 32 32 2 (fun c => (fp32.decode c).toInt32 true) d a x h)
  | .fcvtI32F32z d a x h => some (one 32 32 2 (fun c => (fp32.decode c).toInt32 false) d a x h)
  | .fcvtF64F32 d a x h => some (one 32 64 1 (fun c => fp64.round (fp32.decode c)) d a x h)
  | .fcvtF32F64 d a x h => some (one 64 32 1 (fun c => fp32.round (fp64.decode c)) d a x h)
  | .srcp d a x h => some (one 32 32 2 srcpEl d a x h)
  | .srsqrt d a x h => some (one 32 32 2 srsqrtEl d a x h)
  | .ssqrt d a x h => some (one 32 32 2 ssqrtEl d a x h)
  | .sexp2 d a x h => some (one 32 32 2 sexp2El d a x h)
  | .slog2 d a x h => some (one 32 32 2 slog2El d a x h)
  | .sexp d a x h => some (one 32 32 2 sexpEl d a x h)
  | .ssinpi d a x h => some (one 32 32 2 ssinpiEl d a x h)
  | .scospi d a x h => some (one 32 32 2 scospiEl d a x h)
  | .stanh d a x h => some (one 32 32 2 stanhEl d a x h)
  | .ssigm d a x h => some (one 32 32 2 ssigmEl d a x h)
  | _ => none

/-- The values that the sources of a VF word have before it, in the order of its fields. -/
def Sys2Proof.Claims.VfOp.srcs (p : Claims.VfOp) : List Src :=
  [⟨p.a.toNat, p.x == 1⟩] ++ (match p.b with
    | some (b, y, _) => [⟨b.toNat, y == 1⟩]
    | none => []) ++ (if p.acc then [⟨p.d.toNat, false⟩] else [])

/-- The lane value of source A, of source B (zero without one) and of the old destination. -/
def Sys2Proof.Claims.VfOp.elem (p : Claims.VfOp) (vs : List Lanes) (l e : Nat) : Nat × W64 :=
  p.f e (lane (vs.getD 0 zeroLanes) l) (lane (vs.getD 1 zeroLanes) l) (lane (vs.getD 2 zeroLanes) l)

/-- The destination can take a result at once: it is mapped, its register waiting for no latch to be freed, or its group
holds fewer registers of the bank than its reserve, and a configured queue has room for one more entry. -/
def Sys2Proof.Claims.takes (g : Group) (d : Nat) : Prop :=
  match g.name d with
  | .mapped _ => g.owed d = false ∨ g.held (d % 6) < g.base
  | .unmapped => g.held (d % 6) < g.base
  | .queue k es => g.held (d % 6) < g.base ∧ es.length < k

/-- The group as a VF word's reads find it: the latches that its fields do not name have been let go (R157, rule 2). -/
def Sys2Proof.Claims.VfOp.found (p : Claims.VfOp) (g : Group) : Group := g.vfLatches p.a.toNat (p.b.map (·.1.toNat))

/-- The name after the result `y`: a queue has the entry behind its others. -/
def Sys2Proof.Claims.after (x : VName) (y : Lanes) : VName :=
  match x with
  | .queue k es => .queue k (es ++ [y])
  | _ => .mapped y

/-- The VFPU and SFU words, in the group's own stream, of sources that can be read, onto a destination that takes a result
(no queue that the word also reads): the result has in each lane of EXEC the elements of the tables, zeros above them, and in
the other lanes what the name held (zero in a new register or entry, and in one that waited for its latch); fflg gains the
flags of the elements of the lanes of EXEC and no other; scalar registers, memory, and all outside the group are as they
were; a name that is no source and not the destination, and waits for no latch, keeps its value. -/
def Sys2Proof.Claims.VfTable : Prop :=
  ∀ (s : State) (i : Instr) (p : Claims.VfOp) (vs : List Lanes) (g : Group), Claims.vf i = some p →
    s.cur.sl.kind = .execute → (p.found s.cur.g).readSrcs p.srcs = .ok (vs, g) →
    Claims.takes (p.found s.cur.g) p.d.toNat →
    ((s.cur.g.name p.d.toNat).isQueue = true → ∀ q ∈ p.srcs, q.n ≠ p.d.toNat) →
    ∃ t y, exec i s = .next t ∧ t.cur.g.name p.d.toNat = Claims.after (s.cur.g.name p.d.toNat) y ∧
      (∀ l, l < 32 → inMask s.exec' l = false → lane y l = lane ((p.found s.cur.g).kept p.d.toNat) l) ∧
      (∀ l e, l < 32 → inMask s.exec' l = true → e < p.n → subEl (lane y l) e p.w = (p.elem vs l e).1 % 2 ^ p.w) ∧
      (∀ l, l < 32 → inMask s.exec' l = true → (lane y l).toNat < 2 ^ (p.n * p.w)) ∧
      t.cur.g.fflg = ((lanesOf s.exec').foldl (fun v l => (List.range p.n).foldl (fun v e => v ||| (p.elem vs l e).2) v)
        s.cur.g.fflg) ∧
      (∀ n, n ≠ p.d.toNat → (∀ q ∈ p.srcs, q.n ≠ n) → s.cur.g.latchA.map (·.name) ≠ some n →
        s.cur.g.latchB.map (·.name) ≠ some n → t.cur.g.name n = s.cur.g.name n) ∧
      (∀ n, t.rd n = s.rd n) ∧ OutsideSame s t ∧ SliceSame s t ∧ SameBytes s t

/-- A VF word that reads its destination traps with cause 0x03 and the name where that is a configured queue, and one
whose source queue is empty with cause 0x04 and its name, or with 0x03 and the destination's where that can take no register
after the reads that can be made; the vector words trap with cause 0x02 in a scalar-profile stream. -/
def Sys2Proof.Claims.VfTraps : Prop :=
  ∀ (s : State) (i : Instr) (p : Claims.VfOp), Claims.vf i = some p →
    (s.cur.sl.kind ≠ .execute → exec i s = .next (s.trap 0x02 s.exec' s.wordAux)) ∧
    (s.cur.sl.kind = .execute → p.acc = true → (s.cur.g.name p.d.toNat).isQueue = true →
      exec i s = .next (s.trap 0x03 s.exec' (.ofNat 64 p.d.toNat))) ∧
    (s.cur.sl.kind = .execute → (p.acc = true → (s.cur.g.name p.d.toNat).isQueue = false) →
      ∀ n, (p.found s.cur.g).readSrcs p.srcs = .error n → exec i s = .next (
        if ((p.found s.cur.g).drained p.srcs (some p.d.toNat)).full p.d.toNat then s.trap 0x03 s.exec' (.ofNat 64 p.d.toNat)
        else s.trap 0x04 s.exec' (.ofNat 64 n)))

/-- O22. The VFPU and SFU words: results, flags, frame and traps.  The model's choices: the element functions of the SFU within
their bounds (log 7), zero in a register that waited for its latch (log 81), and 0x03 before 0x04 (log 83). -/
def Obligations.VfResults : Prop := Claims.VfTable ∧ Claims.VfTraps

/-- O23. Rounding is exact on what a format holds: a code that is no NaN, decoded and rounded to its own format, is itself,
with no flag. -/
def Obligations.RoundOfDecode : Prop :=
  ∀ (f : Fmt) (c : Nat), f = fp32 ∨ f = fp64 ∨ f = fp16 ∨ f = bf16 → c < 2 ^ f.width → (f.decode c).isNan = false →
    f.round (f.decode c) = (c, 0)

open Sys2Proof.Claims in
/-- The level-index words with two sources and one, by format (R217 to R221): the element and its flags. -/
def Sys2Proof.Claims.sli (t : SliFmt) : Instr → Option (BitVec 7 × List Src × BitVec 2 × (Nat → Nat → Nat × W64))
  | .sladd d a b x y w => some (d, [⟨a.toNat, x == 1⟩, ⟨b.toNat, y == 1⟩], w, t.flagged2 t.add)
  | .slsub d a b x y w => some (d, [⟨a.toNat, x == 1⟩, ⟨b.toNat, y == 1⟩], w, t.flagged2 fun p q => t.add p (t.neg q))
  | .slmul d a b x y w => some (d, [⟨a.toNat, x == 1⟩, ⟨b.toNat, y == 1⟩], w, t.flagged2 t.mul)
  | .sldiv d a b x y w => some (d, [⟨a.toNat, x == 1⟩, ⟨b.toNat, y == 1⟩], w, t.flagged2 t.div)
  | .slmin d a b x y w => some (d, [⟨a.toNat, x == 1⟩, ⟨b.toNat, y == 1⟩], w, fun p q => (t.min p q, 0))
  | .slmax d a b x y w => some (d, [⟨a.toNat, x == 1⟩, ⟨b.toNat, y == 1⟩], w, fun p q => (t.max p q, 0))
  | .slceq d a b x y w => some (d, [⟨a.toNat, x == 1⟩, ⟨b.toNat, y == 1⟩], w, fun p q =>
      (if p ≠ t.nanCode ∧ q ≠ t.nanCode ∧ p = q then 2 ^ t.w - 1 else 0, 0))
  | .slclt d a b x y w => some (d, [⟨a.toNat, x == 1⟩, ⟨b.toNat, y == 1⟩], w, fun p q =>
      (if t.lt p q then 2 ^ t.w - 1 else 0, 0))
  | .slrcp d a x w => some (d, [⟨a.toNat, x == 1⟩], w, fun p _ => t.rcp p)
  | .slneg d a x w => some (d, [⟨a.toNat, x == 1⟩], w, fun p _ => (t.neg p, 0))
  | .slabs d a x w => some (d, [⟨a.toNat, x == 1⟩], w, fun p _ => (t.abs p, 0))
  | .slexp d a x w => some (d, [⟨a.toNat, x == 1⟩], w, fun p _ => t.flagged1 t.exp p)
  | .sllog d a x w => some (d, [⟨a.toNat, x == 1⟩], w, fun p _ => t.flagged1 t.log p)
  | .slsqrt d a x w => some (d, [⟨a.toNat, x == 1⟩], w, fun p _ => t.flagged1 t.sqrt p)
  | .sllvl d a x w => some (d, [⟨a.toNat, x == 1⟩], w, fun p _ => (t.lvl p, 0))
  | _ => none

/-- The conversions between the level-index formats and the others: source and destination widths, elements, and the element
with its floating-point and its level-index flags. -/
def Sys2Proof.Claims.sliCvt : Instr → Option (BitVec 7 × Src × Nat × Nat × Nat × (Nat → Nat × W64 × W64))
  | .slcvtSlF32 d a x => some (d, ⟨a.toNat, x == 1⟩, 32, 32, 2, fun c => sliOfNum (fp32.decode c))
  | .slcvtF32Sl d a x => some (d, ⟨a.toNat, x == 1⟩, 32, 32, 2, numOfSli fp32)
  | .slcvtSlF64 d a x => some (d, ⟨a.toNat, x == 1⟩, 64, 32, 1, fun c => sliOfNum (fp64.decode c))
  | .slcvtF64Sl d a x => some (d, ⟨a.toNat, x == 1⟩, 32, 64, 1, numOfSli fp64)
  | .slcvtSl16Sl32 d a x => some (d, ⟨a.toNat, x == 1⟩, 32, 16, 2, fun c => sli16.ofSli (sli32.decode c))
  | .slcvtSl32Sl16 d a x => some (d, ⟨a.toNat, x == 1⟩, 16, 32, 2, fun c => sli32.ofSli (sli16.decode c))
  | _ => none

/-- O24. The level-index words: at W = 10 two elements in the 32-bit format, at W = 01 four in the 16-bit format, each the
element of the tables; slflg gains the flags of the lanes of EXEC; the conversions likewise, with fflg; an illegal W takes
cause 0x02. -/
def Obligations.SliResults : Prop :=
  (∀ (s : State) (i : Instr) (t : SliFmt) (d : BitVec 7) (q : List Src) (w : BitVec 2) (f : Nat → Nat → Nat × W64) vs g,
    Claims.sli t i = some (d, q, w, f) → (w = 2 ∧ t = sli32) ∨ (w = 1 ∧ t = sli16) → Claims.Ready s d.toNat q vs g →
    let el := fun l e => f (subEl (lane (vs.getD 0 zeroLanes) l) e t.w) (subEl (lane (vs.getD 1 zeroLanes) l) e t.w)
    ∃ r t', exec i s = .next t' ∧
      Claims.Done s t' d.toNat g r 0
        ((lanesOf s.exec').foldl (fun v l => (List.range (64 / t.w)).foldl (fun v e => v ||| (el l e).2) v) 0) ∧
      ∀ l e, l < 32 → e < 64 / t.w → subEl (lane r l) e t.w = (el l e).1 % 2 ^ t.w) ∧
  (∀ (s : State) (i : Instr) (d : BitVec 7) (q : Src) (ws wd n : Nat) (f : Nat → Nat × W64 × W64) vs g,
    Claims.sliCvt i = some (d, q, ws, wd, n, f) → Claims.Ready s d.toNat [q] vs g →
    let el := fun l e => f (subEl (lane (vs.getD 0 zeroLanes) l) e ws)
    ∃ r t', exec i s = .next t' ∧
      Claims.Done s t' d.toNat g r
        ((lanesOf s.exec').foldl (fun v l => (List.range n).foldl (fun v e => v ||| (el l e).2.1) v) 0)
        ((lanesOf s.exec').foldl (fun v l => (List.range n).foldl (fun v e => v ||| (el l e).2.2) v) 0) ∧
      (∀ l e, l < 32 → e < n → subEl (lane r l) e wd = (el l e).1 % 2 ^ wd) ∧ ∀ l, l < 32 → (lane r l).toNat < 2 ^ (n * wd)) ∧
  ∀ (s : State) (i : Instr) (t : SliFmt) d q (w : BitVec 2) f, Claims.sli t i = some (d, q, w, f) → sliWidthOk w = false →
    exec i s = .next (s.trap 0x02 s.exec' s.wordAux)

open Sys2Proof.Claims in
/-- The permutations of the element row of a register (R209, R211): element `i` of the result from the rows of A and B. -/
def Sys2Proof.Claims.perm : Instr → Option (BitVec 7 × List Src × Nat × (Lanes → Lanes → Nat → Nat))
  | .xshfl d a b x y w => some (d, [⟨a.toNat, x == 1⟩, ⟨b.toNat, y == 1⟩], W w, fun A B i =>
      rowEl A (W w) (rowEl B (W w) i % (2048 / W w)))
  | .xswz d a k x w => if 64 / W w ≤ k.toNat % 8 then none else some (d, [⟨a.toNat, x == 1⟩], W w, fun A _ i =>
      rowEl A (W w) ((i / (64 / W w) ^^^ k.toNat / 8) * (64 / W w) + (i % (64 / W w) ^^^ k.toNat % 8)))
  | .xrot d a k x w => some (d, [⟨a.toNat, x == 1⟩], W w, fun A _ i => rowEl A (W w) ((i + k.toNat) % (2048 / W w)))
  | .xbcast d a k x w => if 64 / W w ≤ k.toNat % 8 then none else some (d, [⟨a.toNat, x == 1⟩], W w, fun A _ _ =>
      rowEl A (W w) (k.toNat / 8 * (64 / W w) + k.toNat % 8))
  | .xzip d a b x y w => some (d, [⟨a.toNat, x == 1⟩, ⟨b.toNat, y == 1⟩], W w, fun A B i =>
      if i % 2 = 0 then rowEl A (W w) (i / 2) else rowEl B (W w) (i / 2))
  | .xunzip d a b x y w => some (d, [⟨a.toNat, x == 1⟩, ⟨b.toNat, y == 1⟩], W w, fun A B i =>
      if i < 1024 / W w then rowEl A (W w) (2 * i) else rowEl B (W w) (2 * (i - 1024 / W w) + 1))
  | _ => none

/-- O25. The cross-lane permutations move elements between lanes whether or not the lanes read execute, and write the lanes
of EXEC; a sub-element that the width does not have takes cause 0x02. -/
def Obligations.PermutationResults : Prop :=
  (∀ (s : State) (i : Instr) (d : BitVec 7) (q : List Src) (w : Nat) f vs g, Claims.perm i = some (d, q, w, f) →
    Claims.Ready s d.toNat q vs g → ∃ r t, exec i s = .next t ∧ Claims.Done s t d.toNat g r 0 0 ∧
      ∀ k, k < 2048 / w → rowEl r w k = f (vs.getD 0 zeroLanes) (vs.getD 1 zeroLanes) k) ∧
  ∀ (s : State) (d a : BitVec 7) (k : BitVec 8) (x : BitVec 1) (w : BitVec 2), 64 / Claims.W w ≤ k.toNat % 8 →
    exec (.xswz d a k x w) s = .next (s.trap 0x02 s.exec' s.wordAux) ∧
    exec (.xbcast d a k x w) s = .next (s.trap 0x02 s.exec' s.wordAux)

open Sys2Proof.Claims in
/-- The integer reductions give every lane of EXEC, at each sub-element position, the sum modulo 2^w, the least or the
greatest of the executing lanes' values; the scan gives each executing lane the sum over the executing lanes up to it. -/
def Sys2Proof.Claims.IntegerReductions : Prop :=
  ∀ (s : State) (d a : BitVec 7) (x : BitVec 1) (w : BitVec 2) vs g, Claims.Ready s d.toNat [⟨a.toNat, x == 1⟩] vs g →
    let el := fun l e => U (lane (vs.getD 0 zeroLanes) l) e (W w)
    let sel := fun l e => S (lane (vs.getD 0 zeroLanes) l) e (W w)
    (∃ r t, exec (.xredadd d a x w) s = .next t ∧ Done s t d.toNat g r 0 0 ∧ ∀ l e, l < 32 → e < 64 / W w →
      U (lane r l) e (W w) = ((lanesOf s.exec').foldl (fun n k => n + el k e) 0) % 2 ^ W w) ∧
    (∃ r t, exec (.xredmin d a x w) s = .next t ∧ Done s t d.toNat g r 0 0 ∧ ∀ l e, l < 32 → e < 64 / W w → s.exec' ≠ 0 →
      (∃ k ∈ lanesOf s.exec', U (lane r l) e (W w) = el k e) ∧ ∀ k ∈ lanesOf s.exec', S (lane r l) e (W w) ≤ sel k e) ∧
    (∃ r t, exec (.xredmax d a x w) s = .next t ∧ Done s t d.toNat g r 0 0 ∧ ∀ l e, l < 32 → e < 64 / W w → s.exec' ≠ 0 →
      (∃ k ∈ lanesOf s.exec', U (lane r l) e (W w) = el k e) ∧ ∀ k ∈ lanesOf s.exec', sel k e ≤ S (lane r l) e (W w)) ∧
    ∃ r t, exec (.xscan d a x w) s = .next t ∧ Done s t d.toNat g r 0 0 ∧ ∀ l e, l < 32 → e < 64 / W w →
      inMask s.exec' l = true → U (lane r l) e (W w) =
        (((lanesOf s.exec').filter fun k => decide (k ≤ l)).foldl (fun n k => n + el k e) 0) % 2 ^ W w

/-- The floating-point reductions and scan combine the executing lanes' FP32 elements in the fixed pairwise tree of
R210, each step rounded once, and raise the flags of its steps. -/
def Sys2Proof.Claims.FloatReductions : Prop :=
  ∀ (s : State) (d a : BitVec 7) (x : BitVec 1) vs g, Claims.Ready s d.toNat [⟨a.toNat, x == 1⟩] vs g →
    let add := fun p q => fp32.round (sumNums [fp32.decode p, fp32.decode q])
    (∃ t, exec (.xfredaddF32 d a x) s = .next t ∧ Claims.Done s t d.toNat g
      (treeWord s.exec' 32 false add (vs.getD 0 zeroLanes)).1 (treeWord s.exec' 32 false add (vs.getD 0 zeroLanes)).2 0) ∧
    (∃ t, exec (.xfredmaxF32 d a x) s = .next t ∧ Claims.Done s t d.toNat g
      (treeWord s.exec' 32 false (pick32 Machine.Num.max) (vs.getD 0 zeroLanes)).1
      (treeWord s.exec' 32 false (pick32 Machine.Num.max) (vs.getD 0 zeroLanes)).2 0) ∧
    ∃ t, exec (.xfscanF32 d a x) s = .next t ∧ Claims.Done s t d.toNat g
      (treeWord s.exec' 32 true add (vs.getD 0 zeroLanes)).1 (treeWord s.exec' 32 true add (vs.getD 0 zeroLanes)).2 0

/-- O26. The reductions and scans. -/
def Obligations.Reductions : Prop := Claims.IntegerReductions ∧ Claims.FloatReductions

/-- The width of an xget or xput. -/
def Sys2Proof.Claims.getOf : Instr → Option (BitVec 9 × BitVec 7 × BitVec 5 × BitVec 3 × BitVec 1 × Nat)
  | .xgetW8 d a l u x => some (d, a, l, u, x, 8)
  | .xgetW16 d a l u x => some (d, a, l, u, x, 16)
  | .xgetW32 d a l u x => some (d, a, l, u, x, 32)
  | .xgetW64 d a l u x => some (d, a, l, u, x, 64)
  | _ => none

def Sys2Proof.Claims.putOf : Instr → Option (BitVec 7 × BitVec 9 × BitVec 5 × BitVec 3 × Nat)
  | .xputW8 d b l u => some (d, b, l, u, 8)
  | .xputW16 d b l u => some (d, b, l, u, 16)
  | .xputW32 d b l u => some (d, b, l, u, 32)
  | .xputW64 d b l u => some (d, b, l, u, 64)
  | _ => none

/-- O27. xget moves one element, zero-extended, to a scalar register; xput writes one element of one lane, executing or not,
and leaves every other bit as the register held it, zero in one that waited for its latch (the model's choice, log 81); xballot
gives the mask of the executing lanes whose value is not zero; a
sub-element that the width does not have takes cause 0x02. -/
def Obligations.ScalarLaneMoves : Prop :=
  (∀ (s : State) (i : Instr) (d : BitVec 9) a l u x w v g, Claims.getOf i = some (d, a, l, u, x, w) → s.cur.sl.kind = .execute →
    (64 / w ≤ u.toNat → exec i s = .next (s.trap 0x02 s.exec' s.wordAux)) ∧
    (u.toNat < 64 / w → ¬Claims.trapRegister s d.toNat → s.sources [⟨a.toNat, x == 1⟩] none = .ok ([v], g) →
      exec i s = .next ((s.setG fun _ => g).wr d.toNat
        (.ofNat 64 ((lane v l.toNat).toNat / 2 ^ (u.toNat * w) % 2 ^ w))).advance)) ∧
  (∀ (s : State) (i : Instr) (d : BitVec 7) b l u w, Claims.putOf i = some (d, b, l, u, w) → s.cur.sl.kind = .execute →
    (64 / w ≤ u.toNat → exec i s = .next (s.trap 0x02 s.exec' s.wordAux)) ∧
    (u.toNat < 64 / w → (s.cur.g.name d.toNat).isQueue = true → exec i s = .next (s.trap 0x03 s.exec' (.ofNat 64 d.toNat))) ∧
    (u.toNat < 64 / w → (s.cur.g.name d.toNat).isQueue = false → Claims.takes s.cur.g d.toNat →
      ∃ t y, exec i s = .next t ∧
      t.cur.g.name d.toNat = .mapped y ∧ (∀ k, k < 32 → k ≠ l.toNat → lane y k = lane (s.cur.g.kept d.toNat) k) ∧
      (∀ e, e < 64 / w → subEl (lane y l.toNat) e w = if e = u.toNat then (s.rd b.toNat).toNat % 2 ^ w
        else subEl (lane (s.cur.g.kept d.toNat) l.toNat) e w) ∧
      (∀ n, n ≠ d.toNat → t.cur.g.name n = s.cur.g.name n) ∧ (∀ n, t.rd n = s.rd n) ∧ OutsideSame s t ∧ SameBytes s t)) ∧
  ∀ (s : State) (d : BitVec 9) (a : BitVec 7) (x : BitVec 1) v g, s.cur.sl.kind = .execute → ¬Claims.trapRegister s d.toNat →
    s.sources [⟨a.toNat, x == 1⟩] none = .ok ([v], g) → ∃ m : W64,
      exec (.xballot d a x) s = .next ((s.setG fun _ => g).wr d.toNat m).advance ∧
      ∀ l, l < 64 → m.getLsbD l = (decide (l < 32) && inMask s.exec' l && lane v l != 0)

/-! ## Memory words (06, 07, 08, 14, 15) -/

/-- The operation that a word has issued on checked addresses `l`: the newest of the slice, with an access for each address
that none has performed yet, its flag raised; of memory only the accessed and dirty bits of the page-table entries that the
checks' walks passed (those of `u`) may differ, and no other agent's state; of the group no more than names and latches. -/
def Sys2Proof.Claims.IssuedOn (s u t : State) (k : OpKind) (f : Option Nat) (l : List Checked) (size : Nat)
    (data new : Nat → W64) : Prop :=
  (∃ o : Op, t.cur.sl.ops = s.cur.sl.ops ++ [o] ∧ o.kind = k ∧ o.flag = f ∧ o.exec = s.exec' ∧
    o.acc = accessesOf l size data new ∧ o.id = s.nextId ∧ o.seq = s.cur.sl.nextSeq) ∧
  (∀ n, kvGet 0 t.cur.sl.flags n = kvGet 0 s.cur.sl.flags n + if f = some n then 1 else 0) ∧ (∀ n, t.rd n = s.rd n) ∧
  GroupSameButNames s t ∧ t = { s with cur := t.cur, nextId := s.nextId + 1, views := u.views }

/-- The same, the walks being those of the checks. -/
def Sys2Proof.Claims.Issued (s t : State) (k : OpKind) (f : Option Nat) (l : List Checked) (need : Need) (size : Nat)
    (data new : Nat → W64) : Prop := Claims.IssuedOn s (s.markAll (pathsOf l) need) t k f l size data new

/-- A flag of the header that has room for one more operation. -/
def Sys2Proof.Claims.room (s : State) (f : Option Nat) : Prop := ∀ n, f = some n → kvGet 0 s.cur.sl.flags n < 63

/-- The lanes of EXEC at their addresses, all passing their checks. -/
def Sys2Proof.Claims.lanesPass (s : State) (spad : Bool) (n : Need) (a : Nat → W64) : Prop :=
  ∀ c ∈ s.checkLanes spad n a, ∃ r, c.res = .ok r

/-- O28. A vector load whose lanes pass takes its destination register and issues one load of 8 bytes for each lane of EXEC,
at the address its form computes: base plus the lane's offset, 256 × IMM8 + 8 × lane of a virtual address, or
128 × IMM8 + 4 × lane units of a scratchpad address. -/
def Obligations.VectorLoads : Prop :=
  ∀ (s : State) (d : BitVec 7) (b : BitVec 9) (f : BitVec 1) (g g' : Group), s.cur.sl.kind = .execute →
    Claims.room s (s.fsFlag f) → s.writeName g d.toNat 0 zeroLanes = .ok g' →
    (∀ (o : BitVec 7) (v : BitVec 1) (x : Lanes) (spad : Bool), s.sources [⟨o.toNat, v == 1⟩] (some d.toNat) = .ok ([x], g) →
      let a := fun l => s.rd b.toNat + ((lane x l).setWidth 32).signExtend 64
      Claims.lanesPass s spad .read a →
      ∃ t, exec (if spad then .vlds d b o v f else .vld d b o v f) s = .next t ∧
        Claims.Issued s t (.load (.vec d.toNat)) (s.fsFlag f) (s.checkLanes spad .read a) .read 8 (fun _ => 0) (fun _ => 0) ∧
        t.cur.g.v = g'.v) ∧
    ∀ (i : BitVec 8) (spad : Bool), g = s.cur.g →
      let a := fun l => s.rd b.toNat + .ofNat 64 (if spad then 128 * i.toNat + 4 * l else 256 * i.toNat + 8 * l)
      Claims.lanesPass s spad .read a →
      ∃ t, exec (if spad then .vldsu d b i f else .vldu d b i f) s = .next t ∧
        Claims.Issued s t (.load (.vec d.toNat)) (s.fsFlag f) (s.checkLanes spad .read a) .read 8 (fun _ => 0) (fun _ => 0) ∧
        t.cur.g.v = g'.v

/-- O29. A vector store whose lanes pass issues one store of 8 bytes for each lane of EXEC, with the lane's data, at the
address its form computes, and enters the store buffer. -/
def Obligations.VectorStores : Prop :=
  ∀ (s : State) (d : BitVec 7) (b : BitVec 9) (f : BitVec 1) (g : Group) (y : Lanes), s.cur.sl.kind = .execute →
    Claims.room s (s.fsFlag f) →
    (∀ (o : BitVec 7) (v : BitVec 1) (x : Lanes) (spad : Bool),
      s.sources [⟨o.toNat, v == 1⟩, ⟨d.toNat, false⟩] none = .ok ([x, y], g) →
      let a := fun l => s.rd b.toNat + ((lane x l).setWidth 32).signExtend 64
      Claims.lanesPass s spad .write a →
      ∃ t, exec (if spad then .vsts d b o v f else .vst d b o v f) s = .next t ∧
        Claims.Issued s t .store (s.fsFlag f) (s.checkLanes spad .write a) .write 8 (lane y) (fun _ => 0) ∧
        t.cur.g.v = g.v) ∧
    ∀ (i : BitVec 8) (spad : Bool), s.sources [⟨d.toNat, false⟩] none = .ok ([y], g) →
      let a := fun l => s.rd b.toNat + .ofNat 64 (if spad then 128 * i.toNat + 4 * l else 256 * i.toNat + 8 * l)
      Claims.lanesPass s spad .write a →
      ∃ t, exec (if spad then .vstsu d b i f else .vstu d b i f) s = .next t ∧
        Claims.Issued s t .store (s.fsFlag f) (s.checkLanes spad .write a) .write 8 (lane y) (fun _ => 0) ∧
        t.cur.g.v = g.v

/-- O30. The scalar accesses, once for the slice whatever EXEC holds: 8 bytes (4 for sldw) at S[base] + 8 × IMM6, aligned and
translated; a load's register is written when it completes, and a destination that belongs to trap handling takes
cause 0x03; a misaligned address takes cause 0x09 with the address and EXEC. -/
def Obligations.ScalarAccesses : Prop :=
  ∀ (s : State) (d b : BitVec 9) (i : BitVec 6) (f : BitVec 1), Claims.room s (s.fsFlag f) →
    let a := s.rd b.toNat + .ofNat 64 (8 * i.toNat)
    (∀ (w : Bool) r, ¬Claims.trapRegister s d.toNat → s.checkVa a (if w then 4 else 8) .read = .ok r →
      ∃ t, exec (if w then .sldw d b i f else .sld d b i f) s = .next t ∧
        Claims.Issued s t (.load (.scal d.toNat)) (s.fsFlag f) [⟨0, a, .ok r⟩] .read (if w then 4 else 8) (fun _ => 0)
          (fun _ => 0)) ∧
    (Claims.trapRegister s d.toNat → exec (.sld d b i f) s = .next (s.trap 0x03 s.exec' (.ofNat 64 d.toNat)) ∧
      exec (.sldw d b i f) s = .next (s.trap 0x03 s.exec' (.ofNat 64 d.toNat))) ∧
    (∀ r, s.checkVa a 8 .write = .ok r → ∃ t, exec (.sst d b i f) s = .next t ∧
      Claims.Issued s t .store (s.fsFlag f) [⟨0, a, .ok r⟩] .write 8 (fun _ => s.rd d.toNat) (fun _ => 0)) ∧
    (¬Claims.trapRegister s d.toNat → (a.toNat % 8 ≠ 0 → exec (.sld d b i f) s = .next (s.trap 0x09 s.exec' a .read)) ∧
      (a.toNat % 4 ≠ 0 → exec (.sldw d b i f) s = .next (s.trap 0x09 s.exec' a .read))) ∧
    (a.toNat % 8 ≠ 0 → exec (.sst d b i f) s = .next (s.trap 0x09 s.exec' a .write))

/-- O31. vstb: a store of the 256 bytes of the executing lanes at S[base], checked element by element against a tensor bound:
all in range, or a FLAG bound, stores the data as it is; a FLAG bound with an element out of range also adds 1 to the entry's
HITS, one addition at that dword, where the bound can be written, which follows the store and has no flag; a CLAMP bound
stores the clamped elements; a TRAP bound with an element out of range stores nothing and takes cause 0x0F with the failing
lanes and the address of the lowest. -/
def Obligations.BoundedStore : Prop :=
  ∀ (s : State) (d : BitVec 7) (b : BitVec 9) (n : BitVec 6) (f : BitVec 1) (y : Lanes) (g : Group) (bd : Bound) ps,
    s.cur.sl.kind = .execute → Claims.room s (s.fsFlag f) → s.sources [⟨d.toNat, false⟩] none = .ok ([y], g) →
    let a := fun l => s.rd b.toNat + .ofNat 64 (8 * l)
    let l := s.checkLanes false .write a
    let u := s.markAll (pathsOf l) .write
    Claims.lanesPass s false .write a → u.readBound n.toNat true = .ok (bd, ps) →
    let w := bd.fmt.width
    let bad := fun l => bd.none' || (List.range (64 / w)).any fun k => !bd.has (subEl (lane y l) k w)
    let out := ∃ k, k < 32 ∧ inMask s.exec' k = true ∧ bad k = true
    (bd.act ≠ .trap ∨ ¬out →
      ∃ (t : State) (o : Op) (r : List Op), exec (.vstb d b n f) s = .next t ∧ t.cur.sl.ops = s.cur.sl.ops ++ o :: r ∧
        (¬(bd.act = .flag ∧ out) → r = []) ∧
        (bd.act = .flag → out → ∃ h : Op, r = [h] ∧ h.kind = .atomic .add true .nowhere 0x0F false ∧ h.flag = none ∧
          (∀ x ∈ h.acc, x.va = s.boundVa n.toNat + 24 ∧ x.data = 1 ∧ x.new = .ofNat 64 o.id) ∧
          ∀ q, (u.markAll ps .read).checkVa (s.boundVa n.toNat + 24) 8 .both = .ok q → ∃ x, h.acc = [x]) ∧
        o.kind = .store ∧ o.flag = s.fsFlag f ∧ o.acc = accessesOf l 8 (fun k => if bd.act = .clamp then
          mapEls w fun e => bd.clamp (subEl (lane y k) e w) else lane y k) (fun _ => 0) ∧
        t.cur.g.v = g.v ∧ ∀ k, t.rd k = s.rd k) ∧
    (bd.act = .trap → out → ∃ m x,
      exec (.vstb d b n f) s = .next (s.trap 0x0F m x) ∧ (∀ k, k < 32 → inMask m k = (inMask s.exec' k && bad k)) ∧
      ∃ k, k < 32 ∧ x = a k ∧ inMask m k = true ∧ ∀ j, j < k → inMask m j = false)

/-- O32. vpop: an entry that has arrived good leaves the operand queue and its data goes to the destination in the lanes of
EXEC, and a wait of the word ends; an entry still to arrive, or an empty queue whose access slice runs, deschedules the
slice, the word counting on its flag; a failed head traps with its cause and stays, and is read again once that trap has
returned; an empty queue whose access slice has ended takes cause 0x13 with the queue; a destination that the bank has no
more room for takes 0x03 before all of these. -/
def Obligations.OperandPop : Prop :=
  ∀ (s : State) (d : BitVec 7) (q : BitVec 2) (f : BitVec 1), s.cur.sl.kind = .execute → Claims.room s (s.fsFlag f) →
    (s.cur.g.full d.toNat = true → exec (.vpop d q f) s = .next (s.trap 0x03 s.exec' (.ofNat 64 d.toNat))) ∧
    (s.cur.g.full d.toNat = false →
    (∀ e l g, kvGet [] s.cur.g.oq q.toNat = e :: l → e.arrived = true → e.cause = 0 →
      s.writeName s.cur.g d.toNat s.exec' e.data = .ok g →
      exec (.vpop d q f) s = .next ({ s with cur :=
        { g := { g with oq := kvPut [] g.oq q.toNat l }, sl := s.cur.sl.clearWait } } : State).advance) ∧
    (∀ e l, kvGet [] s.cur.g.oq q.toNat = e :: l → e.arrived = false →
      exec (.vpop d q f) s = .next (s.setWait (s.fsFlag f) (.opQueue q.toNat))) ∧
    (∀ e l, kvGet [] s.cur.g.oq q.toNat = e :: l → e.arrived = true → e.cause ≠ 0 → e.again = false →
      ∃ u : State, exec (.vpop d q f) s = .next (u.trapTold e.cause s.exec' e.addr) ∧ u.views = s.views) ∧
    (∀ e l, kvGet [] s.cur.g.oq q.toNat = e :: l → e.arrived = true → e.cause ≠ 0 → e.again = true →
      (s.reload e = none → exec (.vpop d q f) s = .next s) ∧
      ∀ x ps, s.reload e = some (x, ps) →
        let u := s.markAll ps .read
        (∀ g, x.cause = 0 → u.writeName u.cur.g d.toNat s.exec' x.data = .ok g →
          exec (.vpop d q f) s = .next ({ u with cur :=
            { g := { g with oq := kvPut [] g.oq q.toNat l }, sl := u.cur.sl.clearWait } } : State).advance) ∧
        (x.cause ≠ 0 → ∃ v : State, exec (.vpop d q f) s = .next (v.trap x.cause s.exec' x.addr) ∧ v.views = u.views)) ∧
    (kvGet [] s.cur.g.oq q.toNat = [] → exec (.vpop d q f) s =
      .next (if s.cur.g.accessRuns then s.setWait (s.fsFlag f) (.opQueue q.toNat)
        else s.clearWait.trap 0x13 s.exec' (.ofNat 64 q.toNat))))

/-- What an AT word names: operation, whether it fetches, destination, address, scope, width, last-read bit, flag selector. -/
def Sys2Proof.Claims.at' : Instr → Option (AtomicOp × Bool × BitVec 7 × BitVec 7 × BitVec 5 × BitVec 1 × BitVec 1 × BitVec 1)
  | .aadd d a c w x f => some (.add, true, d, a, c, w, x, f)
  | .aand d a c w x f => some (.and, true, d, a, c, w, x, f)
  | .aor d a c w x f => some (.or, true, d, a, c, w, x, f)
  | .axor d a c w x f => some (.xor, true, d, a, c, w, x, f)
  | .amin d a c w x f => some (.min, true, d, a, c, w, x, f)
  | .amax d a c w x f => some (.max, true, d, a, c, w, x, f)
  | .aswap d a c w x f => some (.swap, true, d, a, c, w, x, f)
  | .acas d a c w x f => some (.cas, true, d, a, c, w, x, f)
  | .redadd d a c w x f => some (.add, false, d, a, c, w, x, f)
  | .redmin d a c w x f => some (.min, false, d, a, c, w, x, f)
  | .redmax d a c w x f => some (.max, false, d, a, c, w, x, f)
  | .fredadd d a c w x f => some (.fadd, false, d, a, c, w, x, f)
  | _ => none

/-- O33. The atomic words: each lane of EXEC one access of its width with its operand (and, for acas, its new value), checked
for reading and writing; the fetching members take their destination and deliver the old values at completion, the
reductions deliver nothing; the scope names the agents whose application completes the word. -/
def Obligations.AtomicWords : Prop :=
  ∀ (s : State) (i : Instr) op fetch (d a : BitVec 7) (c : BitVec 5) (w x f : BitVec 1) vs (g g' : Group) agents sys,
    Claims.at' i = some (op, fetch, d, a, c, w, x, f) → s.cur.sl.kind = .execute → Claims.room s (s.fsFlag f) →
    let two := op = .cas ∧ w = 1
    (two → d ≠ 127 ∧ (s.cur.g.name (d.toNat + 1)).isQueue = false) → (fetch = true → (s.cur.g.name d.toNat).isQueue = false) →
    s.sources ([⟨a.toNat, x == 1⟩, ⟨d.toNat, false⟩] ++ if two then [⟨d.toNat + 1, false⟩] else [])
      (if fetch then some d.toNat else none) = .ok (vs, g) →
    (if fetch then s.writeName g d.toNat 0 zeroLanes = .ok g' else g' = g) →
    let size := if w = 1 then 8 else 4
    let l := (lanesOf s.exec').map fun k =>
      (⟨k, lane (vs.getD 0 zeroLanes) k, s.checkVa (lane (vs.getD 0 zeroLanes) k) size .both⟩ : Checked).hostOnly op fetch
    (∀ k ∈ l, ∃ r, k.res = .ok r) → s.scope c.toNat = .ok (agents, sys) →
    let v := fun k => lane (vs.getD 1 zeroLanes) k
    ∃ t, exec i s = .next t ∧ t.cur.g.v = g'.v ∧
      Claims.IssuedOn s ((s.markAll (pathsOf l) .both).markScope c.toNat) t
        (.atomic op (w == 1) (if fetch then .vec d.toNat else .nowhere) agents sys) (s.fsFlag f) l size
        (fun k => if w = 1 then v k else .ofNat 64 ((v k).toNat % 2 ^ 32))
        (fun k => if two then lane (vs.getD 2 zeroLanes) k else if op = .cas then v k >>> 32 else 0)

/-- Scopes: 0 to 2 the issuing die, 3 the four dies, 4 the four dies with the destination packages, 5 the dies and the
host agent; a table entry names the dies of its cores where it is usable and holds the issuing core, and takes cause 0x13
with its number where it is not; an entry that cannot be read takes the read's cause with its address. -/
def Sys2Proof.Claims.ScopeAgents : Prop :=
  ∀ (s : State),
    (∀ n, n ≤ 2 → s.scope n = .ok (dieBit s.die, false)) ∧ s.scope 3 = .ok (0x0F, false) ∧ s.scope 4 = .ok (0x0F, true) ∧
    s.scope 5 = .ok (0x1F, false) ∧
    (∀ n e, 6 ≤ n → s.scopeRaw n = .error e → s.scope n = .fail e s.exec' (s.scopeVa n)) ∧
    ∀ n (raw : BitVec 256) ps, 6 ≤ n → s.scopeRaw n = .ok (raw, ps) →
      s.scope n = if raw.toNat / 2 ^ 200 = 0 ∧ raw.toNat / 2 ^ 192 % 256 = 1 ∧ raw.toNat / 2 ^ s.coreNo % 2 = 1
        then .ok (diesOf (raw.toNat % 2 ^ 192), false) else .trap 0x13 s.exec' (.ofNat 64 n)

/-- A fence is an operation that the word issues and does not wait for: release, acquire or both by KIND, with the
agents of its scope, and the queues of qfence. -/
def Sys2Proof.Claims.FenceKinds : Prop :=
  ∀ (s : State) (c : BitVec 5) (k : BitVec 2) (q : BitVec 8) (f : BitVec 1) agents sys, kindOk k = true →
    s.scope c.toNat = .ok (agents, sys) → Claims.room s (s.fsFlag f) →
    let kind := fun q => OpKind.fence (k == 1 || k == 2) (k == 0 || k == 2) agents sys q
    exec (.fence c k f) s = .next ((s.markScope c.toNat).issue (kind 0) (s.fsFlag f) []).advance.settle ∧
    exec (.qfence c k q f) s = .next ((s.markScope c.toNat).issue (kind q) (s.fsFlag f) []).advance.settle ∧
    (kindOk k = true ∧ ∀ k' : BitVec 2, kindOk k' = false → exec (.fence c k' f) s = .next (s.trap 0x02 s.exec' s.wordAux) ∧
      exec (.qfence c k' q f) s = .next (s.trap 0x02 s.exec' s.wordAux))

/-- O34. Scopes, and the fences that name them.  That an entry of the scope table which cannot be read takes the cause of that
read, with its address, is the model's choice (log 31). -/
def Obligations.FenceWords : Prop := Claims.ScopeAgents ∧ Claims.FenceKinds

/-! ## Nested frames (17) -/

/-- fld, fldb and flda: the operand names slot SLOT of the frame of its depth; a value in the current frame's publish
buffer is delivered at once, any other slot by a load of its place; flda gives the handle plus 8 × SLOT. -/
def Sys2Proof.Claims.FrameLoads : Prop :=
  ∀ (s : State) (p : BitVec 2) (k : BitVec 10) (r : BitVec 9) (f : BitVec 1) (fr : Nat) (x : Frame),
    s.cur.sl.kind = .execute → Claims.room s (s.fsFlag f) → s.frameOperand p.toNat k.toNat = .ok (fr, x) →
    (¬Claims.trapRegister s r.toNat →
      exec (.flda p k r f) s = .next (s.wr r.toNat (s.disp p.toNat + .ofNat 64 (8 * k.toNat))).advance ∧
      (∀ v, s.buffered fr k.toNat = some v → exec (.fld p k r f) s = .next (s.wr r.toNat v).advance) ∧
      (∀ c, s.buffered fr k.toNat = none → (s.slotAccess fr x k.toNat .read).res = .ok c →
        ∃ t, exec (.fld p k r f) s = .next t ∧ Claims.Issued s t (.load (.scal r.toNat)) (s.fsFlag f)
          [s.slotAccess fr x k.toNat .read] .read 8 (fun _ => 0) (fun _ => 0))) ∧
    (r.toNat ≤ 127 → ∀ g, s.writeName s.cur.g r.toNat 0 zeroLanes = .ok g →
      (∀ v, s.buffered fr k.toNat = some v →
        exec (.fldb p k r f) s = .next ({ s with cur := { s.cur with g := g.fill r.toNat s.exec' (tab fun _ => v) } } : State).advance) ∧
      ∀ c, s.buffered fr k.toNat = none → (s.slotAccess fr x k.toNat .read).res = .ok c →
        ∃ t, exec (.fldb p k r f) s = .next t ∧ t.cur.g.v = g.v ∧ Claims.Issued s t (.load (.bcast r.toNat)) (s.fsFlag f)
          [s.slotAccess fr x k.toNat .read] .read 8 (fun _ => 0) (fun _ => 0))

/-- O35. fst to the current frame issues a store of the slot, to an outer frame, once its place has passed the checks of a
store, it enters the current frame's publish buffer as that slot's youngest value; famo issues an atomic addition on the
slot, after the publication of the current frame's buffer, once that may be made, where that holds the slot; slots 0 and 1 of
a frame that holds a piece take cause 0x13. -/
def Obligations.FrameWrites : Prop :=
  ∀ (s : State) (p : BitVec 2) (k : BitVec 10) (r : BitVec 9) (f : BitVec 1) (fr : Nat) (x : Frame),
    s.cur.sl.kind = .execute → Claims.room s (s.fsFlag f) → s.frameOperand p.toNat k.toNat = .ok (fr, x) →
    ((x.piece.isSome = true ∧ k.toNat ≤ 1) → exec (.fst p k r f) s = .next (s.trap 0x13 s.exec' (.ofNat 64 k.toNat)) ∧
      (¬Claims.trapRegister s r.toNat → exec (.famo p k r f) s = .next (s.trap 0x13 s.exec' (.ofNat 64 k.toNat)))) ∧
    (¬(x.piece.isSome = true ∧ k.toNat ≤ 1) →
      (∀ c, s.deepest = some p.toNat → (s.slotAccess fr x k.toNat .write).res = .ok c →
        ∃ t, exec (.fst p k r f) s = .next t ∧ Claims.Issued s t .store (s.fsFlag f) [s.slotAccess fr x k.toNat .write] .write 8
          (fun _ => s.rd r.toNat) (fun _ => 0)) ∧
      (∀ w y c, s.deepest ≠ some p.toNat → s.current = some (w, y) → (s.slotAccess fr x k.toNat .write).res = .ok c →
        exec (.fst p k r f) s = .next ((s.markAll (pathsOf [s.slotAccess fr x k.toNat .write]) .write).modFrame w fun y =>
          { y with buf := bufPut y.buf fr k.toNat (s.rd r.toNat) }).advance) ∧
      ∀ c, ¬Claims.trapRegister s r.toNat →
        (s.buffered fr k.toNat = none → (s.slotAccess fr x k.toNat .both).res = .ok c →
          ∃ t, exec (.famo p k r f) s = .next t ∧ Claims.Issued s t (.atomic .add true (.scal r.toNat) 0x0F false) (s.fsFlag f)
            [s.slotAccess fr x k.toNat .both] .both 8 (fun _ => s.rd r.toNat) (fun _ => 0)) ∧
        ∀ v w y, s.buffered fr k.toNat = some v → s.current = some (w, y) → s.cur.sl.released s.cur.sl.nextSeq = true →
          s.publishable w = true → let u := s.publish w
          (u.slotAccess fr x k.toNat .both).res = .ok c →
          ∃ t, exec (.famo p k r f) s = .next t ∧ Claims.Issued u t (.atomic .add true (.scal r.toNat) 0x0F false) (s.fsFlag f)
            [u.slotAccess fr x k.toNat .both] .both 8 (fun _ => s.rd r.toNat) (fun _ => 0))

/-- A frame operand of a depth without a frame takes cause 0x10 with reason 0, of a handle that names no frame or another
depth reason 4, of a slot past the frame's size reason 3. -/
def Sys2Proof.Claims.FrameOperandTraps : Prop :=
  ∀ (s : State) (p k : Nat),
    (s.disp p = 0 → s.frameOperand p k = .trap 0x10 s.exec' (frameReport 0 p)) ∧
    (s.disp p ≠ 0 → s.frameOf (s.disp p) = none → s.frameOperand p k = .trap 0x10 s.exec' (frameReport 4 p)) ∧
    ∀ x, s.disp p ≠ 0 → s.frameOf (s.disp p) = some x →
      (handleDepth (s.disp p) ≠ p → s.frameOperand p k = .trap 0x10 s.exec' (frameReport 4 p)) ∧
      (handleDepth (s.disp p) = p → s.frameOperand p k =
        if x.2.size ≤ k then .trap 0x10 s.exec' (frameReport 3 p) else .ok x)

/-- O36. Frame operands: their reads, and their traps. -/
def Obligations.FrameReads : Prop := Claims.FrameLoads ∧ Claims.FrameOperandTraps

/-- The slots of frame `f`, made in state `v` under handle `h` with `size` slots, hold the data `vs`, zero past them, in `u`:
in a core's frame area in the frame, in the pool by the writes of zeros and then of the data at their homes. -/
def Sys2Proof.Claims.filled (v u : State) (f : Nat) (h : W64) (size : Nat) (vs : List W64) : Prop :=
  (handleSpf h = true → ∃ x, alFind u.frames f = some x ∧ ∀ k, k < size → kvGet 0 x.slots k = vs.getD k 0) ∧
  (handleSpf h = false → u.views = (((List.range size).foldl (fun (s : State) k => s.setSlot f k 0)
    { v with frames := u.frames, tick := v.tick + 1, nextId := v.nextId + 1 }).fillSlots f vs).views)

/-- fent, where the group owns no frame from its depth up and the frames it gives up may go: a frame of SIZE slots, the
group's own, at depth 1 to 3 with a handle of that depth in the display register, the registers past it cleared; its slots
are zero, or the dwords at S[SA].  No place for it takes cause 0x10 with reason 1, a frame of the group's own from that depth
up, and depth 0, reason 2; initial data that cannot be read its own cause, and at an address that is no multiple of 8 cause
0x09 before all of these. -/
def Sys2Proof.Claims.FrameEntry : Prop :=
  ∀ (s : State) (p : BitVec 2) (z : BitVec 10) (r : BitVec 9) (t : Team), s.cur.sl.kind = .execute → Claims.room s s.setaFlag →
    s.team? = some t →
    ((s.rd r.toNat).toNat % 8 ≠ 0 → exec (.fent p z r) s = .next (s.trap 0x09 s.exec' (s.rd r.toNat))) ∧
    ((s.rd r.toNat).toNat % 8 = 0 →
    exec (.fent 0 z r) s = .next (s.trap 0x10 s.exec' (frameReport 2 0)) ∧
    (p ≠ 0 → s.ownsFrom p.toNat = true → exec (.fent p z r) s = .next (s.trap 0x10 s.exec' (frameReport 2 p.toNat))) ∧
    (p ≠ 0 → s.ownsFrom p.toNat = false → s.mayGiveUp (s.heldFrom p.toNat) = true →
      let va := s.rd r.toNat
      (s.placeFrame t.core t.cidx s.cur.g.ctx p.toNat (z.toNat + 1) = none →
        exec (.fent p z r) s = .next (s.trap 0x10 s.exec' (frameReport 1 p.toNat))) ∧
      ∀ h, s.placeFrame t.core t.cidx s.cur.g.ctx p.toNat (z.toNat + 1) = some h →
        (∀ c m x, va ≠ 0 → s.readInit va (z.toNat + 1) = .trap c m x → exec (.fent p z r) s = .next (s.trap c m x)) ∧
        (va ≠ 0 → s.readInit va (z.toNat + 1) = .stall → exec (.fent p z r) s = .next s) ∧
        ∀ vs ps, (if va = 0 then (vs, ps) = ([], []) else s.readInit va (z.toNat + 1) = .ok (vs, ps)) →
          ∃ u, exec (.fent p z r) s = .next u ∧ kvGet 0 u.cur.g.d p.toNat = h ∧
            (∀ k, k < p.toNat → kvGet 0 u.cur.g.d k = kvGet 0 s.cur.g.d k) ∧
            (∀ k, p.toNat < k → k ≤ 3 → kvGet 0 u.cur.g.d k = 0) ∧ u.cur.g.v = s.cur.g.v ∧ (∀ n, u.rd n = s.rd n) ∧
            (s.cur.g.holds = 0 → (∀ e ∈ s.frames, e.1 < s.nextId) →
              ∃ x, alFind u.frames s.nextId = some x ∧ x.handle = h ∧ x.size = z.toNat + 1 ∧ x.count = 1 ∧
                x.owner = .group s.cur.g.id ∧ x.link = s.linkFor p.toNat ∧ x.tcb = s.cur.g.tcb ∧ x.buf = [] ∧
                Claims.filled (s.markAll ps .read) u s.nextId h (z.toNat + 1) vs)))

/-- fexit of a frame that the group owns, with none of its own past it, once the frames it gives up may go: the display
registers from its depth up take what it saved.  With S[SA] not 0 its slots are stored at consecutive dwords there, once
they may be read and the slice has no write under way, and the group leaves the frame in an operation behind the store
that counts on SETA.  A frame of another's, or one below a frame of the group's own, takes cause 0x10 with reason 2; an
S[SA] that is no multiple of 8 takes 0x09 first. -/
def Sys2Proof.Claims.FrameExit : Prop :=
  ∀ (s : State) (p : BitVec 2) (r : BitVec 9) (f : Nat) (x : Frame), s.cur.sl.kind = .execute → Claims.room s s.setaFlag → p ≠ 0 →
    s.disp p.toNat ≠ 0 → s.frameAt p.toNat = .ok (f, x) →
    ((s.rd r.toNat).toNat % 8 ≠ 0 → exec (.fexit p r) s = .next (s.trap 0x09 s.exec' (s.rd r.toNat))) ∧
    ((s.rd r.toNat).toNat % 8 = 0 →
    (s.owns x = false ∨ s.ownsFrom (p.toNat + 1) = true →
      exec (.fexit p r) s = .next (s.trap 0x10 s.exec' (frameReport 2 p.toNat))) ∧
    (s.owns x = true → s.ownsFrom (p.toNat + 1) = false → s.mayGiveUp (f :: s.heldFrom p.toNat) = true →
      let left := fun u : State => (∀ k, k < p.toNat → kvGet 0 u.cur.g.d k = kvGet 0 s.cur.g.d k) ∧
        (∀ k, p.toNat ≤ k → k ≤ 3 → kvGet 0 u.cur.g.d k = kvGet 0 (x.saved.getD []) k) ∧ u.cur.g.v = s.cur.g.v ∧
        ∀ n, u.rd n = s.rd n
      let va := s.rd r.toNat
      (va = 0 → ∃ u, exec (.fexit p r) s = .next u ∧ left u ∧ u.cur.sl.ops = s.cur.sl.ops) ∧
      (va ≠ 0 → s.cur.sl.writesOut = false → (∀ k, k < x.size → s.slotBad f k = false) →
        let l := (List.range x.size).map fun k =>
          (⟨k, va + .ofNat 64 (8 * k), s.checkVa (va + .ofNat 64 (8 * k)) 8 .write⟩ : Checked)
        let src := (List.range x.size).map fun k => s.slotAccess f x k .read
        (∀ c ∈ src ++ l, ∃ q, c.res = .ok q) → s.slotsReadable src = true →
        ∃ u o e, exec (.fexit p r) s = .next u ∧ left u ∧ u.cur.sl.ops = s.cur.sl.ops ++ [o, e] ∧ o.kind = .store ∧
          o.flag = none ∧ o.acc = accessesOf l 8 (s.getSlot f) (fun _ => 0) ∧ e.kind = .leave f ∧ e.flag = s.setaFlag ∧
          e.acc = [])))

/-- fdisp of a handle that names a frame of the depth, where the group owns none from there up: the display shows the frame
and the frames of its static chain at the depths below, and the group holds a reference of the frame and of no other; a
handle that names no frame of the depth takes cause 0x10 with reason 4.  fpub of a frame that the group owns asks for the
publication of what the frame has buffered; of another's takes reason 2. -/
def Sys2Proof.Claims.FrameDisplay : Prop :=
  ∀ (s : State) (p : BitVec 2) (r : BitVec 9), s.cur.sl.kind = .execute → Claims.room s s.setaFlag → p ≠ 0 →
    (∀ f x, s.frameOf (s.rd r.toNat) = some (f, x) → handleDepth (s.rd r.toNat) = p.toNat → s.ownsFrom p.toNat = false →
      s.mayGiveUp (s.heldFrom 0) = true →
      ∃ u, exec (.fdisp p r) s = .next u ∧ kvGet 0 u.cur.g.d p.toNat = s.rd r.toNat ∧
        u.cur.g.holds = .ofNat 4 (2 ^ p.toNat) ∧ (∀ k, p.toNat < k → k ≤ 3 → kvGet 0 u.cur.g.d k = 0) ∧
        (s.cur.g.holds = 0 → (∀ k, k < p.toNat → kvGet 0 u.cur.g.d k = kvGet 0 (s.chain 4 x.link []) k) ∧
          alFind u.frames f = (alFind s.frames f).map fun y => { y with count := y.count + 1 }) ∧
        u.cur.g.v = s.cur.g.v ∧ ∀ n, u.rd n = s.rd n) ∧
    (s.frameOf (s.rd r.toNat) = none → exec (.fdisp p r) s = .next (s.trap 0x10 s.exec' (frameReport 4 p.toNat))) ∧
    (∀ f x, s.frameOf (s.rd r.toNat) = some (f, x) → handleDepth (s.rd r.toNat) ≠ p.toNat →
      exec (.fdisp p r) s = .next (s.trap 0x10 s.exec' (frameReport 4 p.toNat))) ∧
    ∀ f x, s.frameAt p.toNat = .ok (f, x) → exec (.fpub p) s = .next (
      if s.owns x then (if x.buf = [] then s else s.issue (.publish f) s.setaFlag []).advance
      else s.trap 0x10 s.exec' (frameReport 2 p.toNat))

/-- O37. The words that make, leave, show and publish frames. -/
def Obligations.FrameWords : Prop := Claims.FrameEntry ∧ Claims.FrameExit ∧ Claims.FrameDisplay

/-! ## Synchronisation (08, 19) -/

/-- A word may count on its flag: the flag has room, or the word waits and counts already. -/
def Sys2Proof.Claims.mayCount (s : State) (f : Option Nat) : Prop := s.cur.sl.wait.isSome = true ∨ Claims.room s f

/-- A synchronising word of a group's own stream, of a group of team `t`, that may count on its flag. -/
structure Sys2Proof.Claims.InTeam (s : State) (f : BitVec 1) (t : Team) : Prop where
  stream : s.cur.sl.kind = .execute
  room   : Claims.mayCount s (s.fsFlag f)
  team   : s.team? = some t

/-- A barrier after an arrival of group `g` with payload operation `o` (0 none) and contribution `v`, `sig` if by barsig. -/
def Sys2Proof.Claims.arrived (x : Barrier) (g o : Nat) (v : W64) (sig : Bool) : Barrier :=
  { x with
    op := if o = 0 then x.op else o
    pay := if o = 0 then x.pay else if x.op = 0 then v else if o = 1 then x.pay &&& v else if o = 2 then x.pay ||| v else x.pay + v
    arr := x.arr ||| .ofNat 32 (2 ^ g), sig := if sig then x.sig ||| .ofNat 32 (2 ^ g) else x.sig, cnt := x.cnt + 1 }

/-- The barrier when its last group has arrived: the next phase, nobody arrived, the signals released. -/
def Sys2Proof.Claims.nextPhase (x : Barrier) : Barrier :=
  { x with rel := x.rel ||| x.sig, arr := 0, sig := 0, cnt := 0, op := 0, pay := 0, phase := x.phase + 1 }

/-- The barrier refuses the arrival: the group has arrived in this phase, or the operation is not the phase's. -/
def Sys2Proof.Claims.refused (x : Barrier) (g o : Nat) : Prop := x.arr.getLsbD g = true ∨ (o ≠ 0 ∧ x.op ≠ 0 ∧ o ≠ x.op)

/-- The state in which the team's barrier `b` stands as `x`, its waiting groups given `v`. -/
def Sys2Proof.Claims.release (s : State) (b : Nat) (x : Barrier) (v : W64) : State :=
  { s.modTeam (·.setBar b (Claims.nextPhase x)) with others := s.others.map (·.receive s.cur.g.team b v) }

/-- The end of a bar whose result is `v`: without an operation the group goes on with an acquire; with one the result is
first written in the lanes of EXEC, and where no register can be had yet the group keeps it and waits. -/
def Sys2Proof.Claims.barEnds (u : State) (d : BitVec 7) (o : BitVec 3) (f : Option Nat) (v : W64)
    (out : Host.Outcome State Fault Refusal) : Prop :=
  (o = 0 → out = .next u.complete'.acquire) ∧
  (o ≠ 0 → (∀ g, u.writeName u.cur.g d.toNat u.exec' (tab fun _ => v) = .ok g → out = .next (u.setG fun _ => g).complete'.acquire) ∧
    (u.writeName u.cur.g d.toNat u.exec' (tab fun _ => v) = .stall → out = .next (u.setWait f (.released v))))

/-- bar: it waits for the release it implies; then an arrival short of the expected number blocks the group, and the last
one takes the barrier to its next phase, gives every blocked group the combined payload (0 without one), and ends; a
blocked group ends when it has been given the result.  An arrival that the barrier refuses, and an index past the kernel's
barriers, take cause 0x13 with the barrier; an operand queue for VD, and a name the bank has no more room for, take 0x03
and a reserved operation 0x02. -/
def Sys2Proof.Claims.BarrierArrival : Prop :=
  ∀ (s : State) (t : Team) (d : BitVec 7) (b : BitVec 9) (o : BitVec 3) (f : BitVec 1), Claims.InTeam s f t →
    let fl := s.fsFlag f
    let here := s.cur.sl.wait
    let new := here ≠ some (.barrier b.toNat true) ∧ (∀ k, here ≠ some (.barrier k true)) ∧ ∀ v, here ≠ some (.released v)
    let x := t.bar b.toNat
    let y := Claims.arrived x s.cur.g.gidx o.toNat (aopValue o.toNat s.exec' (s.cur.g.val d.toNat)) false
    let v := if y.op = 0 then 0 else y.pay
    (4 < o.toNat ∨ (o = 0 ∧ d ≠ 0) → exec (.bar d b o f) s = .next (s.trap 0x02 s.exec' s.wordAux)) ∧
    (o.toNat ≤ 4 → (o = 0 → d = 0) →
      (o ≠ 0 → (s.cur.g.name d.toNat).isQueue = true ∨ s.cur.g.full d.toNat = true →
        exec (.bar d b o f) s = .next (s.trap 0x03 s.exec' (.ofNat 64 d.toNat))) ∧
      ((o ≠ 0 → (s.cur.g.name d.toNat).isQueue = false ∧ s.cur.g.full d.toNat = false) →
        (t.nbars ≤ b.toNat → exec (.bar d b o f) s = .next (s.trap 0x13 s.exec' (.ofNat 64 b.toNat))) ∧
        (b.toNat < t.nbars →
          (new → s.released (dieBit s.die) = false → exec (.bar d b o f) s = .next (s.setWait fl (.barrier b.toNat false))) ∧
          (new → s.released (dieBit s.die) = true →
            (Claims.refused x s.cur.g.gidx o.toNat → exec (.bar d b o f) s = .next (s.clearWait.trap 0x13 s.exec' (.ofNat 64 b.toNat))) ∧
            (¬Claims.refused x s.cur.g.gidx o.toNat → y.cnt ≠ y.exp →
              exec (.bar d b o f) s = .next ((s.modTeam (·.setBar b.toNat y)).setWait fl (.barrier b.toNat true))) ∧
            (¬Claims.refused x s.cur.g.gidx o.toNat → y.cnt = y.exp →
              Claims.barEnds (Claims.release s b.toNat y v) d o fl v (exec (.bar d b o f) s))) ∧
          (∀ k, here = some (.barrier k true) → exec (.bar d b o f) s = .next s) ∧
          ∀ w, here = some (.released w) → Claims.barEnds s d o fl w (exec (.bar d b o f) s))))

/-- The words beside bar.  barinit sets the expected number, 1 to 32, of a barrier nobody has arrived at; barsig arrives
without blocking, after the release it implies, and the last arrival releases; barwait takes the release of this group's own
signal, waits for it, and traps where there is none; an index past the kernel's barriers takes cause 0x13 with it. -/
def Sys2Proof.Claims.BarrierWords : Prop :=
  ∀ (s : State) (t : Team) (r b : BitVec 9) (f : BitVec 1), Claims.InTeam s f t →
    let fl := s.fsFlag f
    let x := t.bar b.toNat
    let g := s.cur.g.gidx
    let mine : Mask := .ofNat 32 (2 ^ g)
    let bad := s.trap 0x13 s.exec' (.ofNat 64 b.toNat)
    let late := s.clearWait.trap 0x13 s.exec' (.ofNat 64 b.toNat)
    let set := (s.rd r.toNat).toNat ≠ 0 ∧ (s.rd r.toNat).toNat ≤ 32
    (¬set → exec (.barinit r b f) s = .next (s.trap 0x02 s.exec' (s.rd r.toNat))) ∧
    (set → t.nbars ≤ b.toNat → exec (.barinit r b f) s = .next bad) ∧
    (t.nbars ≤ b.toNat → exec (.barsig b f) s = .next bad ∧ exec (.barwait b f) s = .next bad) ∧
    (b.toNat < t.nbars →
      (set → (x.cnt = 0 ∧ x.arr = 0 ∧ x.rel = 0) → exec (.barinit r b f) s =
        .next (s.modTeam (·.setBar b.toNat { x with exp := (s.rd r.toNat).toNat })).advance) ∧
      (set → ¬(x.cnt = 0 ∧ x.arr = 0 ∧ x.rel = 0) → exec (.barinit r b f) s = .next bad) ∧
      (s.released (dieBit s.die) = false → exec (.barsig b f) s = .next (s.setWait fl (.barrier b.toNat false))) ∧
      (s.released (dieBit s.die) = true → Claims.refused x g 0 ∨ x.rel.getLsbD g = true → exec (.barsig b f) s = .next late) ∧
      (s.released (dieBit s.die) = true → ¬Claims.refused x g 0 → x.rel.getLsbD g = false →
        let y := Claims.arrived x g 0 0 true
        exec (.barsig b f) s = .next (if y.cnt = y.exp then Claims.release s b.toNat y (if y.op = 0 then 0 else y.pay)
          else s.modTeam (·.setBar b.toNat y)).complete') ∧
      (x.rel.getLsbD g = true →
        exec (.barwait b f) s = .next (s.modTeam (·.setBar b.toNat { x with rel := x.rel &&& ~~~mine })).complete'.acquire) ∧
      (x.rel.getLsbD g = false → x.arr.getLsbD g = true ∧ x.sig.getLsbD g = true →
        exec (.barwait b f) s = .next (s.setWait fl (.barrier b.toNat false))) ∧
      (x.rel.getLsbD g = false → ¬(x.arr.getLsbD g = true ∧ x.sig.getLsbD g = true) → exec (.barwait b f) s = .next late))

/-- gbar of a co-resident grid's team: it waits for the release it implies and arrives; the last group that lives starts the
next phase and goes on with an acquire, the others wait, and go on when the phase has gone on or those that live have all
arrived.  A grid that is not co-resident takes cause 0x13 with the barrier, an index of 256 or more 0x02. -/
def Sys2Proof.Claims.GridBarrier : Prop :=
  ∀ (s : State) (t : Team) (r b : BitVec 9) (f : BitVec 1), Claims.InTeam s f t →
    (256 ≤ b.toNat → exec (.gbar r b f) s = .next (s.trap 0x02 s.exec' s.wordAux)) ∧
    ∀ tc c, alFind s.tcbs s.cur.g.tcb = some tc → s.ctx? = some c → b.toNat < 256 →
      (tc.kernel.cores = false ∨ s.cur.g.task ≠ .team → exec (.gbar r b f) s = .next (s.trap 0x13 s.exec' (.ofNat 64 b.toNat))) ∧
      (tc.kernel.cores = true → s.cur.g.task = .team →
        let fl := s.fsFlag f
        let ph := kvGet 0 c.gphase b.toNat
        let n := kvGet 0 c.garr b.toNat
        let goes := fun (k : Nat) =>
          (k < s.gridAlive s.cur.g.tcb → exec (.gbar r b f) s = .next ((s.modCtx fun c =>
            { c with garr := kvPut 0 c.garr b.toNat k }).setWait fl (.gbar b.toNat ph))) ∧
          (s.gridAlive s.cur.g.tcb ≤ k → exec (.gbar r b f) s = .next ((s.modCtx fun c => { c with
            garr := kvPut 0 c.garr b.toNat 0, gphase := kvPut 0 c.gphase b.toNat (ph + 1) }).complete'.acquire))
        ((∀ k p, s.cur.sl.wait ≠ some (.gbar k p)) →
          (s.released 0x0F = false → exec (.gbar r b f) s = .next (s.setWait fl (.fence 0))) ∧
          (s.released 0x0F = true → goes (n + 1))) ∧
        ∀ k p, s.cur.sl.wait = some (.gbar k p) →
          (p < ph → exec (.gbar r b f) s = .next s.complete'.acquire) ∧ (¬p < ph → goes n))

/-- O38. Barriers. -/
def Obligations.Barriers : Prop := Claims.BarrierArrival ∧ Claims.BarrierWords ∧ Claims.GridBarrier

/-- O39. Tile queues.  qpush waits for the release it implies, then takes one unit of the send allowance and puts its value,
never all ones, at the tail, waiting in line for either; qpop takes the head in its turn and goes on with an acquire, and
waits in line before; qtry takes the first entry past those that the waiting groups have coming (the model's choice, log 79),
and gives all ones where there is none; qallow adds to the allowance, entries and allowance together at most 64; an index
past the kernel's queues takes cause 0x13 with it. -/
def Obligations.TileQueueWords : Prop :=
  ∀ (s : State) (t : Team) (r : BitVec 9) (q : BitVec 6) (f : BitVec 1), Claims.InTeam s f t →
    let x := t.tq q.toNat
    let v := s.rd r.toNat
    let id := s.cur.g.id
    let n := x.poppers.length
    let set := fun y : TileQueue => s.modTeam (·.setTq q.toNat y)
    let line := fun l : List Nat => if l.contains id then l else l ++ [id]
    let waits := fun y : TileQueue => (set y).setWait (s.fsFlag f) (.tileQueue q.toNat)
    let bad := s.trap 0x13 s.exec' (.ofNat 64 q.toNat)
    (q.toNat < t.ntqs →
      (v = ones64 → exec (.qpush r q f) s = .next (s.trap 0x13 s.exec' ones64)) ∧
      (v ≠ ones64 → s.released (dieBit s.die) = false → exec (.qpush r q f) s = .next (s.setWait (s.fsFlag f) (.tileQueue q.toNat))) ∧
      (v ≠ ones64 → s.released (dieBit s.die) = true →
        (0 < x.allow → x.pushers.headD id = id →
          exec (.qpush r q f) s = .next (set { x with allow := x.allow - 1, items := x.items ++ [v]
                                                      pushers := x.pushers.filter (· != id) }).complete') ∧
        (¬(0 < x.allow ∧ x.pushers.headD id = id) →
          exec (.qpush r q f) s = .next (waits { x with pushers := line x.pushers }))) ∧
      (x.items.length + x.allow + v.toNat ≤ 64 →
        exec (.qallow r q f) s = .next (set { x with allow := x.allow + v.toNat }).advance) ∧
      (64 < x.items.length + x.allow + v.toNat → exec (.qallow r q f) s = .next (s.trap 0x13 s.exec' v)) ∧
      (¬Claims.trapRegister s r.toNat →
        (x.items.length ≤ n → exec (.qtry r q f) s = .next (s.wr r.toNat ones64).advance) ∧
        (n < x.items.length → exec (.qtry r q f) s =
          .next (((set { x with items := x.items.eraseIdx n }).wr r.toNat (x.items.getD n 0)).complete').acquire) ∧
        (x.items ≠ [] → x.poppers.headD id = id → exec (.qpop r q f) s = .next (((set { x with
          items := x.items.tail, poppers := x.poppers.filter (· != id) }).wr r.toNat (x.items.headD 0)).complete').acquire) ∧
        (¬(x.items ≠ [] ∧ x.poppers.headD id = id) → exec (.qpop r q f) s = .next (waits { x with poppers := line x.poppers })))) ∧
    (t.ntqs ≤ q.toNat → exec (.qpush r q f) s = .next bad ∧ exec (.qallow r q f) s = .next bad ∧
      (¬Claims.trapRegister s r.toNat → exec (.qpop r q f) s = .next bad ∧ exec (.qtry r q f) s = .next bad)) ∧
    (Claims.trapRegister s r.toNat → exec (.qpop r q f) s = .next (s.trap 0x03 s.exec' (.ofNat 64 r.toNat)) ∧
      exec (.qtry r q f) s = .next (s.trap 0x03 s.exec' (.ofNat 64 r.toNat)))

/-- O40. Rings.  ringwait with cursor 15 claims the next cell when every cursor lets it, gives the cell's scratchpad address
and advances the item counter; with a consumer's cursor it gives the address of that item once it is published, or traps
with the producer's cause; ringpub publishes a claimed cell under its item number with the valid bit, after the release it
implies; ringadv moves a cursor past a published item and gives its new value, and waits, on its flag, for the group's
earlier loads.
A ring the team has not bound, a cell not claimed, a cursor past the consumers or a storer's, and a ringadv of an item not
published take cause 0x13 with the ring. -/
def Obligations.RingWords : Prop :=
  ∀ (s : State) (t : Team) (d a : BitVec 9) (g : BitVec 4) (f : BitVec 1), Claims.InTeam s f t →
    let c := (s.rd a.toNat).toNat
    let ring := if t.rings.getLsbD g.toNat then kvGet none t.ringst g.toNat else none
    let spa := fun (r : Ring) (q : Nat) => (BitVec.ofNat 64 (15 * 2 ^ 20 + (r.basel + (if r.ncell = 0 then 0 else q % r.ncell) * r.cln) * 2 ^ 10) : W64)
    let seq := fun (r : Ring) (q : Nat) => kvGet 0 r.seqs (if r.ncell = 0 then 0 else q % r.ncell)
    let there := fun (r : Ring) (q : Nat) => (seq r q).getLsbD 63 = true ∧ (seq r q).toNat % 2 ^ 48 = q
    let bad := s.trap 0x13 s.exec' (.ofNat 64 g.toNat)
    let waits := s.setWait (s.fsFlag f) (.ring g.toNat)
    (Claims.trapRegister s d.toNat → exec (.ringwait d g a f) s = .next (s.trap 0x03 s.exec' (.ofNat 64 d.toNat)) ∧
      exec (.ringadv d g a f) s = .next (s.trap 0x03 s.exec' (.ofNat 64 d.toNat))) ∧
    (ring = none → exec (.ringpub g a f) s = .next bad ∧
      (¬Claims.trapRegister s d.toNat → exec (.ringwait d g a f) s = .next bad ∧ exec (.ringadv d g a f) s = .next bad)) ∧
    ∀ r, ring = some r →
      ((∀ e ∈ r.claimed, spa r e.2 ≠ s.rd a.toNat) → exec (.ringpub g a f) s = .next bad) ∧
      (∀ k q, r.claimed.find? (fun e => spa r e.2 == s.rd a.toNat) = some (k, q) →
        (s.released (dieBit s.die) = false → exec (.ringpub g a f) s = .next waits) ∧
        (s.released (dieBit s.die) = true → exec (.ringpub g a f) s = .next (s.setRing g.toNat { r with
          seqs := kvPut 0 r.seqs k (.ofNat 64 (2 ^ 63 + q % 2 ^ 48)), claimed := kvErase r.claimed k }).complete')) ∧
      (¬Claims.trapRegister s d.toNat →
        (c = 15 → (∀ k, k < r.ncons → r.counter + 1 ≤ kvGet 0 r.cursors k + r.ncell) →
          exec (.ringwait d g a f) s = .next ((s.setRing g.toNat { r with
            counter := r.counter + 1
            claimed := kvInsert r.claimed (if r.ncell = 0 then 0 else r.counter % r.ncell) r.counter }).wr d.toNat
              (spa r r.counter)).complete'.acquire) ∧
        (c = 15 → (∃ k, k < r.ncons ∧ kvGet 0 r.cursors k + r.ncell < r.counter + 1) → exec (.ringwait d g a f) s = .next waits) ∧
        (r.ncons ≤ c ∨ r.storers.contains c = true →
          (c ≠ 15 → exec (.ringwait d g a f) s = .next bad) ∧ exec (.ringadv d g a f) s = .next bad) ∧
        (c < r.ncons → r.storers.contains c = false →
          let q := kvGet 0 r.cursors c
          (c ≠ 15 → ¬there r q → exec (.ringwait d g a f) s = .next waits) ∧
          (c ≠ 15 → there r q → (seq r q).getLsbD 62 = false →
            exec (.ringwait d g a f) s = .next (s.wr d.toNat (spa r q)).complete'.acquire) ∧
          (c ≠ 15 → there r q → (seq r q).getLsbD 62 = true → exec (.ringwait d g a f) s =
            .next (s.clearWait.trap ((seq r q).toNat / 2 ^ 55 % 128) s.exec' (.ofNat 64 q))) ∧
          (¬there r q → exec (.ringadv d g a f) s = .next bad) ∧
          (there r q → s.cur.sl.loadsDone s.cur.sl.nextSeq = false → exec (.ringadv d g a f) s = .next waits) ∧
          (there r q → s.cur.sl.loadsDone s.cur.sl.nextSeq = true → exec (.ringadv d g a f) s =
            .next ((s.setRing g.toNat { r with cursors := kvPut 0 r.cursors c (q + 1) }).wr d.toNat (.ofNat 64 (q + 1))).complete')))

/-- A mailbox word waits, unless the other slice cannot end the wait: then cause 0x13 with the mailbox. -/
def Sys2Proof.Claims.boxWait (s : State) (m : BitVec 4) (f : BitVec 1) (w : Wait) : State :=
  if s.cur.stuck then s.clearWait.trap 0x13 s.exec' (.ofNat 64 m.toNat) else s.setWait (s.fsFlag f) w

/-- The reads of a full mailbox, `t` the state in which it has been taken: the value, and for mbtry 0 in the next register. -/
def Sys2Proof.Claims.boxRead (s t : State) (d : BitVec 9) (m : BitVec 4) (f : BitVec 1) (v : W64) : Prop :=
  (¬Claims.trapRegister s d.toNat → exec (.mbrd d m f) s = .next (t.wr d.toNat v).complete') ∧
  (d.toNat < 511 → ¬Claims.trapRegister s d.toNat → ¬Claims.trapRegister s (d.toNat + 1) →
    exec (.mbtry d m f) s = .next ((t.wr d.toNat v).wr (d.toNat + 1) 0).advance)

/-- O41. Mailboxes of a coupled group.  mbrd and mbtry take a full box's value, and a writer that waits fills it again and
goes on; mbwr fills an empty box, or hands its value to a reader that waits, which goes on; otherwise mbrd and mbwr wait, or
trap with cause 0x13 where the other slice cannot end the wait, and mbtry gives 1 in the next register.  A group without an
access slice takes cause 0x14, a register of trap handling and the register past s511 cause 0x03 before it. -/
def Obligations.Mailboxes : Prop :=
  ∀ (s : State) (d : BitVec 9) (m : BitVec 4) (f : BitVec 1),
    let none' := s.trap 0x14 s.exec' (.ofNat 64 m.toNat)
    (Claims.trapRegister s d.toNat → exec (.mbrd d m f) s = .next (s.trap 0x03 s.exec' (.ofNat 64 d.toNat)) ∧
      exec (.mbtry d m f) s = .next (s.trap 0x03 s.exec' (.ofNat 64 d.toNat))) ∧
    (¬Claims.trapRegister s d.toNat → Claims.trapRegister s (d.toNat + 1) →
      exec (.mbtry d m f) s = .next (s.trap 0x03 s.exec' (.ofNat 64 (d.toNat + 1)))) ∧
    (d.toNat = 511 → exec (.mbtry d m f) s = .next (s.trap 0x03 s.exec' 511)) ∧
    (s.cur.g.coupled = false ∨ s.cur.sl.ofKeep = true → exec (.mbwr d m f) s = .next none' ∧
      (¬Claims.trapRegister s d.toNat → exec (.mbrd d m f) s = .next none' ∧
        (d.toNat < 511 → ¬Claims.trapRegister s (d.toNat + 1) → exec (.mbtry d m f) s = .next none'))) ∧
    (s.cur.g.coupled = true → s.cur.sl.ofKeep = false → Claims.mayCount s (s.fsFlag f) →
      (∀ v, kvGet none s.cur.g.mb m.toNat = some v →
        exec (.mbwr d m f) s = .next (Claims.boxWait s m f (.mbWrite m.toNat (s.rd d.toNat))) ∧
        (s.cur.g.writer m.toNat = none →
          Claims.boxRead s (s.setG fun g => { g with mb := kvPut none g.mb m.toNat none }) d m f v) ∧
        ∀ w, s.cur.g.writer m.toNat = some w → ∃ u : State, Claims.boxRead s u d m f v ∧ u.cur.sl = s.cur.sl ∧
          kvGet none u.cur.g.mb m.toNat = some w ∧ (∀ k, k ≠ m.toNat → kvGet none u.cur.g.mb k = kvGet none s.cur.g.mb k) ∧
          u.cur.g.companion.map (·.wait) = some none ∧ u.views = s.views ∧ u.others = s.others) ∧
      (kvGet none s.cur.g.mb m.toNat = none →
        (s.cur.g.reader m.toNat = none → exec (.mbwr d m f) s =
          .next (s.setG fun g => { g with mb := kvPut none g.mb m.toNat (some (s.rd d.toNat)) }).complete') ∧
        (∀ n, s.cur.g.reader m.toNat = some n → ∃ u : State, exec (.mbwr d m f) s = .next u.complete' ∧ u.cur.g.mb = s.cur.g.mb ∧
          u.cur.sl = s.cur.sl ∧ u.cur.g.companion.map (·.wait) = some none ∧
          u.cur.g.companion.map (·.rd n) = some (if n = 0 then 0 else s.rd d.toNat)) ∧
        (¬Claims.trapRegister s d.toNat → exec (.mbrd d m f) s = .next (Claims.boxWait s m f (.mbRead m.toNat d.toNat)) ∧
          (d.toNat < 511 → ¬Claims.trapRegister s (d.toNat + 1) → exec (.mbtry d m f) s = .next (s.wr (d.toNat + 1) 1).advance))))

/-! ## The matrix engine (13) -/

/-- A matrix word of a group's own stream whose flag has room. -/
structure Sys2Proof.Claims.Matrix (s : State) : Prop where
  stream : s.cur.sl.kind = .execute
  room   : Claims.room s s.setaFlag

/-- Legal rows: a multiple of 8, within the 1,024 of the store, every block owned by the team. -/
structure Sys2Proof.Claims.Rows (s : State) (row n : Nat) : Prop where
  whole : n % 8 = 0
  some' : n ≠ 0
  inside : row + n ≤ 1024
  owned : ∀ b, b < n / 8 → kvGet none (s.core s.coreNo).owner (row / 8 + b) = some s.cur.g.team

/-- Names that exist and are no queues. -/
def Sys2Proof.Claims.plain (s : State) (d k : Nat) : Prop :=
  d + k ≤ 128 ∧ ∀ i, i < k → (s.cur.g.name (d + i)).isQueue = false

/-- The word has entered the matrix engine of its core as the newest, with the job that `P` describes; its operation, which
will write `n` names from `d` up, is outstanding on SETA; rows, owners, scalar registers and memory are as they were. -/
def Sys2Proof.Claims.InEngine (s u : State) (d n : Nat) (P : MatJob → Prop) : Prop :=
  (∃ o : Op, u.cur.sl.ops = s.cur.sl.ops ++ [o] ∧ o.id = s.nextId ∧ o.kind = .matrix d n ∧ o.flag = s.setaFlag) ∧
  (∃ j, (u.core s.coreNo).mjobs = (s.core s.coreNo).mjobs ++ [j] ∧ j.id = s.nextId ∧ j.team = s.cur.g.team ∧ P j) ∧
  (u.core s.coreNo).rows = (s.core s.coreNo).rows ∧ (u.core s.coreNo).owner = (s.core s.coreNo).owner ∧
  (∀ k, kvGet 0 u.cur.sl.flags k = kvGet 0 s.cur.sl.flags k + if s.setaFlag = some k then 1 else 0) ∧
  (∀ k, u.rd k = s.rd k) ∧ u.views = s.views ∧ u.teams = s.teams

/-- O42. mma and mmaz: with a format loaded, A names that exist, a legal tile and rows the team owns, the word enters the
engine with its A registers captured and the B tile's place; in redundant mode the group waits for its comparisons, else it
goes on.  In this order: a reserved height takes cause 0x02, rows past the store 0x03, a tile off a line 0x09, one outside the
team's lines 0x15, no format 0x06, rows not owned 0x0D with the first of the block.  s509 of 0x03 is the last row of the span, the model's
choice (log 48). -/
def Obligations.MatrixMultiplies : Prop :=
  ∀ (s : State) (t : Team) (a b c : BitVec 7) (h : BitVec 3) (u : BitVec 1) (z : Bool), Claims.Matrix s → s.team? = some t →
    s.cur.sl.wait = none →
    let i := if z then Instr.mmaz a b c h u else .mma a b c h u
    (5 < h.toNat → exec i s = .next (s.trap 0x02 s.exec' s.wordAux)) ∧ (h.toNat ≤ 5 →
    let n := 8 * 2 ^ h.toNat
    let mx := mfmtA s.cur.g.mfmt = 5
    let k := n / 4 + if mx then (if n < 32 then 1 else n / 32) else 0
    let x := (s.rd b.toNat).toNat
    Claims.plain s a.toNat k →
    (1024 < 8 * c.toNat + n → exec i s = .next (s.trap 0x03 s.exec' (.ofNat 64 (8 * c.toNat + n - 1)))) ∧
    (8 * c.toNat + n ≤ 1024 → x % 1024 ≠ 0 → exec i s = .next (s.trap 0x09 s.exec' (s.rd b.toNat))) ∧
    let inTeam := x < 2 ^ 24 ∧ (x / 2 ^ 20 = 15 ∨ x / 2 ^ 20 = t.cidx) ∧ x / 1024 % 1024 + (if mx then 5 else 4) ≤ t.scrl
    (8 * c.toNat + n ≤ 1024 → x % 1024 = 0 → ¬inTeam → exec i s = .next (s.trap 0x15 s.exec' (s.rd b.toNat))) ∧
    (8 * c.toNat + n ≤ 1024 → x % 1024 = 0 → inTeam →
      (s.cur.g.mfmt = 0 → exec i s = .next (s.trap 0x06 s.exec' 0)) ∧
      (∀ e, s.cur.g.mfmt ≠ 0 → e < n / 8 → kvGet none (s.core s.coreNo).owner (c.toNat + e) ≠ some s.cur.g.team →
        (∀ e', e' < e → kvGet none (s.core s.coreNo).owner (c.toNat + e') = some s.cur.g.team) →
        exec i s = .next (s.trap 0x0D s.exec' (.ofNat 64 (8 * c.toNat + 8 * e)))) ∧
      (s.cur.g.mfmt ≠ 0 → Claims.Rows s (8 * c.toNat) n → ∃ v, exec i s = .next v ∧
        Claims.InEngine s v 0 0 (fun j => j.op = .mma z ∧ j.row = 8 * c.toNat ∧ j.n = n ∧ j.fmt = s.cur.g.mfmt ∧
          j.a = (List.range k).map (fun e => s.cur.g.val (a.toNat + e)) ∧ j.tile = x / 1024 % 1024 * 2048 ∧
          j.b = readBytes t.mem j.tile (if mx then 9216 else 8192)) ∧
        v.cur.sl.wait = if mfmtRed s.cur.g.mfmt then some (.matrix s.nextId) else none)))

/-- O43. The other words that enter the engine, with legal rows: mzero and mrelf over a count of rows, mred onto the rows
from a second range, mside reading or writing 32 side pairs, mdrainv for the raw columns of eight rows in 16 names, msoft
from scores to the P names and the O rows.  A count that is no positive multiple of 8 within the store takes cause 0x03, a
direction of mside past 1 cause 0x02, rows of which the team does not own a block 0x0D with the first of that block. -/
def Obligations.MatrixWords : Prop :=
  ∀ (s : State) (a b : BitVec 9) (c : BitVec 7), Claims.Matrix s →
    let row := 8 * c.toNat
    let n := (s.rd a.toNat).toNat
    let v := (s.rd b.toNat).toNat
    (Claims.Rows s row n →
      (∃ t, exec (.mzero a c) s = .next t ∧ Claims.InEngine s t 0 0 fun j => j.op = .mzero ∧ j.row = row ∧ j.n = n) ∧
      (∃ t, exec (.mrelf a c) s = .next t ∧ Claims.InEngine s t 0 0 fun j => j.op = .mrelf ∧ j.row = row ∧ j.n = n) ∧
      (Claims.Rows s v n → v % 8 = 0 → (row + n ≤ v ∨ v + n ≤ row) → s.cur.g.mfmt ≠ 0 →
        ∃ t, exec (.mred a b c) s = .next t ∧ Claims.InEngine s t 0 0 fun j =>
          j.op = .mred ∧ j.row = row ∧ j.n = n ∧ j.row2 = v ∧ j.fmt = s.cur.g.mfmt)) ∧
    (n % 8 ≠ 0 ∨ n = 0 ∨ 1024 < row + n → exec (.mzero a c) s = .next (s.trap 0x03 s.exec' (s.rd a.toNat)) ∧
      exec (.mrelf a c) s = .next (s.trap 0x03 s.exec' (s.rd a.toNat)) ∧
      exec (.mred a b c) s = .next (s.trap 0x03 s.exec' (s.rd a.toNat))) ∧
    (∀ e, n % 8 = 0 → n ≠ 0 → row + n ≤ 1024 → e < n / 8 → kvGet none (s.core s.coreNo).owner (c.toNat + e) ≠ some s.cur.g.team →
      (∀ e', e' < e → kvGet none (s.core s.coreNo).owner (c.toNat + e') = some s.cur.g.team) →
      exec (.mzero a c) s = .next (s.trap 0x0D s.exec' (.ofNat 64 (row + 8 * e))) ∧
      exec (.mrelf a c) s = .next (s.trap 0x0D s.exec' (.ofNat 64 (row + 8 * e)))) ∧
    (1 < v → exec (.mside a b c) s = .next (s.trap 0x02 s.exec' (s.rd b.toNat))) ∧
    (Claims.Rows s row 32 → a.toNat ≤ 127 → Claims.plain s a.toNat 1 →
      (v = 1 → ∃ t, exec (.mside a b c) s = .next t ∧ Claims.InEngine s t 0 0 fun j =>
        j.op = .mside true ∧ j.row = row ∧ j.n = 32 ∧ j.a = [s.cur.g.val a.toNat]) ∧
      ∀ g, v = 0 → s.takeNames a.toNat 1 s.cur.g = .ok g → ∃ t, exec (.mside a b c) s = .next t ∧ t.cur.g.v = g.v ∧
        Claims.InEngine s t a.toNat 1 fun j => j.op = .mside false ∧ j.row = row ∧ j.n = 32 ∧ j.d = a.toNat) ∧
    (∀ g, Claims.Rows s row 8 → Claims.plain s a.toNat 16 → s.takeNames a.toNat 16 s.cur.g = .ok g →
      ∃ t, exec (.mdrainv a c) s = .next t ∧ t.cur.g.v = g.v ∧ Claims.InEngine s t a.toNat 16 fun j =>
        j.op = .mdrainv ∧ j.row = row ∧ j.n = 8 ∧ j.d = a.toNat) ∧
    ∀ (h o : Nat) (scale : W32) g, s.rd b.toNat = .ofNat 64 (scale.toNat * 2 ^ 32 + h * 2 ^ 12 + o) → h ≤ 5 → o < 1024 → o % 8 = 0 →
      let m := 8 * 2 ^ h
      Claims.Rows s row m → Claims.Rows s o m → (row + m ≤ o ∨ o + m ≤ row) → Claims.plain s a.toNat m → s.cur.g.mfmt ≠ 0 →
      mfmtInt s.cur.g.mfmt = false → s.takeNames a.toNat m s.cur.g = .ok g →
      ∃ t, exec (.msoft a b c) s = .next t ∧ t.cur.g.v = g.v ∧ Claims.InEngine s t a.toNat m fun j =>
        j.op = .msoft ∧ j.row = row ∧ j.n = m ∧ j.row2 = o ∧ j.scale = scale ∧ j.d = a.toNat

/-- Formats and parameters, and the ownership of rows.  mset takes the value that every lane of EXEC holds, where it is
a legal format; mpar the 128 bytes of a legal parameter block; macq takes free blocks, all of them or none, and says which;
mrel frees and clears blocks that nothing uses, and takes cause 0x0D with the first row of one that is used. -/
def Sys2Proof.Claims.MatrixSettings : Prop :=
  ∀ (s : State) (a b : BitVec 9) (c : BitVec 7), Claims.Matrix s →
    let n := (s.rd a.toNat).toNat
    let blocks := (List.range (n / 8)).map (c.toNat + ·)
    let free := fun k => kvGet none (s.core s.coreNo).owner k = none ∨ kvGet none (s.core s.coreNo).owner k = some s.cur.g.team
    (∀ x g w, s.sources [⟨c.toNat, false⟩] none = .ok ([x], g) → s.exec' ≠ 0 → (∀ l ∈ lanesOf s.exec', lane x l = w) →
      (mfmtOk w = true → ∃ t, exec (.mset c) s = .next t ∧ t.cur.g.mfmt = w ∧ t.cur.g.alatch = none ∧ t.cur.g.v = g.v ∧
        (∀ k, t.rd k = s.rd k) ∧ t.views = s.views) ∧
      (mfmtOk w = false → exec (.mset c) s = .next (s.trap 0x02 s.exec' w))) ∧
    (∀ vs ps, (s.rd a.toNat).toNat % 128 = 0 → s.readVas (s.rd a.toNat) 16 = .ok (vs, ps) →
      epiOk (vs.map dwordBytes).flatten = true → exec (.mpar a) s =
        .next ((s.markAll ps .read).setG fun g => { g with epi := some (vs.map dwordBytes).flatten }).advance) ∧
    (n % 8 = 0 → n ≠ 0 → 8 * c.toNat + n ≤ 1024 →
      (¬Claims.trapRegister s b.toNat →
        ((∀ k ∈ blocks, free k) → ∃ t, exec (.macq a b c) s = .next t ∧ (b ≠ 0 → t.rd b.toNat = 0) ∧
          (∀ k, kvGet none (t.core s.coreNo).owner k = if k ∈ blocks then some s.cur.g.team else kvGet none (s.core s.coreNo).owner k) ∧
          (t.core s.coreNo).rows = (s.core s.coreNo).rows ∧ t.views = s.views) ∧
        ((∃ k ∈ blocks, ¬free k) → exec (.macq a b c) s = .next (s.wr b.toNat 1).advance)) ∧
      (Claims.Rows s (8 * c.toNat) n →
        ((∀ k ∈ blocks, s.blockUsed s.coreNo k = false) → ∃ t, exec (.mrel a c) s = .next t ∧
          (∀ k ∈ blocks, kvGet none (t.core s.coreNo).owner k = none) ∧
          (∀ r, 8 * c.toNat ≤ r → r < 8 * c.toNat + n → (t.core s.coreNo).row r = Row.cleared) ∧
          (∀ k, k ∉ blocks → kvGet none (t.core s.coreNo).owner k = kvGet none (s.core s.coreNo).owner k) ∧
          (∀ k, t.rd k = s.rd k) ∧ t.views = s.views) ∧
        ∀ e, e < n / 8 → s.blockUsed s.coreNo (c.toNat + e) = true → (∀ e', e' < e → s.blockUsed s.coreNo (c.toNat + e') = false) →
          exec (.mrel a c) s = .next (s.trap 0x0D s.exec' (.ofNat 64 (8 * c.toNat + 8 * e)))))

/-- A use of a bound finds the row out of range. -/
def Sys2Proof.Claims.outside (bd : Option Bound) (x : List Nat) : Prop := ∃ b, bd = some b ∧ ∃ v ∈ x, b.has v = false

/-- mdrain, over rows the team owns that no word in flight names, where the addresses of the destination rows, the bias and
the bound all pass: the epilogue's values, clamped where the bound says so, go out as one store of SETA, each element in its
destination's format and place, or to no place where the parameters say so; the rows' status is cleared while their columns
stay; a flagging bound with a row outside adds 1 to its HITS, where it can be written, after the store; a trapping bound
takes cause 0x0F with the first row outside, and nothing is stored.  With nothing loaded by mpar it takes cause 0x06. -/
def Sys2Proof.Claims.MatrixDrain : Prop :=
  ∀ (s : State) (a d : BitVec 9) (c : BitVec 7), Claims.Matrix s →
    let n := (s.rd a.toNat).toNat
    let row := 8 * c.toNat
    n % 8 = 0 → n ≠ 0 → row + n ≤ 1024 → (∀ o ∈ s.cur.sl.ops, o.id ≠ s.nextId) →
    (s.cur.g.epi = none → exec (.mdrain a d c) s = .next (s.trap 0x06 s.exec' 0)) ∧
    ∀ p (bias : List Nat) (bd : Option Bound) bps, s.cur.g.epi = some p → Claims.Rows s row n →
      (s.core s.coreNo).busyRows row n = false →
      (if epiBias p = 0 then bias = [] else s.readBias p = .ok bias) →
      (if epiTben p = true then ∃ b, s.readBound (epiTb p) false = .ok (b, bps) ∧ bd = some b else bd = none ∧ bps = []) →
      let at' := fun j : Nat => s.rd d.toNat + .ofNat 64 j * epiStride p
      let targets := if epiNowr p = true then [] else (List.range n).map fun j => (at' j, s.rowTargets p (at' j))
      (∀ r ∈ targets, r.1.toNat % 8 = 0 ∧ ∀ e ∈ r.2, ∃ x, e = .ok x) →
      let walked := ((s.markAll ((targets.map fun r => r.2.filterMap fun e => match e with
        | .ok x => some x.2
        | .error _ => none).flatten) .write).markAll (s.biasPaths p) .read).markAll bps .read
      let rows := s.epiRows p row n (if bias = [] then none else some bias)
      let vals := rows.map fun r => match bd with
        | some b => if b.act = .clamp then r.1.map b.clamp else r.1
        | none => r.1
      let stops := ∃ b, bd = some b ∧ b.act = .trap
      (∀ j r, stops → rows[j]? = some r → Claims.outside bd r.1 → (∀ i x, i < j → rows[i]? = some x → ¬Claims.outside bd x.1) →
        exec (.mdrain a d c) s = .next (s.trap 0x0F s.exec' (.ofNat 64 j))) ∧
      (¬stops ∨ (∀ r ∈ rows, ¬Claims.outside bd r.1) →
        ∃ (t : State) (o : Op) (r : List Op), exec (.mdrain a d c) s = .next t ∧ t.cur.sl.ops = s.cur.sl.ops ++ o :: r ∧
          o.kind = .store ∧ o.flag = s.setaFlag ∧ o.acc = drainAccesses targets (vals.map fun x => (epiOut p x).1) ∧
          r.length ≤ 1 ∧ (r ≠ [] ↔ ∃ b, bd = some b ∧ b.act = .flag ∧ ∃ x ∈ rows, Claims.outside bd x.1) ∧
          (∀ h ∈ r, h.kind = .atomic .add true .nowhere 0x0F false ∧
            (∀ x ∈ h.acc, x.va = s.boundVa (epiTb p) + 24 ∧ x.data = 1 ∧ x.new = .ofNat 64 o.id) ∧
            ∀ q, walked.checkVa (s.boundVa (epiTb p) + 24) 8 .both = .ok q → ∃ x, h.acc = [x]) ∧
          (∀ j, j < n → ((t.core s.coreNo).row (row + j)).st = 0 ∧
            ((t.core s.coreNo).row (row + j)).c = ((s.core s.coreNo).row (row + j)).c) ∧
          (∀ k, t.rd k = s.rd k) ∧ t.cur.g.v = s.cur.g.v)

/-- O44. The matrix settings, accumulator blocks and drains.  The model's choices: the index in s509 at a bound trap, rows and
status as they stand at issue (log 47), and the hits that count with the word (log 44). -/
def Obligations.MatrixState : Prop := Claims.MatrixSettings ∧ Claims.MatrixDrain

/-- A word of the matrix engine that may take effect now: no earlier word that names its rows, or shares its unit, is left,
and no drain of its rows has stores outstanding. -/
def Sys2Proof.Claims.mayFinish (s : State) (core : Nat) (j : MatJob) : Prop :=
  (s.core core).mjobs.find? (fun k => k.id == j.id) = some j ∧
  (∀ k ∈ earlierJobs j.id (s.core core).mjobs, k.before j = false) ∧
  ((j.op = .mzero ∨ j.op = .mrelf) → s.draining core j.row j.n = false)

/-- O45. MATRIX_WORD_COMPLETE.  mma, of a B tile that holds one value from its issue on, gives every element of its rows C +
A × B (mmaz from zero), exact and wrapped in the integer formats, rounded once in the others; mred adds the rows of its
second range; mzero and mrelf clear their rows, and mrelf frees them; mside writes the side pairs, or delivers them; mdrainv
and msoft deliver their names; the operation leaves its slice and its flag falls.  In redundant mode two differing
comparisons leave the rows as they were, mark the core suspect, and trap with cause 0x0E and the first row. -/
def Obligations.MatrixCompletion : Prop :=
  ∀ (s : State) (core m : Nat) (j : MatJob), Claims.mayFinish s core j →
    let old := fun i => (s.core core).row i
    let red := mfmtRed j.fmt = true ∧ ∃ z, j.op = .mma z
    ((¬red ∨ m ≤ 1) → ∃ t, exec (.matrixWordComplete core j.id m) s = .next t ∧
      let new := fun i => (t.core core).row i
      (∀ k ∈ (t.core core).mjobs, k.id ≠ j.id) ∧ (∀ k, t.rd k = s.rd k) ∧ t.views = s.views ∧
      (∀ o, s.cur.sl.op? j.id = some o → t.cur.sl.op? j.id = none ∧
        ∀ k, kvGet 0 t.cur.sl.flags k = kvGet 0 s.cur.sl.flags k - if o.flag = some k then 1 else 0) ∧
      (∀ i, (i < j.row ∨ j.row + j.n ≤ i) → (j.op = .msoft → i < j.row2 ∨ j.row2 + j.n ≤ i) →
        (∀ x, j.op = .mside x → i < j.row ∨ j.row + 32 ≤ i) → (j.op = .mdrainv → i < j.row ∨ j.row + 8 ≤ i) →
        new i = old i) ∧
      (∀ z tm i n, j.op = .mma z → alFind s.teams j.team = some tm → readBytes tm.mem j.tile j.b.length = j.b →
        (∀ w ∈ j.mid, w.2 = j.b.getD w.1 0) → i < j.n → n < 128 →
        let c : Nat := if z then 0 else ((old (j.row + i)).c.getD n 0).toNat
        (new (j.row + i)).c.getD n 0 = .ofNat 32 (if mfmtInt j.fmt
          then wrapI 32 ((List.range (matK (mfmtA j.fmt))).foldl (fun x k =>
            x + sx 8 (aEl j.a (mfmtA j.fmt) i k) * sx 8 (bEl j.b (mfmtB j.fmt) k n)) (c : Int))
          else (fp32.round (sumNums (fp32.decode c :: (List.range (matK (mfmtA j.fmt))).map fun k =>
            (matNum (mfmtA j.fmt) (if mfmtA j.fmt = 5 then aHalf j.a j.n i (k / 32) else 0) (aEl j.a (mfmtA j.fmt) i k)).mul
              (matNum (mfmtB j.fmt) (if mfmtB j.fmt = 5 then bHalf j.b (k / 32) n else 0) (bEl j.b (mfmtB j.fmt) k n))))).1)) ∧
      (∀ i, (j.op = .mzero ∨ j.op = .mrelf) → i < j.n → new (j.row + i) = Row.cleared) ∧
      (∀ b, j.op = .mrelf → b < j.n / 8 → kvGet none (t.core core).owner (j.row / 8 + b) = none) ∧
      (∀ i, j.op = .mside true → i < 32 → (new (j.row + i)).m = (lane (j.a.headD zeroLanes) i).setWidth 32 ∧
        (new (j.row + i)).c = (old (j.row + i)).c) ∧
      (∀ o x, j.op = .mside false → s.cur.sl.op? j.id = some o → s.cur.g.name j.d = .mapped x → ∃ y,
        t.cur.g.name j.d = .mapped y ∧ ∀ l, l < 32 → lane y l =
          .ofNat 64 ((old (j.row + l)).m.toNat + (old (j.row + l)).l.toNat * 2 ^ 32))) ∧
    ∀ c e, red → 2 ≤ m → s.cur.g.id = j.grp → s.cur.sl.kind = .execute → s.cur.sl.handler = none → s.cur.sl.clause = some c →
      s.handlerFor 0x0E = some e → ∃ t, exec (.matrixWordComplete core j.id m) s = .next t ∧
        (t.core core).rows = (s.core core).rows ∧ (t.core core).suspect = true ∧ (∀ k ∈ (t.core core).mjobs, k.id ≠ j.id) ∧
        t.cur.sl.handler.isSome = true ∧ t.rd 505 = 0x0E ∧ t.rd 509 = .ofNat 64 j.row ∧ t.views = s.views

/-! ## The access engines (07) -/

/-- An ASYNC word whose flag has room and whose token register is free for it. -/
structure Sys2Proof.Claims.Token (s : State) (tok : Nat) : Prop where
  room    : Claims.room s s.setaFlag
  dest    : ¬Claims.trapRegister s tok
  settled : tok ≠ 0 → s.cur.sl.pending.contains tok = false

/-- The word is outstanding: its operation counts on SETA, its token register is pending until the token comes. -/
def Sys2Proof.Claims.Pending (s u : State) (k : OpKind) (tok : Nat) : Prop :=
  (∃ o : Op, u.cur.sl.ops = s.cur.sl.ops ++ [o] ∧ o.id = s.nextId ∧ o.kind = k ∧ o.flag = s.setaFlag) ∧
  u.cur.sl.pending = (if tok = 0 then s.cur.sl.pending else s.cur.sl.pending ++ [tok]) ∧ (∀ n, u.rd n = s.rd n) ∧
  ∀ n, kvGet 0 u.cur.sl.flags n = kvGet 0 s.cur.sl.flags n + if s.setaFlag = some n then 1 else 0

/-- The members with a descriptor: token, descriptor and control registers, member code, queue, legal control words, number
of elements. -/
def Sys2Proof.Claims.engine (s : State) : Instr → Option (BitVec 9 × BitVec 9 × BitVec 7 × Nat × Nat × (W64 → Bool) × (List Byte → Nat))
  | .cpy t d a => some (t, d, a, 1, (s.rd a.toNat).toNat / 2 ^ 29 % 8, cpyOk, fun b => dN b 0 * dN b 1 * dN b 2 * dN b 3)
  | .gath t d a => some (t, d, a, 2, 4, gathOk, fun b => dN b 0)
  | .scat t d a => some (t, d, a, 3, 4, scatOk, fun b => dN b 0)
  | .chain t d a => some (t, d, a, 4, 5, chainOk, fun b => dN b 0 * dN b 1 * dN b 2 * dN b 3)
  | .coll t d a => some (t, d, a, 12, 7, collOk, fun b => dN b 0 * dN b 1 * dN b 2 * dN b 3)
  | _ => none

/-- cpy, gath, scat, chain and coll: with a legal control word, a readable descriptor and scratchpad bases in the line
space, the operation joins the tail of its queue with the descriptor as it stands now, and the word is outstanding; an
illegal control word takes cause 0x02 with it, a descriptor off a 128-byte boundary 0x09 with its address; a full queue
holds the word back. -/
def Sys2Proof.Claims.EngineIssue : Prop :=
  ∀ (s : State) (i : Instr) t d a code q ok total, Claims.engine s i = some (t, d, a, code, q, ok, total) → Claims.Token s t.toNat →
    let c := s.rd a.toNat
    let va := s.rd d.toNat
    (ok c = false → exec i s = .next (s.trap 0x02 s.exec' c)) ∧
    (ok c = true → va.toNat % 128 ≠ 0 → exec i s = .next (s.trap 0x09 s.exec' va)) ∧
    ∀ vs ps, ok c = true → va.toNat % 128 = 0 → s.readVas va 16 = .ok (vs, ps) →
      let b := (vs.map dwordBytes).flatten
      (c.getLsbD 27 = true → ∃ r, s.spadTarget s.cur.g.team (dSrc b) 4 = .ok r) →
      (c.getLsbD 26 = true → ∃ r, s.spadTarget s.cur.g.team (dDst b) 4 = .ok r) →
      (((s.core s.coreNo).queue q).length < 32 → ∃ (u : State) (o : EngOp), exec i s = .next u ∧ Claims.Pending s u (.engine q t.toNat) t.toNat ∧
        (u.core s.coreNo).queue q = (s.core s.coreNo).queue q ++ [o] ∧ o.id = s.nextId ∧ o.code = code ∧ o.desc = b ∧
        o.ctrl = c ∧ o.total = total b ∧ o.next = 0 ∧ o.started = false ∧ o.afts = if c.getLsbD 28 then s.cur.sl.afts else []) ∧
      (32 ≤ ((s.core s.coreNo).queue q).length → exec i s = .next s)

/-- The line words.  tlook gives the lowest clean or dirty line of the VA, else the lowest that fills with bit 62, else
bit 63; tfill puts a fill in queue 6 and marks the line filling; tevict puts a write-back there; tinval invalidates the line
at once and gives the token 2^63.  A line past the team's takes cause 0x15, a reserved bit of the line register 0x02. -/
def Sys2Proof.Claims.LineWords : Prop :=
  ∀ (s : State) (t d : BitVec 9) (a : BitVec 7) (tm : Team), Claims.Token s t.toNat → s.team? = some tm →
    let v := (s.rd a.toNat).toNat
    let q := (s.core s.coreNo).queue 6
    let want := (s.rd d.toNat).toNat % 2 ^ 56 / 2 ^ 11 * 2 ^ 11
    let hit := fun l => 2 ≤ tagState (tm.tagAt l) ∧ tagVa (tm.tagAt l) = want
    let filling := fun l => tagState (tm.tagAt l) = 1 ∧ tagVa (tm.tagAt l) = want
    (t ≠ 0 →
      (∀ l, l < tm.scrl → hit l → (∀ k, k < l → ¬hit k) → ∃ u, exec (.tlook t d) s = .next u ∧ u.rd t.toNat = .ofNat 64 l) ∧
      (∀ l, l < tm.scrl → (∀ k, k < tm.scrl → ¬hit k) → filling l → (∀ k, k < l → ¬filling k) →
        ∃ u, exec (.tlook t d) s = .next u ∧ u.rd t.toNat = .ofNat 64 (2 ^ 62 + l)) ∧
      (tm.scrl ≤ 1024 → (∀ k, k < tm.scrl → ¬hit k ∧ ¬filling k) → ∃ u, exec (.tlook t d) s = .next u ∧ (u.rd t.toNat).getLsbD 63 = true)) ∧
    (t = 0 → ∃ u, exec (.tlook t d) s = .next u ∧ ∀ k, u.rd k = s.rd k) ∧
    (v / 1024 % 64 ≠ 0 ∨ 2 ^ 17 ≤ v → exec (.tfill t d a) s = .next (s.trap 0x02 s.exec' s.wordAux)) ∧
    (v / 1024 ≠ 0 → exec (.tevict t a) s = .next (s.trap 0x02 s.exec' s.wordAux) ∧
      exec (.tinval t a) s = .next (s.trap 0x02 s.exec' s.wordAux)) ∧
    (v / 1024 % 64 = 0 → v < 2 ^ 17 → v % 1024 < tm.scrl → q.length < 32 →
      ((s.rd d.toNat).toNat % 2048 = 0 → ∃ (u : State) (o : EngOp), exec (.tfill t d a) s = .next u ∧
        Claims.Pending s u (.engine 6 t.toNat) t.toNat ∧ (u.core s.coreNo).queue 6 = q ++ [o] ∧ o.code = 9 ∧
        o.addr = s.rd d.toNat ∧ o.line = v % 1024 ∧ o.total = 256 ∧
        (u.team?.map fun x => x.tagAt (v % 1024)) = some (mkTag 1 0 (s.rd d.toNat).toNat (v / 2 ^ 16 == 1))) ∧
      (v < 2 ^ 16 → ∃ (u : State) (o : EngOp), exec (.tevict t a) s = .next u ∧ Claims.Pending s u (.engine 6 t.toNat) t.toNat ∧
        (u.core s.coreNo).queue 6 = q ++ [o] ∧ o.code = 10 ∧ o.line = v % 1024)) ∧
    (v / 1024 = 0 → v < tm.scrl → exec (.tinval t a) s =
      .next ((s.modTeam fun k => k.tag v fun x => mkTag 0 (tagAge x) (tagVa x) (tagPin x)).wr t.toNat (.ofNat 64 (2 ^ 63))).advance) ∧
    (v / 1024 = 0 → tm.scrl ≤ v → exec (.tinval t a) s = .next (s.trap 0x15 s.exec' (s.rd a.toNat)) ∧
      exec (.tevict t a) s = .next (s.trap 0x15 s.exec' (s.rd a.toNat)) ∧
      exec (.tfill t d a) s = .next (s.trap 0x15 s.exec' (s.rd a.toNat)))

/-- O46. The engine words: queues, tokens, lines.  The value of the line register with 0x15 is the model's choice (log 54). -/
def Obligations.EngineWords : Prop := Claims.EngineIssue ∧ Claims.LineWords

/-- O47. Rings and operand queues from the group's side.  ringsub of a legal ring and tile binds the ring, where it is not
bound so already, and asks a Cupola for a loader, or for no tile is done at once; unsub of a loader of the team ends it and
gives the tiles it published, waits while a tile is in progress, and gives 2^56 - 1 where there is none; pull takes the
cursor and starts a storer, or for no item is done at once; oldu and oldg reserve the tail entry of their operand queue, and
wait while it holds 16.  That no tile is done at once (log 53) and that unsub waits for a tile in progress (log 54) are the
model's choices. -/
def Obligations.StreamWords : Prop :=
  ∀ (s : State) (t d : BitVec 9) (a : BitVec 7) (tm : Team), Claims.Token s t.toNat → s.team? = some tm →
    let c := s.rd a.toNat
    let va := s.rd d.toNat
    (∀ vs ps, ringsubOk c = true → va.toNat % 128 = 0 → s.readVas va 16 = .ok (vs, ps) →
      let b := (vs.map dwordBytes).flatten
      let n := cField c 20 4
      ∀ r : Ring, cField c 38 10 + cField c 24 9 * cField c 33 5 ≤ tm.scrl → tm.rings.getLsbD n = true →
      (kvGet none tm.ringst n = none ∧ r = ringFrom c ∨ kvGet none tm.ringst n = some r ∧ r.basel = cField c 38 10 ∧
        r.cln = cField c 33 5 ∧ r.ncell = cField c 24 9 ∧ r.ncons = cField c 16 4) →
      dN b 0 % 4 = 0 → 4 ≤ dN b 0 → dN b 0 ≤ cField c 33 5 * 2048 →
      (dN b 1 ≠ 0 → ∃ (u : State) (x : Streamer), exec (.ringsub t d a) s = .next u ∧
        Claims.Pending s u (.engine 8 t.toNat) t.toNat ∧ u.streams = s.streams ++ [x] ∧
        x.storer = false ∧ x.slot = none ∧ x.ring = n ∧ x.desc = b ∧ x.team = s.cur.g.team ∧ x.op = s.nextId ∧
        (u.team?.bind fun k => kvGet none k.ringst n) = some r) ∧
      (dN b 1 = 0 → ∃ u : State, exec (.ringsub t d a) s = .next u ∧ u.streams = s.streams ∧ u.cur.sl.ops = s.cur.sl.ops ∧
        (t ≠ 0 → (u.rd t.toNat).getLsbD 63 = true) ∧ (u.team?.bind fun k => kvGet none k.ringst n) = some r)) ∧
    (let x? := if va.toNat < 2 ^ 12 ∧ va.toNat / 64 % 4 = 0 then s.streamAt false (va.toNat / 256) (va.toNat % 64) else none
     (∀ x : Streamer, x? = some x → x.team = s.cur.g.team →
        (x.item = none → exec (.unsub t d) s = .next (({ s with streams := s.streams.filter fun y => y.id != x.id } : State).wr t.toNat
          (.ofNat 64 (2 ^ 63 + x.next % 2 ^ 56))).advance) ∧
        (x.item ≠ none → exec (.unsub t d) s = .next s)) ∧
     ((x? = none ∨ ∃ x : Streamer, x? = some x ∧ x.team ≠ s.cur.g.team) →
        exec (.unsub t d) s = .next (s.wr t.toNat (.ofNat 64 (2 ^ 63 + (2 ^ 56 - 1)))).advance)) ∧
    (∀ vs ps r, cField c 24 40 = 0 → cField c 0 16 = 0 → va.toNat % 128 = 0 → s.readVas va 16 = .ok (vs, ps) →
      let b := (vs.map dwordBytes).flatten
      let n := cField c 20 4
      tm.rings.getLsbD n = true → kvGet none tm.ringst n = some r → cField c 16 4 < r.ncons →
      r.storers.contains (cField c 16 4) = false →
      (dN b 1 = 0 → exec (.pull t d a) s = .next ((s.markAll ps .read).wr t.toNat (.ofNat 64 (2 ^ 63))).advance) ∧
      (dN b 1 ≠ 0 → (∀ x ∈ s.streams, x.id ≠ s.nextId + 1) →
        ∃ (u : State) (x : Streamer), exec (.pull t d a) s = .next u ∧ Claims.Pending s u (.engine 8 t.toNat) t.toNat ∧
        u.streams = s.streams ++ [x] ∧ x.storer = true ∧ x.slot.isSome = true ∧ x.ring = n ∧ x.cons = cField c 16 4 ∧ x.desc = b ∧
        ∃ r', (u.team?.bind fun k => kvGet none k.ringst n) = some r' ∧ r'.storers.contains (cField c 16 4) = true)) ∧
    (let q := cField c 0 2
     let es := kvGet [] s.cur.g.oq q
     cField c 3 5 = 0 → cField c 56 8 = 0 →
      (16 ≤ es.length → exec (.oldg t d a) s = .next s ∧ (cField c 8 48 = 0 → exec (.oldu t d a) s = .next s)) ∧
      (es.length < 16 → cField c 8 48 = 0 → ∃ (u : State) (e : OqEntry), exec (.oldu t d a) s = .next u ∧ Claims.Pending s u (.opq q t.toNat) t.toNat ∧
        kvGet [] u.cur.g.oq q = es ++ [e] ∧ e.op = s.nextId ∧ e.base = va ∧ e.idx = none ∧ e.ssp = c.getLsbD 2 ∧ e.arrived = false) ∧
      (es.length < 16 → ∃ (u : State) (e : OqEntry), exec (.oldg t d a) s = .next u ∧ Claims.Pending s u (.opq q t.toNat) t.toNat ∧
        kvGet [] u.cur.g.oq q = es ++ [e] ∧ e.op = s.nextId ∧ e.base = va ∧ e.idx = some (.ofNat 64 (cField c 8 48 * 256)) ∧
        e.ssp = c.getLsbD 2 ∧ e.arrived = false))

/-- The token of an operation of the selected slice has been delivered: its register holds the value and is pending no more. -/
def Sys2Proof.Claims.Told (s u : State) (op : Nat) (v : W64) : Prop :=
  ∀ p tok, s.cur.sl.op? op = some p → (∃ q, p.kind = .engine q tok ∨ p.kind = .opq q tok) → tok ≠ 0 →
    u.rd tok = v ∧ u.cur.sl.pending.contains tok = false ∧ u.cur.sl.op? op = none

/-- Element `k` of an operation has been performed. -/
def Sys2Proof.Claims.performed (o : EngOp) (k : Nat) : Prop := k < o.next ∨ k ∈ o.ahead

/-- What an operation has performed before its first failure counts: all its elements, or those before that one. -/
def Sys2Proof.Claims.toDo (o : EngOp) : Nat := if o.cause = 0 then o.total else o.fail

/-- The first step of the operation at the head of a queue: held back while an operation it waits for or a fence that names the
queue is there, on a halted die, while its launch is to be rolled back, and by a pre-emption but where an issued fence waits
for it; then it starts, `chain` with its op words and bounds read, `tevict` with the line's address and 256 units where the
line is dirty.  A snapshot that is not there, or an illegal op word, fails it at element 0; reads that may not go to their
stacks yet are made later. -/
def Sys2Proof.Claims.EngineStart : Prop :=
  ∀ (s : State) (core q : Nat) (o : EngOp) (rest : List EngOp), (s.core core).queue q = o :: rest → s.asking o.id = false →
    o.started = false →
    let held := o.afts.any s.opOut = true ∨ s.fenced q o = true ∨ s.halted.contains (core / 48) = true ∨
      s.rollsBack o.tcb = true ∨ (s.paused o.team = true ∧ s.fenceAsks core q = false)
    let becomes := fun (o' : EngOp) => exec (.engineOpStart core q) s =
      .next (s.modHead core q fun _ => o')
    let snap := fun tc : Tcb => tc.st = .running ∧ tc.unprot = false ∧ tc.ctx = o.ctx
    (held → exec (.engineOpStart core q) s = .next s) ∧
    (¬held →
      ((o.code = 1 → o.ctrl.getLsbD 25 = false) → o.code ≠ 4 → o.code ≠ 10 → becomes { o with started := true }) ∧
      (o.code = 1 → o.ctrl.getLsbD 25 = true →
        (∀ tc, alFind s.tcbs (dAux o.desc).toNat = some tc → snap tc → becomes { o with started := true }) ∧
        ((∀ tc, alFind s.tcbs (dAux o.desc).toNat = some tc → ¬snap tc) → ∃ u o', exec (.engineOpStart core q) s = .next u ∧
          (u.core core).queue q = o' :: rest ∧ o'.cause = 2 ∧ o'.fail = 0 ∧ o'.started = true)) ∧
      (∀ cs ts wk, o.code = 4 → s.chainCodes o (cField o.ctrl 14 4) = .ok (cs, ts) wk →
        (s.reachable core wk = false → exec (.engineOpStart core q) s = .next s) ∧
        (s.reachable core wk = true → (∀ c ∈ cs, chainCodeOk c = true) → exec (.engineOpStart core q) s =
          .next ((s.markNeeds wk).modHead core q fun _ => { o with codes := cs, tbs := ts, started := true })) ∧
        (s.reachable core wk = true → (∃ c ∈ cs, chainCodeOk c = false) → ∃ u o', exec (.engineOpStart core q) s = .next u ∧
          (u.core core).queue q = o' :: rest ∧ o'.cause = 2 ∧ o'.fail = 0 ∧ o'.started = true)) ∧
      (∀ c x wk hs, o.code = 4 → s.chainCodes o (cField o.ctrl 14 4) = .fail c x wk hs →
        (s.reachable core wk = false → exec (.engineOpStart core q) s = .next s) ∧
        (s.reachable core wk = true → ∃ u o', exec (.engineOpStart core q) s = .next u ∧
          (u.core core).queue q = o' :: rest ∧ o'.cause = c ∧ o'.fail = 0 ∧ o'.fva = x ∧ o'.started = true)) ∧
      (∀ x, o.code = 4 → s.chainCodes o (cField o.ctrl 14 4) = .ask x → exec (.engineOpStart core q) s =
        .next (s.sendFrom (core / 48) (pkgOf x) (.load x 0 o.id 0))) ∧
      ∀ tm, o.code = 10 → alFind s.teams o.team = some tm → becomes { o with
        started := true, addr := .ofNat 64 (tagVa (tm.tagAt o.line)), total := if tagState (tm.tagAt o.line) = 3 then 256 else 0 })

/-- A further step: bytes on their way to the places in a scratchpad that the element writes land, the others stay on their way,
and one element that is to come, in any order, is performed: a scratchpad destination's bytes are on their way, a memory
destination's value is out as one stamped write of the core's die, or a message to another package; a failing one records
its cause, place and address; remote data are asked for; accesses that may not go to their stacks yet are made later. -/
def Sys2Proof.Claims.EngineElement : Prop :=
  ∀ (s : State) (core q : Nat) (o : EngOp) (rest : List EngOp), (s.core core).queue q = o :: rest → s.asking o.id = false →
    o.started = true →
    let i := s.pickEl o
    let hit := fun b => match s.engEl o i with
      | .ok e _ => e.puts.any (·.covers b)
      | _ => false
    let later := o.out.filter fun b => !hit b
    let s' := match s.engEl o i with
      | .ok _ _ => (s.land (o.out.filter hit)).modHead core q fun o => { o with out := later }
      | _ => s
    let goes := fun (u : State) (o' : EngOp) => exec (.engineOpStart core q) s = .next u ∧ (u.core core).queue q = o' :: rest ∧
      u.teams = s'.teams ∧ u.cur = s.cur
    let done := fun (o' : EngOp) (e : ElemOut) => (∀ k, Claims.performed o' k ↔ Claims.performed o k ∨ k = i) ∧
      o'.fflg = o.fflg ||| e.flags ∧ o'.value = o.value + e.count ∧ o'.cause = o.cause ∧ o'.served = o.served ++ e.served ∧
      ∀ h, h ∈ o'.hits ↔ h ∈ o.hits ∨ h ∈ e.hits
    (Claims.toDo o ≤ o.next → exec (.engineOpStart core q) s = .next s) ∧
    (o.next < Claims.toDo o →
      (o.asks = none → o.next ≤ i ∧ i < Claims.toDo o) ∧
      (∀ e wk, s'.engEl o i = .ok e wk → s'.reachable core wk = false → exec (.engineOpStart core q) s = .next s') ∧
      (∀ e wk, s'.engEl o i = .ok e wk → s'.reachable core wk = true →
        (e.puts = [] → ∃ (u : State) (o' : EngOp), goes u o' ∧ done o' e ∧ o'.out = later ∧ o'.writes = o.writes ∧
          u.writes = s.writes) ∧
        (∀ (k p size v : Nat) (va : W64), e.puts = [⟨.spad k p, size, v, va⟩] → ∃ (u : State) (o' : EngOp), goes u o' ∧
          done o' e ∧ o'.out = later ++ (List.range size).map (fun j => (k, p + j, BitVec.ofNat 8 (v / 2 ^ (8 * j)))) ∧
          o'.writes = o.writes ∧ u.writes = s.writes) ∧
        (∀ (pa size v h : Nat) (hc : Bool) (va : W64), e.puts = [⟨.mem pa hc, size, v, va⟩] → homeOf pa = some h →
          ∃ (u : State) (o' : EngOp) (w : PWrite), goes u o' ∧ done o' e ∧ o'.out = later ∧ u.writes = s.writes ++ [w] ∧
            o'.writes = o.writes ++ [w.id] ∧ w.x = pa / 8 * 8 ∧ w.by' = core / 48 ∧ w.mask = accMask pa size ∧
            w.data = placed pa (.ofNat 64 v) ∧ w.tcb = some o.tcb) ∧
        ∀ (pa size v : Nat) (hc : Bool) (va : W64), e.puts = [⟨.mem pa hc, size, v, va⟩] → homeOf pa = none →
          ∃ (u : State) (o' : EngOp), goes u o' ∧ done o' e ∧ o'.out = later ∧ o'.remote = o.remote ++ [(pa / 8 * 8, i, va)] ∧
            u.chans = (s.sendFrom (core / 48) (pkgOf pa) (.write (pa / 8 * 8) (accMask pa size) (placed pa (.ofNat 64 v)) 0 o.id)).chans) ∧
      (∀ c x wk hs, s'.engEl o i = .fail c x wk hs → s'.reachable core wk = false → exec (.engineOpStart core q) s = .next s') ∧
      (∀ c x wk hs, s'.engEl o i = .fail c x wk hs → s'.reachable core wk = true → ∃ (u : State) (o' : EngOp), goes u o' ∧
        o'.cause = c ∧ o'.fail = i ∧ o'.fva = x ∧ o'.next = o.next ∧ u.writes = s.writes ∧
        ∀ h, h ∈ o'.hits ↔ h ∈ o.hits ∨ h ∈ hs) ∧
      ∀ x, s'.engEl o i = .ask x → ∃ (u : State) (o' : EngOp), goes u o' ∧ o'.asks = some i ∧ o'.next = o.next ∧
        u.chans = (s.sendFrom (core / 48) (pkgOf x) (.load x 0 o.id 0)).chans)

/-- The end: when its elements are performed, its remote writes acknowledged and its writes applied, a failed operation with
a descriptor first writes FAULTVA; then the operation leaves the queue, a filled line is clean and a written-back one
invalid, and its token says how many elements, or the cause and the first that failed; what waited for it completes and each
bound it found a value outside counts a hit. -/
def Sys2Proof.Claims.EngineEnd : Prop :=
  ∀ (s : State) (core q : Nat) (o : EngOp) (rest : List EngOp), (s.core core).queue q = o :: rest →
    let ready := o.started = true ∧ Claims.toDo o ≤ o.next ∧ o.remote = [] ∧ s.applied core o.writes = true
    let tell := o.cause ≠ 0 ∧ o.told = false ∧ o.desc ≠ []
    let tag := fun (u : State) => (alFind u.teams o.team).map fun tm => tagState (tm.tagAt o.line)
    (¬ready → exec (.engineOpComplete core q) s = .next s) ∧
    (ready → tell → ∃ (u : State) (o' : EngOp), exec (.engineOpComplete core q) s = .next u ∧ (u.core core).queue q = o' :: rest ∧
      o'.told = true ∧ u.cur = s.cur ∧ ∀ t h, s.translateIn o.core o.ctx (o.dva + 32) .write false = .ok t → homeOf t.pa = some h →
        ∃ w : PWrite, u.writes = s.writes ++ [w] ∧ w.x = t.pa / 8 * 8 ∧ w.by' = o.core / 48 ∧ w.data = placed t.pa o.fva) ∧
    (ready → ¬tell → ∃ v : State,
      let tok : W64 := .ofNat 64 (2 ^ 63 + if o.cause = 0
        then (if o.code = 3 then o.value else if o.code = 9 then 2048 else if o.code = 10 then 8 * o.total else o.total) % 2 ^ 56
        else o.cause * 2 ^ 56 + o.fail % 2 ^ 56)
      let u := ((o.hits.foldl (fun s h => s.onSlice o.grp o.slice fun s => s.hit h 0) v).leaveBehind q o).completeOp o.id tok
      exec (.engineOpComplete core q) s = .next u.settle ∧ (u.core core).queue q = rest ∧
      (o.hits = [] ∨ (s.cur.g.id ≠ 0 ∧ ∀ r ∈ s.others, r.g.id ≠ s.cur.g.id) → Claims.Told s u o.id tok) ∧
      (o.code = 9 → tag s = some 1 → (∀ p ∈ rest, ¬(p.code = 9 ∧ p.team = o.team ∧ p.line = o.line)) →
        tag u = some (if o.cause = 0 then 2 else 0)) ∧
      (o.code = 10 → o.cause = 0 → (∃ k, tag s = some k ∧ 2 ≤ k) → tag u = some 0))

/-- Loaders.  A Cupola accepts a subscription into a free one of its 64 slots, and the token carries the handle; a loader
takes the ring's next item once the ring has room for it, reads its next tile, and publishes it: its bytes stand in the
item's cell and its sequence word is valid; after the last tile it ends.  A tile whose read fails is published as an item
with the cause, and the loader ends. -/
def Sys2Proof.Claims.LoaderSteps : Prop :=
  (∀ (s : State) (op : Nat) (x : Streamer), s.streams.find? (fun x => x.op == op && !x.storer && x.slot.isNone) = some x →
    (s.paused x.team = true ∨ (∀ k, k < 64 → k ∈ s.busySlots x.stack) → exec (.subscriptionAccept op) s = .next s) ∧
    (s.paused x.team = false → (∃ k, k < 64 ∧ k ∉ s.busySlots x.stack) → ∃ u k, exec (.subscriptionAccept op) s = .next u ∧
      k < 64 ∧ k ∉ s.busySlots x.stack ∧ Claims.Told s u op (.ofNat 64 (2 ^ 63 + (x.stack * 256 + k) % 2 ^ 56)) ∧
      ∀ y ∈ u.streams, y.id = x.id → y.slot = some k)) ∧
  ∀ (s : State) (stack slot : Nat) (x : Streamer) (r : Ring), s.streamAt false stack slot = some x →
    s.ringOf x.team x.ring = some r →
    let cell := fun q => if r.ncell = 0 then 0 else q % r.ncell
    let reads := engList (fun u => s.engRead (s.streamOp x) false (dSrc x.desc + .ofNat 64 x.next * dSS x.desc 1) (.ofNat 64 u.1) u.2)
      (unitsOf (dN x.desc 0))
    let published := fun (q w : Nat) => some { r with seqs := kvPut 0 r.seqs (cell q) (.ofNat 64 w) }
    (x.item = none → (r.roomFor r.counter = false ∨ s.paused x.team = true) → exec (.loaderPublish stack slot) s = .next s) ∧
    (x.item = none → r.roomFor r.counter = true → s.paused x.team = false → ∃ u : State,
      exec (.loaderPublish stack slot) s = .next u ∧ u.ringOf x.team x.ring = some { r with counter := r.counter + 1 } ∧
      u.streams = s.streams.map fun y => if y.id = x.id then { y with item := some r.counter } else y) ∧
    (∀ n, x.item = some n → x.out = none →
      (∀ vs wk, reads = .ok vs wk → (s.reachable (s.teamCore x.team) wk = false → exec (.loaderPublish stack slot) s = .next s) ∧
        (s.reachable (s.teamCore x.team) wk = true → ∃ u : State, exec (.loaderPublish stack slot) s = .next u ∧
          u.ringOf x.team x.ring = some r ∧ (∀ y ∈ u.streams, y.id = x.id → y.out = some (unitBytes x.team
            ((r.basel + cell n * r.cln) * 2048) ((unitsOf (dN x.desc 0)).zip vs))) ∧ u.views = (s.markNeeds wk).views)) ∧
      (∀ c a wk hs, reads = .fail c a wk hs → c ≠ 0 →
        (s.reachable (s.teamCore x.team) wk = false → exec (.loaderPublish stack slot) s = .next s) ∧
        (s.reachable (s.teamCore x.team) wk = true → ∃ u : State, exec (.loaderPublish stack slot) s = .next u ∧
          u.ringOf x.team x.ring = published n (2 ^ 63 + (2 ^ 62 + c * 2 ^ 55) + n % 2 ^ 48) ∧ ∀ y ∈ u.streams, y.id ≠ x.id)) ∧
      ∀ loc, reads = .ask loc → exec (.loaderPublish stack slot) s = .next (s.askStream x loc)) ∧
    ∀ n bs, x.item = some n → x.out = some bs → ∃ u : State, exec (.loaderPublish stack slot) s = .next u ∧
      u.ringOf x.team x.ring = published n (2 ^ 63 + n % 2 ^ 48) ∧
      (∀ k, (alFind u.teams k).map (·.mem) = (alFind (s.land bs).teams k).map (·.mem)) ∧
      (dN x.desc 1 ≤ x.next + 1 → ∀ y ∈ u.streams, y.id ≠ x.id) ∧
      (x.next + 1 < dN x.desc 1 → u.streams = s.streams.map fun y =>
        if y.id = x.id then { y with next := y.next + 1, item := none, out := none } else y)

/-- Storers.  A storer sends the item at its cursor once it is published, and when the stores into another package have been
acknowledged its cursor and count go up by one; an item with a cause, and a failing store, end it with the cursor at that
item; after its last item, or after a failure with FAULTVA written, once its writes are applied it lets its cursor go and its
token says how many items it has stored, or the cause and the item. -/
def Sys2Proof.Claims.StorerSteps : Prop :=
  ∀ (s : State) (stack slot : Nat) (x : Streamer) (r : Ring), s.streamAt true stack slot = some x →
    s.ringOf x.team x.ring = some r →
    let i := Instr.storerStore stack slot
    let q := r.cursor x.cons
    let atEnd := x.cause ≠ 0 ∨ (dN x.desc 1 ≤ x.next ∧ x.sent = false)
    let reads := engList (fun v : Nat × Nat => (s.engAt (s.streamOp x) true (r.spa q) (.ofNat 64 v.1) v.2 .read).bind fun f =>
      (s.engGet (s.streamOp x) f v.2 (r.spa q)).bind fun z =>
        (s.engAt (s.streamOp x) false (dDst x.desc + .ofNat 64 x.next * dDS x.desc 1) (.ofNat 64 v.1) v.2 .write).bind fun t =>
          EngRes.pure (⟨t, v.2, z, dDst x.desc + .ofNat 64 x.next * dDS x.desc 1 + .ofNat 64 v.1⟩ : Put)) (unitsOf (dN x.desc 0))
    let becomes := fun (f : Streamer → Streamer) => exec i s = .next { s with
      streams := s.streams.map fun y => if y.id = x.id then f y else y }
    (x.remote ≠ [] → exec i s = .next s) ∧
    (x.remote = [] →
      (∀ a, atEnd → x.fva = some a → ∃ u : State, exec i s = .next u ∧ (∀ y ∈ u.streams, y.id = x.id → y.fva = none) ∧
        u.ringOf x.team x.ring = some r ∧ u.cur = s.cur) ∧
      (atEnd → x.fva = none → s.applied (s.teamCore x.team) x.writes = false → exec i s = .next s) ∧
      (atEnd → x.fva = none → s.applied (s.teamCore x.team) x.writes = true → ∃ u : State, exec i s = .next u ∧
        (∀ y ∈ u.streams, y.id ≠ x.id) ∧ u.ringOf x.team x.ring = some { r with storers := r.storers.filter (· != x.cons) } ∧
        Claims.Told s u x.op (.ofNat 64 (2 ^ 63 + (if x.cause = 0 then 0 else x.cause * 2 ^ 56) + x.next % 2 ^ 56))) ∧
      (¬atEnd → x.sent = true → ∃ u : State, exec i s = .next u ∧
        u.streams = s.streams.map (fun y => if y.id = x.id then { y with next := y.next + 1, sent := false } else y) ∧
        u.ringOf x.team x.ring = some { r with cursors := kvPut 0 r.cursors x.cons (q + 1) } ∧ u.views = s.views) ∧
      (¬atEnd → x.sent = false →
        (r.published q = false ∨ s.paused x.team = true → exec i s = .next s) ∧
        (r.published q = true → s.paused x.team = false →
          ((r.seqWord q).getLsbD 62 = true → becomes fun y => { y with cause := (r.seqWord q).toNat / 2 ^ 55 % 128 }) ∧
          ((r.seqWord q).getLsbD 62 = false →
            (∀ ps wk, reads = .ok ps wk → s.reachable (s.teamCore x.team) wk = false → exec i s = .next s) ∧
            (∀ ps wk, reads = .ok ps wk → s.reachable (s.teamCore x.team) wk = true → ∃ u : State, exec i s = .next u ∧
              u.ringOf x.team x.ring = some r ∧ (∀ y ∈ u.streams, y.id = x.id → y.sent = true) ∧
              u.writes = ((s.markNeeds wk).engPuts (s.teamCore x.team) x.id (some x.tcb) ps).1.writes ∧
              u.chans = ((s.markNeeds wk).engPuts (s.teamCore x.team) x.id (some x.tcb) ps).1.chans) ∧
            (∀ c a wk hs, reads = .fail c a wk hs → s.reachable (s.teamCore x.team) wk = false → exec i s = .next s) ∧
            (∀ c a wk hs, reads = .fail c a wk hs → s.reachable (s.teamCore x.team) wk = true → ∃ u : State, exec i s = .next u ∧
              u.streams = s.streams.map (fun y => if y.id = x.id then { y with cause := c, fva := some a } else y) ∧
              u.ringOf x.team x.ring = some r ∧ u.writes = s.writes) ∧
            ∀ loc, reads = .ask loc → exec i s = .next s))))

/-- Operand queues.  An entry of the selected group first has its 32 lanes checked, its loads then being accesses of its
operation; when they have all been performed its data arrive; a lane that fails, and uncorrectable data, make it a failed
entry with the cause and the address. -/
def Sys2Proof.Claims.QueueEntry : Prop :=
  ∀ (s : State) (q k : Nat) (e : OqEntry) (o : Op), (kvGet [] s.cur.g.oq q)[k]? = some e → s.cur.sl.op? e.op = some o →
    let i := Instr.oqEntryArrive q k
    let stands := fun (u : State) (e' : OqEntry) => kvGet [] u.cur.g.oq q = listSet (kvGet [] s.cur.g.oq q) k e'
    let fails := fun (c l : Nat) (a : W64) => ∃ u : State, exec i s = .next u ∧
      stands u { e with started := true, arrived := true, cause := c, addr := a } ∧
      Claims.Told s u e.op (.ofNat 64 (2 ^ 63 + c * 2 ^ 56 + l))
    (e.arrived = true → exec i s = .next s) ∧
    (e.arrived = false → e.started = false →
      (∀ c x, s.entryAddrs o.seq e = .error (c, x) → (c = notYet → exec i s = .next s) ∧
        (c ≠ notYet → c ≠ 0 → fails c 0 (e.idx.getD 0))) ∧
      ∀ as ps, s.entryAddrs o.seq e = .ok (as, ps) →
        let l := (s.markAll ps .read).entryChecks e as
        (∀ c m a, firstCause l = some (c, m, a) → c ≠ 0 → fails c ((lanesOf m).headD 0) a) ∧
        (firstCause l = none → ∃ u : State, exec i s = .next u ∧ stands u { e with started := true } ∧
          (∀ p ∈ u.cur.sl.ops, p.id = o.id → p.acc = accessesOf l 8 (fun _ => 0) fun _ => 0) ∧ (∀ n, u.rd n = s.rd n) ∧
          u.views = ((s.markAll ps .read).markAll (pathsOf l) .read).views)) ∧
    (e.arrived = false → e.started = true →
      ((∃ a ∈ o.acc, a.st.performed = false) → exec i s = .next s) ∧
      ((∀ a ∈ o.acc, a.st = .done) → e.cause = 0 → ∃ u : State, exec i s = .next u ∧
        stands u { e with arrived := true, data := gotLanes o.acc } ∧ Claims.Told s u e.op (.ofNat 64 (2 ^ 63 + 256))) ∧
      ∀ a, (∀ a ∈ o.acc, a.st = .done ∨ a.st = .bad) → o.acc.find? (·.st == .bad) = some a → fails 0x0A a.lane a.va)

/-- O48. The steps of the engines, of the loaders and storers and of the operand queues.  The model's choices: the units in which
bytes reach a scratchpad (log 13), the item after which a loader or a storer pauses (log 17), and a line that stays filling
after a failure (log 54). -/
def Obligations.EngineSteps : Prop :=
  Claims.EngineStart ∧ Claims.EngineElement ∧ Claims.EngineEnd ∧ Claims.LoaderSteps ∧ Claims.StorerSteps ∧ Claims.QueueEntry

/-! ## Bags (05) -/

/-- What a BAG word sends to its placement home: member, destination, record and key names, the bag, second operand; its
flag; its scalar destination, none for the records' words; its descriptor address, none for the words on an iteration and
bnew; whether its other checks pass. -/
def Sys2Proof.Claims.bag (s : State) : Instr → Option (OpKind × Option Nat × Option Nat × Option W64 × Prop)
  | .bput r k b l f => some (.bag .put 0 r.toNat k.toNat (s.rd b.toNat) (l.setWidth 64), s.fsFlag f, none, some (s.rd b.toNat), True)
  | .bputl r b f => some (.bag .putl 0 r.toNat 0 (s.rd b.toNat) 0, s.fsFlag f, none, none, True)
  | .bnext r k b f => some (.bag .next 0 r.toNat k.toNat (s.rd b.toNat) 0, s.fsFlag f, none, none, True)
  | .bwrite r k b l f => some (.bag .write 0 r.toNat k.toNat (s.rd b.toNat) (l.setWidth 64), s.fsFlag f, none, none, True)
  | .bcount d a => some (.bag .count d.toNat 0 0 (s.rd a.toNat) 0, s.setaFlag, some d.toNat, some (s.rd a.toNat), True)
  | .bcounts d a b => some (.bag .counts d.toNat 0 0 (s.rd a.toNat) (s.rd b.toNat), s.setaFlag, some d.toNat, some (s.rd a.toNat),
      (s.rd b.toNat).toNat % 4 = 0)
  | .bnew d a b => some (.bag .new d.toNat 0 0 (s.rd a.toNat) (s.rd b.toNat), s.setaFlag, some d.toNat, none,
      bagParamOk (s.rd a.toNat) = true ∧ 1 ≤ (s.rd b.toNat).toNat ∧ (s.rd b.toNat).toNat < 2 ^ 32)
  | .bgrow d a b => some (.bag .grow d.toNat 0 0 (s.rd a.toNat) (s.rd b.toNat), s.setaFlag, some d.toNat, some (s.rd a.toNat),
      (s.rd b.toNat).toNat < 2 ^ 32)
  | .bfree d a => some (.bag .free d.toNat 0 0 (s.rd a.toNat) 0, s.setaFlag, some d.toNat, some (s.rd a.toNat), True)
  | .bseal d a => some (.bag .seal d.toNat 0 0 (s.rd a.toNat) 0, s.setaFlag, some d.toNat, some (s.rd a.toNat), True)
  | .biter d a b => some (.bag .iter d.toNat 0 0 (s.rd a.toNat) (s.rd b.toNat), s.setaFlag, some d.toNat, some (s.rd a.toNat), True)
  | .bdrain d a b => some (.bag .drain d.toNat 0 0 (s.rd a.toNat) (s.rd b.toNat), s.setaFlag, some d.toNat, none, (s.rd b.toNat).toNat ≤ 1)
  | _ => none

/-- The word has gone to its home: the walk to its descriptor marked, its operation outstanding, the slice waiting for it. -/
def Sys2Proof.Claims.sentHome (s : State) (k : OpKind) (f : Option Nat) (va : Option W64) : State :=
  ((match va with
    | some a => s.bagMark a
    | none => s).issue k f []).setWait none (.bag s.nextId)

/-- The home has performed operation `o` of the selected slice, `t` the state after its effect: the writes it made are own
writes of the word, the operation leaves unless another package has still to acknowledge one, the word completes. -/
def Sys2Proof.Claims.served (s t : State) (o : Op) : State := ((t.ownFrom s.nextId o).bagLeave o).complete'

/-- What PLACEMENT_HOME_APPLY makes of operation `op`, which is `o` of the selected slice.  bcount gives the number of records;
bseal seals and gives it; bcounts gives it too and writes the count words; bnew gives the descriptor's address, or 0 where
the pool has no room; bgrow gives 0 with the capacity no smaller, or 1 where the pool has no room; bfree frees and gives 0, or
gives 1 while an iteration is open; biter opens the one iteration a share can have, and says with bit 63 that there is one and
with bit 62 that the table is full; bdrain closes it and gives the number of records taken off; bnext gives each executing
lane the next record and its handle, or the end, and moves the cursor; bwrite writes records at handles the cursor has passed;
bput places each lane's record, in its home bank's share while that is within the slack of the least filled and not full,
else in the lowest of the least filled open ones, and bputl in the iteration's share; a full bag takes cause 0x0B from that
lane on, and no open or sealed bag 0x0C. -/
def Sys2Proof.Claims.AtHome (s : State) (op : Nat) (o : Op) : Prop :=
  ∀ d rec key bag aux,
    let done := fun (b : BagWord) (t : State) => o.kind = .bag b d rec key bag aux →
      exec (.placementHomeApply op) s = .next (Claims.served s t o)
    let gives := fun (b : BagWord) (P : State → Prop) => o.kind = .bag b d rec key bag aux →
      ∃ t : State, exec (.placementHomeApply op) s = .next (Claims.served s t o) ∧ P t
    let traps := fun (b : BagWord) (t : State) (c : Nat) (m : Mask) (a : W64) => o.kind = .bag b d rec key bag aux →
      exec (.placementHomeApply op) s = .next ((((t.dropOp o).clearWait).trap c m a).focus s.cur.g.id s.cur.sl.kind)
    (∀ x y, s.bagOf bag = .ok (x, y) → let u := s.touchBank x.pa
      done .count (u.wr d (.ofNat 64 (bdTotal y))) ∧
      done .seal ((u.homeWrite s.launch? (x.pa + 12) [2]).wr d (.ofNat 64 (bdTotal y))) ∧
      (∀ t, u.bagCountsTo d aux x y o.id = .ok (t, none) → gives .counts fun u => u = t ∧
        ((∀ j pa hc p, j < bdBanks y → s.checkVa (aux + .ofNat 64 (4 * j)) 4 .write = .ok (.mem pa hc, p) → (homeOf pa).isSome = true) →
          d ≠ 0 → u.rd d = .ofNat 64 (bdTotal y))) ∧
      (aux.toNat ≤ bdCap y → done .grow (u.wr d 0)) ∧
      (∀ t, bdCap y < aux.toNat → u.bagGrow d aux.toNat x y = .ok (t, none) → gives .grow fun v => v = t ∧
        (d ≠ 0 → (v.rd d = 0 ∧ v.views = (u.homeWrite s.launch? (x.pa + 20) (leBytes 4 aux.toNat)).views) ∨
          (v.rd d = 1 ∧ v.views = s.views))) ∧
      ((∃ i ∈ s.iters, i.bag = x.pa) → done .free (u.wr d 1)) ∧
      ((∀ i ∈ s.iters, i.bag ≠ x.pa) → gives .free fun t => (∀ q ∈ t.bags, q.pa ≠ x.pa) ∧ (d ≠ 0 → t.rd d = 0) ∧
        t.views = (u.homeWrite s.launch? (x.pa + 12) [0]).views) ∧
      (bdBanks y ≤ aux.toNat → traps .iter s 0x0C s.exec' aux) ∧
      (∀ cs, aux.toNat < bdBanks y → aux.toNat < 4096 → s.countsOf x y = .ok cs →
        let one := ∃ i ∈ s.iters, i.bag = x.pa ∧ i.share = aux.toNat
        let full := 4096 ≤ (s.iters.filterMap fun i => if stackOf i.bag = stackOf x.pa then some i.entry else none).length
        (one → gives .iter fun t => t.iters = s.iters ∧ (d ≠ 0 → (t.rd d).getLsbD 63 = true)) ∧
        (¬one → full → gives .iter fun t => t.iters = s.iters ∧ (d ≠ 0 → (t.rd d).getLsbD 63 = false ∧ (t.rd d).getLsbD 62 = true)) ∧
        (¬one → ¬full → gives .iter fun t => ∃ i : Iter, t.iters = s.iters ++ [i] ∧ i.bag = x.pa ∧ i.share = aux.toNat ∧
          i.pos = 0 ∧ i.last = cs.getD aux.toNat 0 ∧ (d ≠ 0 → t.rd d = i.handle))) ∧
      (bdState y = 2 → Claims.plain s rec (bdRec y / 8) → traps .put s 0x0C s.exec' bag) ∧
      ∀ vs g cs t cs' fl, bdState y ≠ 2 → s.cur.sl.kind = .execute → Claims.plain s rec (bdRec y / 8) →
        s.sources (((List.range (bdRec y / 8)).map fun i => ⟨rec + i, false⟩) ++ [⟨key, aux == 1⟩]) none = .ok (vs, g) →
        s.countsOf x y = .ok cs →
        u.putRecs s.launch? x y (fun cs l => placeShare y cs (homeBank y
          ((lane (vs.getD (bdRec y / 8) zeroLanes) l).toNat % 2 ^ bdKey y))) (recBytes (vs.take (bdRec y / 8)))
          (lanesOf s.wordExec) cs = (t, cs', fl) →
        (fl = none → done .put ((t.writeCounts s.launch? x y cs cs').setG fun _ => g)) ∧
        ∀ l, fl = some l → o.kind = .bag .put d rec key bag aux → exec (.placementHomeApply op) s =
          .next ((((((t.writeCounts s.launch? x y cs cs').ownFrom s.nextId o).dropOp o).clearWait).trap 0x0B
            (maskOf fun k => inMask s.wordExec k && decide (l ≤ k)) x.va).focus s.cur.g.id s.cur.sl.kind)) ∧
    (s.makeBag s.cur.g.ctx s.launch? bag aux.toNat = none → done .new (s.wr d 0)) ∧
    (∀ t va, s.makeBag s.cur.g.ctx s.launch? bag aux.toNat = some (t, va) → done .new (t.wr d (.ofNat 64 va))) ∧
    (∀ i x y t, s.iterOf bag = .ok (i, x, y) → let u := s.touchBank i.bag
      (u.bagDrain d aux i x y = .ok (t, none) → gives .drain fun u => u = t ∧ (∀ q ∈ t.iters, q.handle ≠ i.handle) ∧
        (d ≠ 0 → t.rd d = .ofNat 64 (if aux = 0 then i.pos else 0))) ∧
      (u.bagPut rec none x y bag (some i.share) = .ok (t, none) → done .putl t) ∧
      (u.bagNext rec key i x y = .ok (t, none) → gives .next fun u => u = t ∧
        ((∀ n, n < i.last → s.unreadable (x.recAt y i.share n) = false) →
          ∀ q ∈ t.iters, q.handle = i.handle → q.pos = i.pos + ((lanesOf s.wordExec).take (i.last - i.pos)).length)) ∧
      (u.bagWrite rec ⟨key, aux == 1⟩ i x y = .ok (t, none) → done .write t)) ∧
    (s.bagOf bag = .trap 0x0C s.exec' bag → traps .count s 0x0C s.exec' bag ∧ traps .put s 0x0C s.exec' bag ∧
      traps .seal s 0x0C s.exec' bag ∧ traps .free s 0x0C s.exec' bag)

/-- O49. A BAG word whose own checks pass sends its operation to the bag's placement home and the slice waits for it; with the
earlier releases of the slice done, no bag operation of the group's other slice under way, every home ready to stamp a write
and every home's clock at what a store that leaves now would follow, no bank of a bag refreshing, the home can perform it
there and then, and it completes so.  A destination that belongs to
trap handling takes cause 0x03, then a descriptor address that is no multiple of 64 cause 0x09 with it. -/
def Obligations.BagWords : Prop :=
  ∀ (s : State) (i : Instr) (k : OpKind) f dst va ok, Claims.bag s i = some (k, f, dst, va, ok) →
    (∀ n, s.cur.sl.wait ≠ some (.bag n)) → Claims.room s f →
    (∀ d, dst = some d → Claims.trapRegister s d → exec i s = .next (s.trap 0x03 s.exec' (.ofNat 64 d))) ∧
    ((∀ d, dst = some d → ¬Claims.trapRegister s d) →
      (∀ a, va = some a → a.toNat % 64 ≠ 0 → exec i s = .next (s.trap 0x09 s.exec' a)) ∧
      ((∀ a, va = some a → ∃ p, s.bagVa a = .ok p) → ok →
        let t := Claims.sentHome s k f va
        exec i s = .next t ∧ t.cur.sl.wait = some (.bag s.nextId) ∧
        ((∀ p ∈ s.cur.sl.ops, p.id ≠ s.nextId) → s.cur.sl.released s.cur.sl.nextSeq = true → s.homesReady = true →
          (∀ h, h < 5 → (s.leaveClk s.die).le (s.clock h) = true) → (∀ q ∈ s.bags, q.idle s = true) →
          (∀ c, s.cur.g.companion = some c → ∀ p ∈ c.ops, s.nextId ≤ p.id ∨ ∀ b d r k g a, p.kind ≠ .bag b d r k g a) →
          ∃ o, t.cur.sl.op? s.nextId = some o ∧ o.kind = k ∧ t.bagReady o = true ∧ Claims.AtHome t s.nextId o)))

/-- O50. PLACEMENT_HOME_APPLY on an operation of the selected slice: one that may not be performed yet is left; one that may
has its effect.  The share a record goes to is its home bank's while that is within the slack of the least filled and not
full, else the lowest of the least filled open ones; there is none exactly where every share is full. -/
def Obligations.PlacementHome : Prop :=
  (∀ (s : State) (op : Nat) (o : Op), s.cur.sl.op? op = some o →
    (s.bagReady o = false → exec (.placementHomeApply op) s = .next s) ∧
    (s.bagReady o = true → Claims.AtHome s op o)) ∧
  (∀ (s : State) (op : Nat), s.holder op = none → exec (.placementHomeApply op) s = .next s) ∧
  ∀ (d : List Byte) (cs : List Nat) (h : Nat), h < cs.length →
    let near := (∀ k, k < cs.length → cs.getD h 0 ≤ cs.getD k 0 + bdSlack d) ∧ cs.getD h 0 < bdCap d
    (near → placeShare d cs h = some h) ∧
    (¬near → ∀ j, placeShare d cs h = some j → j < cs.length ∧ cs.getD j 0 < bdCap d ∧
      ∀ k, k < cs.length → cs.getD k 0 < bdCap d → cs.getD j 0 ≤ cs.getD k 0 ∧ (k < j → cs.getD j 0 < cs.getD k 0)) ∧
    (placeShare d cs h = none ↔ ∀ k, k < cs.length → bdCap d ≤ cs.getD k 0)

/-! ## Tasks (18) -/

/-- The frame that the word has made under handle `h` with the data `vs`, `v` the state with the walks of its reads marked: SIZE
slots, its piece, nobody's own; its record last in its class of the cluster's queues, joined where JW says so. -/
def Sys2Proof.Claims.Spawned (s v u : State) (t : Team) (h code ctl : W64) (vs : List W64) (piece : Option Nat) : Prop :=
  ∃ (x : Frame) (r : ContRec), alFind u.frames s.nextId = some x ∧ x.handle = h ∧ x.size = ctl.toNat % 1024 + 1 ∧ x.owner = .nobody ∧
    x.piece = piece ∧ x.tcb = s.cur.g.tcb ∧ r.frame = h ∧ r.code = code ∧ r.kind = 1 ∧ r.prio = ctl.toNat / 2 ^ 10 % 4 ∧
    r.join = (if ctl.getLsbD 12 then s.disp 3 else 0) ∧ Claims.filled v u s.nextId h (ctl.toNat % 1024 + 1) vs ∧
    (∀ c, alFind s.clusters t.cluster = some c → ∃ c', alFind u.clusters t.cluster = some c' ∧
      kvGet [] c'.crqs r.prio = kvGet [] c.crqs r.prio ++ [r]) ∧
    ∀ k, u.rd k = s.rd k

/-- O51. spawn and spawnr, once the release they imply is done: a frame of SIZE slots, cleared or with its initial data, and
a record of the class PRIO at the tail of the cluster's queue, joined to the current depth-3 frame where JW says so; spawnr
gives the frame a piece [lo, hi) of grain GRAIN.  In this order: a control word with a reserved bit, and lo past hi, take cause
0x02, a code address off a word and initial data off a dword 0x09; by the model's choice (log 37) the storage comes next, no
room for it 0x10 with reason 1, then unreadable initial data their own, then JW without a depth-3 frame 0x10 with reason 0. -/
def Obligations.SpawnWords : Prop :=
  ∀ (s : State) (a b : BitVec 9) (c : BitVec 7) (t : Team), s.cur.sl.kind = .execute → Claims.room s s.setaFlag → s.team? = some t →
    let code := s.rd a.toNat
    let ctl := s.rd c.toNat
    let va := s.rd b.toNat
    let size := ctl.toNat % 1024 + 1
    let lo := va.toNat % 2 ^ 32
    let hi := va.toNat / 2 ^ 32
    let place := s.placeFrame t.core t.cidx s.cur.g.ctx 3 size
    let plain := ctl.toNat < 2 ^ 13
    let ranged := ctl.toNat < 2 ^ 48 ∧ ctl.toNat / 2 ^ 13 % 8 = 0 ∧ 1 ≤ ctl.toNat / 2 ^ 16 ∧ 1 ≤ ctl.toNat % 1024
    let alone := ctl.getLsbD 12 = true ∧ s.disp 3 = 0
    let one := exec (.spawn a b c) s
    let two := exec (.spawnr a b c) s
    let full : Host.Outcome State Fault Refusal := .next (s.trap 0x10 s.exec' (frameReport 1 3))
    (¬plain → one = .next (s.trap 0x02 s.exec' ctl)) ∧ (¬ranged → two = .next (s.trap 0x02 s.exec' ctl)) ∧
    (ranged → hi < lo → two = .next (s.trap 0x02 s.exec' va)) ∧
    (code.toNat % 4 ≠ 0 → (plain → one = .next (s.trap 0x09 s.exec' code)) ∧
      (ranged → lo ≤ hi → two = .next (s.trap 0x09 s.exec' code))) ∧
    (code.toNat % 4 = 0 → plain → va.toNat % 8 ≠ 0 → one = .next (s.trap 0x09 s.exec' va)) ∧
    (code.toNat % 4 = 0 → place = none ∨ s.recRoom 1 = false →
      (plain → va.toNat % 8 = 0 → one = full) ∧ (ranged → lo ≤ hi → two = full)) ∧
    ∀ h, code.toNat % 4 = 0 → place = some h → s.recRoom 1 = true → alFind s.frames s.nextId = none →
      (plain → va.toNat % 8 = 0 → (∀ c m x, va ≠ 0 → s.readInit va size = .trap c m x → one = .next (s.trap c m x)) ∧
        (va ≠ 0 → s.readInit va size = .stall → one = .next s) ∧
        ∀ vs ps, (if va = 0 then (vs, ps) = ([], []) else s.readInit va size = .ok (vs, ps)) →
          let v := s.markAll ps .read
          (alone → one = .next (s.trap 0x10 s.exec' (frameReport 0 3))) ∧
          (¬alone → s.released (dieBit s.die) = false → one = .next s) ∧
          (¬alone → s.released (dieBit s.die) = true → ∃ u, one = .next u ∧ Claims.Spawned s v u t h code ctl vs none)) ∧
      (ranged → lo ≤ hi → (alone → two = .next (s.trap 0x10 s.exec' (frameReport 0 3))) ∧
        (¬alone → s.released (dieBit s.die) = false → two = .next s) ∧
        (¬alone → s.released (dieBit s.die) = true → ∃ u, two = .next u ∧
          Claims.Spawned s s u t h code ctl [.ofNat 64 lo, .ofNat 64 hi] (some (ctl.toNat / 2 ^ 16))))

/-- rtake and tself.  rtake gives the lowest index of the piece at its depth and takes it, all ones from an empty one; no piece
there takes cause 0x13 with the depth, a depth outside 1 to 3 0x02.  tself gives TCB, priority class and kind of the task, and
what is left of the deepest piece; both give 0 in a stream of the Keep.  A piece whose bounds are uncorrectable takes 0x0A. -/
def Sys2Proof.Claims.PieceWords : Prop :=
  ∀ (s : State) (a b : BitVec 9), Claims.room s s.setaFlag →
    let B := s.rd b.toNat
    let legible := fun p : PieceAt => ∀ f, p = .frame f → s.slotBad f 0 = false ∧ s.slotBad f 1 = false
    let own := s.cur.sl.kind = .execute ∨ s.cur.sl.kind = .access
    let deepest := ([3, 2, 1].filterMap s.pieceAt).head?
    (own →
      (B.toNat = 0 ∨ 3 < B.toNat → exec (.rtake a b) s = .next (s.trap 0x02 s.exec' B)) ∧
      (1 ≤ B.toNat → B.toNat ≤ 3 →
        (Claims.trapRegister s a.toNat → exec (.rtake a b) s = .next (s.trap 0x03 s.exec' (.ofNat 64 a.toNat))) ∧
        (¬Claims.trapRegister s a.toNat →
          (s.pieceAt B.toNat = none → exec (.rtake a b) s = .next (s.trap 0x13 s.exec' B)) ∧
          (∀ p, s.pieceAt B.toNat = some p → legible p →
            ((s.bounds p).1 < (s.bounds p).2 →
              exec (.rtake a b) s = .next (((s.markPiece p).takeIndex p).wr a.toNat (.ofNat 64 (s.bounds p).1)).advance) ∧
            ((s.bounds p).2 ≤ (s.bounds p).1 → exec (.rtake a b) s = .next ((s.markPiece p).wr a.toNat ones64).advance)) ∧
          ∀ f x, s.pieceAt B.toNat = some (.frame f) → alFind s.frames f = some x → s.slotBad f 0 = true →
            exec (.rtake a b) s = .next (s.trap 0x0A s.exec' (x.slotVa 0))))) ∧
    (s.cur.sl.kind.isKeep = true → exec (.rtake a b) s = .next (s.trap 0x13 s.exec' s.wordAux)) ∧
    (¬Claims.trapRegister s a.toNat → ¬Claims.trapRegister s b.toNat →
      (own → (∀ p, deepest = some p → legible p) → exec (.tself a b) s = .next ((((deepest.map s.markPiece).getD s).wr a.toNat (.ofNat 64
        (s.cur.g.tcb * 2 ^ 16 + s.cur.g.prio * 4 + (match s.cur.g.task with
          | .team => 0
          | .spawned => 1
          | .continuation => 2
          | .tile => 3)))).wr b.toNat (match deepest with
            | some p => .ofNat 64 ((s.bounds p).2 - (s.bounds p).1)
            | none => 0)).advance) ∧
      (s.cur.sl.kind.isKeep = true → exec (.tself a b) s = .next ((s.wr a.toNat 0).wr b.toNat 0).advance))

/-- launch and tcbdec, legal in a group's own stream and in the Keep's.  launch puts the packet at the tail of its queue, where it
has room, and is outstanding until the packet is accepted; a full queue holds it back.  tcbdec takes its units off a waiting
launch's counts, which makes it ready when none is left, after a release at sg3; a launch of another context, one that does
not wait and one with fewer manual units take cause 0x13.  A register value outside its table takes cause 0x02 first, then a
destination that handlers keep 0x03, then a packet off 64 bytes 0x09. -/
def Sys2Proof.Claims.LaunchWords : Prop :=
  ∀ (s : State) (a b : BitVec 9) (c : BitVec 7), Claims.room s s.setaFlag →
    let A := s.rd a.toNat
    let B := s.rd b.toNat
    let C := s.rd c.toNat
    (s.cur.sl.kind = .access → exec (.launch a b c) s = .next (s.trap 0x13 s.exec' s.wordAux) ∧
      exec (.tcbdec a b) s = .next (s.trap 0x13 s.exec' s.wordAux)) ∧
    (s.cur.sl.kind ≠ .access →
      (15 < C.toNat → exec (.launch a b c) s = .next (s.trap 0x02 s.exec' C)) ∧
      (C.toNat ≤ 15 → Claims.trapRegister s b.toNat → exec (.launch a b c) s = .next (s.trap 0x03 s.exec' (.ofNat 64 b.toNat))) ∧
      (C.toNat ≤ 15 → ¬Claims.trapRegister s b.toNat → A.toNat % 64 ≠ 0 → exec (.launch a b c) s = .next (s.trap 0x09 s.exec' A)) ∧
      ∀ vs ps k, C.toNat ≤ 15 → ¬Claims.trapRegister s b.toNat → A.toNat % 64 = 0 → s.readVas A 8 = .ok (vs, ps) → s.ctx? = some k →
        let tail := kvGet 0 k.tails C.toNat
        let room := tail - kvGet 0 k.heads C.toNat < (k.queue C.toNat).cap
        (¬room → exec (.launch a b c) s = .next s) ∧
        (room → ∃ (u : State) (o : Op), exec (.launch a b c) s = .next u ∧ u.cur.sl.ops = s.cur.sl.ops ++ [o] ∧
          o.kind = .task (.scal b.toNat) ∧ o.flag = s.setaFlag ∧
          u.views = ((s.markAll ps .read).keepWrite (s.ownRegion (queueAt (k.queue C.toNat) tail))
            (leBytes 64 (BitVec.ofNat 512 (leNat (vs.map dwordBytes).flatten)).toNat)).views ∧
          (u.ctx?.map fun k => (kvGet 0 k.tails C.toNat, k.parents)) =
            some (tail + 1, k.parents ++ [(C.toNat, tail, if s.cur.sl.kind.isKeep then 4096 else s.cur.g.tcb, s.nextId)]) ∧
          ∀ n, u.rd n = s.rd n)) ∧
    (s.cur.sl.kind ≠ .access →
      (4095 < A.toNat → exec (.tcbdec a b) s = .next (s.trap 0x02 s.exec' A)) ∧
      (A.toNat ≤ 4095 → B.toNat = 0 ∨ 4095 < B.toNat → exec (.tcbdec a b) s = .next (s.trap 0x02 s.exec' B)) ∧
      (A.toNat ≤ 4095 → 1 ≤ B.toNat → B.toNat ≤ 4095 →
        (alFind s.tcbs A.toNat = none → exec (.tcbdec a b) s = .next (s.trap 0x13 s.exec' A)) ∧
        ∀ t, alFind s.tcbs A.toNat = some t →
          let may := t.ctx = s.cur.g.ctx ∧ t.st = .waiting ∧ B.toNat ≤ t.manual
          (¬may → exec (.tcbdec a b) s = .next (s.trap 0x13 s.exec' A)) ∧
          (may → s.released 0x0F = false → exec (.tcbdec a b) s = .next s) ∧
          (may → s.released 0x0F = true → ∃ (u : State) (t' : Tcb), exec (.tcbdec a b) s = .next u.settleReady.advance ∧
            alFind u.tcbs A.toNat = some t' ∧ t'.manual = t.manual - B.toNat ∧ t'.preds = t.preds - B.toNat ∧
            t'.st = (if t.preds ≤ B.toNat then .ready else .waiting) ∧ u.cur = s.cur ∧ u.views = s.views)))

/-- wphase and fcont, legal in a group's own stream.  wphase, with the cluster's piece empty and every lane that has not exited
in EXEC, sends the lanes on to S[SA] and waits for the end of the phase, which its own arrival may be; an acquire stands before all
that follows.  fcont gives a frame that is the group's, its team's or its cluster's its continuation.  fcont's register values
outside their tables take cause 0x02 before a code address off a word takes 0x09. -/
def Sys2Proof.Claims.PhaseWords : Prop :=
  (∀ (s : State) (a b : BitVec 9) (c : BitVec 7), s.cur.sl.kind ≠ .execute →
    exec (.wphase a) s = .next (s.trap 0x13 s.exec' s.wordAux) ∧ exec (.fcont a b c) s = .next (s.trap 0x13 s.exec' s.wordAux)) ∧
  ∀ (s : State) (a b : BitVec 9) (c : BitVec 7), Claims.room s s.setaFlag → s.cur.sl.kind = .execute →
    let A := s.rd a.toNat
    let B := s.rd b.toNat
    let C := s.rd c.toNat
    (A.toNat % 4 ≠ 0 → exec (.wphase a) s = .next (s.trap 0x09 s.exec' A)) ∧
    (∀ k, A.toNat % 4 = 0 → alFind s.clusters s.clusterNo = some k →
      let all := ∀ l, l < 32 → lane s.cur.g.pcv l = ones64 ∨ inMask s.exec' l = true
      (k.lo < k.hi ∨ ¬all → exec (.wphase a) s = .next (s.trap 0x13 s.exec' 0)) ∧
      (k.hi ≤ k.lo → all → s.released 0x0F = false → exec (.wphase a) s = .next s) ∧
      (k.hi ≤ k.lo → all → s.released 0x0F = true → s.cur.sl.handler = none →
        let w := ((s.branch fun _ => A).setWait s.setaFlag .wphase).acquire
        let w := if s.cur.g.task = .team then w.modTeam fun t => { t with wph := t.wph ||| .ofNat 32 (2 ^ s.cur.g.gidx) } else w
        ∃ (u : State) (o : Op), exec (.wphase a) s = .next u ∧
          (∀ l, l < 32 → lane u.cur.g.pcv l = if inMask s.exec' l then A else ones64) ∧
          u.cur.sl.ops = s.cur.sl.ops ++ [o] ∧ o.kind = .fence false true 0 false 0 ∧
          (∀ tc, alFind s.tcbs s.cur.g.tcb = some tc → u.cur.sl.wait =
            if w.contributions s.cur.g.tcb < tc.size / (if pktC tc.packet = 0 then 1 else pktC tc.packet) then some .wphase else none) ∧
          ∀ n, u.rd n = s.rd n)) ∧
    (3 < B.toNat → exec (.fcont a b c) s = .next (s.trap 0x02 s.exec' B)) ∧
    (B.toNat ≤ 3 → 3 < C.toNat → exec (.fcont a b c) s = .next (s.trap 0x02 s.exec' C)) ∧
    (B.toNat ≤ 3 → C.toNat ≤ 3 → A.toNat % 4 ≠ 0 → exec (.fcont a b c) s = .next (s.trap 0x09 s.exec' A)) ∧
    (A.toNat % 4 = 0 → B.toNat = 0 → C.toNat ≤ 3 → exec (.fcont a b c) s = .next (s.trap 0x10 s.exec' (frameReport 2 0))) ∧
    ∀ f x, A.toNat % 4 = 0 → 1 ≤ B.toNat → B.toNat ≤ 3 → C.toNat ≤ 3 → s.frameAt B.toNat = .ok (f, x) →
      (s.mayContinue x = true → exec (.fcont a b c) s = .next (s.modFrame f fun x => { x with
        cont := some { join := 0, frame := x.handle, code := A, prio := C.toNat, kind := 2 } }).advance) ∧
      (s.mayContinue x = false → exec (.fcont a b c) s = .next (s.trap 0x10 s.exec' (frameReport 2 B.toNat)))

/-- eplan, legal in a group's own stream and in the Keep's: with a legal descriptor, counts that can be read and a combine launch
of the context that waits with a manual unit left, it makes the tiles of every expert's count, largest first, a frame and a
record each, gives their number T, and the combine launch's count goes up by T less the unit.  A reserved field takes cause
0x02, the combine launch 0x13 with its number, no room for the records 0x10 with reason 1. -/
def Sys2Proof.Claims.PlanWord : Prop :=
  (∀ (s : State) (a b : BitVec 9) vs ps, Claims.room s s.setaFlag → s.cur.sl.kind ≠ .access → ¬Claims.trapRegister s b.toNat →
    let A := s.rd a.toNat
    (A.toNat % 64 ≠ 0 → exec (.eplan a b) s = .next (s.trap 0x09 s.exec' A)) ∧
    (A.toNat % 64 = 0 → s.readVas A 8 = .ok (vs, ps) →
      let w := fun n => vs.getD n 0
      let n := (w 1).toNat / 2 ^ 32
      let comb := (w 1).toNat / 2 ^ 16 % 2 ^ 16
      let prio := (w 1).toNat / 2 ^ 8 % 2 ^ 8
      let legal := (w 0 = 0 ∧ (w 1).toNat % 256 = 0 ∧ w 5 = 0 ∧ w 6 = 0 ∧ w 7 = 0) ∧ (1 ≤ n ∧ n ≤ 65536) ∧ comb ≤ 4095 ∧ prio ≤ 3
      (¬legal → exec (.eplan a b) s = .next (s.trap 0x02 s.exec' s.wordAux)) ∧
      (legal → (w 4).toNat % 4 ≠ 0 → exec (.eplan a b) s = .next (s.trap 0x09 s.exec' (w 4))) ∧
      (legal → (w 4).toNat % 4 = 0 → acquireDone s.cur.sl s.cur.sl.nextSeq = false → exec (.eplan a b) s = .next s) ∧
      (legal → (w 4).toNat % 4 = 0 → acquireDone s.cur.sl s.cur.sl.nextSeq = true → (w 3).toNat % 4 ≠ 0 →
        exec (.eplan a b) s = .next (s.trap 0x09 s.exec' (w 3))) ∧
      ∀ cs qs, legal → (w 4).toNat % 4 = 0 → acquireDone s.cur.sl s.cur.sl.nextSeq = true → (w 3).toNat % 4 = 0 →
        s.readCounts (w 3) n = .ok (cs, qs) →
        let combines := fun k : Tcb => k.ctx = s.cur.g.ctx ∧ k.st = .waiting ∧ k.manual ≠ 0
        let T := (planSlots (w 2) cs).length
        ((∀ k, alFind s.tcbs comb = some k → ¬combines k) → exec (.eplan a b) s = .next (s.trap 0x13 s.exec' (.ofNat 64 comb))) ∧
        ∀ k, alFind s.tcbs comb = some k → combines k →
          (s.recRoom T = false → exec (.eplan a b) s = .next (s.trap 0x10 s.exec' (frameReport 1 3))) ∧
          (s.recRoom T = true → s.released (dieBit s.die) = false → exec (.eplan a b) s = .next s) ∧
          ∀ v, s.recRoom T = true → s.released (dieBit s.die) = true →
            ((s.markAll ps .read).markAll qs .read).pushTiles (s.tileLaunch comb) (if s.cur.sl.kind.isKeep then none else s.linkFor 3)
              (w 4) comb prio (planSlots (w 2) cs) = .ok v →
            ∃ (u : State) (k' : Tcb), exec (.eplan a b) s = .next (u.settleReady.wr b.toNat (.ofNat 64 T)).advance ∧
              alFind u.tcbs comb = some k' ∧ k'.manual = k.manual - 1 ∧ k'.preds = k.preds + T - 1 ∧
              k'.st = (if k.preds + T ≤ 1 then .ready else .waiting) ∧ u.frames = v.frames ∧ u.views = v.views ∧
              ∀ l, alFind s.tcbs (s.tileLaunch comb) = some l → ∃ l', alFind u.tcbs (s.tileLaunch comb) = some l' ∧
                l'.tiles.length = l.tiles.length + T)) ∧
  ∀ n, ((tilesOf n).map (·.2)).foldl (· + ·) 0 = n ∧ ∀ e ∈ tilesOf n, e.1 ∈ [8, 16, 32, 64, 128, 256] ∧ 1 ≤ e.2 ∧ e.2 ≤ e.1 ∧
    (e.2 < e.1 → e.1 = 8)

/-- O52. The other task words: rtake, tself, launch, tcbdec, wphase, fcont, eplan.  The model's choices in them: which
clusters count for the end of a phase (log 35), s509 of a bad descriptor and the launch whose queue takes the tiles of a plan of
the Keep (log 38), the frames that fcont may continue (log 39), what these words do in a stream of the Keep (log 80), and
uncorrectable slots of a piece (log 86). -/
def Obligations.TaskWords : Prop := Claims.PieceWords ∧ Claims.LaunchWords ∧ Claims.PhaseWords ∧ Claims.PlanWord

/-! ## The ordering machine (15, 20) -/

/-- Byte `k` of a dword. -/
def Sys2Proof.Claims.byteAt (v : W64) (k : Nat) : Nat := v.toNat / 2 ^ (8 * k) % 256

/-- An own write that covers byte `k` of a load at location `x` at place `seq` in program order. -/
def Sys2Proof.Claims.covers (w : OwnWrite) (x seq k : Nat) : Prop := w.x = x ∧ w.seq < seq ∧ w.mask.getLsbD k = true

/-- What the condition of APPLY asks (R260): a write not yet applied at the agent, applied at home already or the agent is
home; the agent's clock at the stamp but one behind in the stamping agent's entry; every write to the location before it in
home order applied. -/
def Sys2Proof.Claims.applies (s : State) (e h : Nat) (p : PWrite) : Prop :=
  e < 5 ∧ p.at'.getLsbD e = false ∧ (e = h ∨ p.at'.getLsbD h = true) ∧ (s.clock e).get p.by' + 1 = p.t.get p.by' ∧
    (∀ k, k < 5 → k ≠ p.by' → p.t.get k ≤ (s.clock e).get k) ∧
    (e = h ∨ ∀ q ∈ s.writes, q.x = p.x → q.id ≠ p.id → q.ord ≠ 0 → q.ord < p.ord → q.at'.getLsbD e = true)

/-- LOAD.  Access `part` of load `o` of the selected slice is left while it has been performed or an earlier acquire has not
completed.  At memory it waits for the earlier loads and atomics of the slice to the location; another lane of the load that
has been there shares what it read; else each byte comes from the youngest own write before it that is still visible and
covers the byte, otherwise from the view of its die, for a frame's slot from that of the home, and where that is a request
to its stack it waits for a tag and the end of the bank's refresh; uncorrectable data make it bad, where its own writes do
not make them good (04, R74); to another package a request goes out.  At a scratchpad, and a slot of a frame area, it waits for what the slice has sent there. -/
def Sys2Proof.Claims.LoadStep : Prop :=
  ∀ (s : State) (op part : Nat) (o : Op) (a : Access), s.cur.sl.op? op = some o → o.kind.isLoad = true → o.acc[part]? = some a →
    let i := Instr.load op part
    let answers := fun (u : State) (st : AccState) (v : W64) => exec i s = .next (u.answerAcc op part st v)
    (a.st ≠ .waiting ∨ s.cur.sl.acquired o.seq = false → exec i s = .next s) ∧
    (a.st = .waiting → s.cur.sl.acquired o.seq = true →
      (∀ (pa : Nat) (atHome : Bool), (if atHome = true then a.tgt = .home pa else ∃ hc, a.tgt = .mem pa hc) →
        let x := pa / 8 * 8
        let d := if atHome then (homeOf pa).getD s.die else s.die
        let own := s.visible d s.cur.sl.own
        let covered := ownCovers own o.seq x (accMask pa a.size) = true
        let fresh := o.laneAt x .bad = false ∧ o.laneAt x .done = false
        (s.cur.sl.earlierAt o.seq x = false → exec i s = .next s) ∧
        (s.cur.sl.earlierAt o.seq x = true →
          (o.laneAt x .bad = true → answers s .bad 0) ∧
          (o.laneAt x .bad = false → o.laneAt x .done = true → answers s .done (o.shares a 0)) ∧
          (∀ h, fresh → homeOf pa = some h →
            let miss := s.missesL2 pa && !ownCovers own o.seq x (accMask pa a.size)
            let may := miss = true → s.dramReady s.die pa = true
            let u := if miss then s.touchBank pa else s
            let gives := s.ownGives d own o.seq pa (accMask pa a.size) = true
            (¬may → exec i s = .next s) ∧
            (may → s.poisonedAt d pa = false ∨ gives → answers u .done
              (picked pa a.size (ownOver own o.seq x (readDword (s.views.get d) x)))) ∧
            (may → s.poisonedAt d pa = true → ¬gives → answers (u.poisonReadAt d pa) .bad 0)) ∧
          (fresh → homeOf pa = none → covered → answers s .done (picked pa a.size (ownOver own o.seq x 0))) ∧
          (fresh → homeOf pa = none → ¬covered → o.laneAt x .asked = true → exec i s = .next s) ∧
          (fresh → homeOf pa = none → ¬covered → o.laneAt x .asked = false → exec i s =
            .next ((s.send (pkgOf pa) (.load x s.cur.g.id op part)).setSl (·.modAcc op part fun a => { a with st := .asked }))))) ∧
      (∀ t off, a.tgt = .spad t off →
        (s.cur.sl.clearOf o.seq a (· == .store) = false → exec i s = .next s) ∧
        (s.cur.sl.clearOf o.seq a (· == .store) = true → answers (if o.kind.tagging then s.tagLine t off tagAfterLoad else s) .done
          (o.shares a (.ofNat 64 (leNat (s.spadRead t off a.size)))))) ∧
      ∀ f k, a.tgt = .slot f k →
        (s.cur.sl.clearOf o.seq a (fun _ => true) = false → exec i s = .next s) ∧
        (s.cur.sl.clearOf o.seq a (fun _ => true) = true → answers s .done (o.shares a (s.slotVal f k))))

/-- Each byte of a load's value: of the youngest of its own writes before it that covers the byte, else of memory. -/
def Sys2Proof.Claims.OwnReads : Prop :=
  ∀ (own : List OwnWrite) (seq x k : Nat) (v : W64), k < 8 →
    ((∀ w ∈ own, ¬Claims.covers w x seq k) → Claims.byteAt (ownOver own seq x v) k = Claims.byteAt v k) ∧
    ∀ pre w post, own = pre ++ w :: post → Claims.covers w x seq k → (∀ q ∈ post, ¬Claims.covers q x seq k) →
      Claims.byteAt (ownOver own seq x v) k = Claims.byteAt w.data k

/-- DRAIN.  Access `part` of store `o` of the selected slice is left while it has left already or an earlier release has not
completed.  A store to memory waits for the slice's older entries to the location and for its earlier loads; then it is
stamped by its die with the next number of the die's counter over the die's clock, applied nowhere yet, or enters the channel
to its package.  A store to a scratchpad or to a slot of a frame area arrives there, in order. -/
def Sys2Proof.Claims.DrainStep : Prop :=
  ∀ (s : State) (op part : Nat) (o : Op) (a : Access), s.cur.sl.op? op = some o → o.kind = .store → o.acc[part]? = some a →
    let i := Instr.drain op part
    (a.st ≠ .waiting ∨ s.cur.sl.released o.seq = false → exec i s = .next s) ∧
    (a.st = .waiting → s.cur.sl.released o.seq = true →
      (∀ pa hc, a.tgt = .mem pa hc →
        let x := pa / 8 * 8
        let mayGo := s.olderAt o part x = false ∧ s.cur.sl.loadsDone o.seq = true
        (¬mayGo → exec i s = .next s) ∧
        (∀ h, mayGo → homeOf pa = some h → ∃ (t : State) (p : PWrite), exec i s = .next t ∧ t.writes = s.writes ++ [p] ∧
          t.views = s.views ∧ t.stampNo s.die = s.stampNo s.die + 1 ∧ p.by' = s.die ∧
          p.t = (s.clock s.die).set s.die (s.stampNo s.die + 1) ∧ p.x = x ∧ p.mask = accMask pa a.size ∧
          p.data = placed pa a.data ∧ p.at' = 0) ∧
        (mayGo → homeOf pa = none → exec i s =
          .next ((s.send (pkgOf pa) (.write x (accMask pa a.size) (placed pa a.data) s.cur.g.id op)).setSl
            (·.modAcc op part fun a => { a with st := .asked })).settle)) ∧
      (∀ t off, a.tgt = .spad t off →
        let mayGo := s.arrivedInOrder o part a = true ∧ s.cur.sl.clearOf o.seq a (·.isLoad) = true
        (¬mayGo → exec i s = .next s) ∧
        (mayGo → exec i s = .next (((s.spadWrite t off (leBytes a.size a.data.toNat)).tagLine t off tagAfterStore).answerAcc
          op part .done 0))) ∧
      ∀ f k, a.tgt = .slot f k →
        let mayGo := s.arrivedInOrder o part a = true ∧ s.cur.sl.clearOf o.seq a (fun _ => true) = true
        (¬mayGo → exec i s = .next s) ∧
        (mayGo → exec i s = .next ((s.modFrame f fun x => { x with slots := kvPut 0 x.slots k a.data }).answerAcc op part .done 0)))

/-- APPLY.  A stamped write that may be applied at an agent changes there the bytes of its mask and the clock's entry of the
stamping agent, and nothing at another agent; at home one that has its place in the home order already has changed them
then; one that may not be applied is left. -/
def Sys2Proof.Claims.ApplyStep : Prop :=
  ∀ (s : State) (e w h : Nat) (p : PWrite), s.writes.find? (fun p => p.id == w) = some p → homeOf p.x = some h →
    (Claims.applies s e h p → ∃ t, exec (.apply e w) s = .next t ∧ (t.clock e).get p.by' = p.t.get p.by' ∧
      (∀ f, f < 5 → f ≠ e → t.views.get f = s.views.get f ∧ t.clock f = s.clock f) ∧
      ∀ b, readByte (t.views.get e) b = if (e = h → p.ord = 0) ∧ p.x ≤ b ∧ b < p.x + 8 ∧ p.mask.getLsbD (b - p.x) = true
        then .ofNat 8 (Claims.byteAt p.data (b - p.x)) else readByte (s.views.get e) b) ∧
    (¬Claims.applies s e h p → exec (.apply e w) s = .next s)

/-- ATOMIC.  The accesses of operation `o` to a location are performed in lane order at its home, as one write there, once
the conditions of DRAIN and of the home's stamp hold; at a line of the overflow area they wait for the Cupola; on
uncorrectable data the lanes of a fetching member are bad and a reduction calls for a rollback; to another package one
request goes out for them.  famo of a slot of a frame area adds there. Until then the operation is left. -/
def Sys2Proof.Claims.AtomicStep : Prop :=
  ∀ (s : State) (op loc : Nat) (o : Op) k w64 d ag sy, s.cur.sl.op? op = some o → o.kind = .atomic k w64 d ag sy →
    let i := Instr.atomic op loc
    let waits := ∃ a ∈ o.acc, a.loc = some loc ∧ a.st = .waiting
    (o.slot? = none →
      (¬waits → exec i s = .next s) ∧
      (∀ h, waits → homeOf loc = some h →
        let may := s.cur.sl.mayAtomic o loc = true ∧ s.storesHome s.cur.sl o.seq loc h = true ∧ o.clk.le (s.clock h) = true ∧
          s.homeReady h = true
        (¬may → exec i s = .next s) ∧
        (may → s.poisoned loc = true → exec i s = .next ((s.poisonRead loc).atomicBad o loc)) ∧
        (may → s.poisoned loc = false → h ≠ 4 → s.overflowed h loc = true → exec i s = .next (s.setSl (·.asks op loc))) ∧
        (may → s.poisoned loc = false → h = 4 ∨ s.overflowed h loc = false →
          ∃ t v m fl acc, exec i s = .next t ∧ (∃ st, runAt k loc st o.acc (readDword (s.views.get h) loc) = (v, m, fl, acc)) ∧
            t.views.get h = writeDword (s.views.get h) loc m v ∧ (∀ f, f < 5 → f ≠ h → t.views.get f = s.views.get f) ∧
            (t.clock h).get h = s.stampNo h + 1)) ∧
      (waits → homeOf loc = none →
        (s.maySend o loc = false → exec i s = .next s) ∧
        (s.maySend o loc = true → ∃ t, exec i s = .next t ∧ t.chans = (s.send (pkgOf loc) (.atomic loc s.cur.g.id op)).chans ∧
          ∀ o', t.cur.sl.op? op = some o' → o'.acc = o.acc.map fun a => if a.loc = some loc then { a with st := .asked } else a))) ∧
    ∀ a f n, o.slot? = some (a, f, n) →
      let may := a.st = .waiting ∧ s.cur.sl.released o.seq = true ∧ s.cur.sl.loadsDone o.seq = true ∧
        s.cur.sl.clearOf o.seq a (fun _ => true) = true
      (¬may → exec i s = .next s) ∧
      (may → ∃ t, exec i s = .next t ∧ t.views = s.views ∧
        t.frames = alMod s.frames f fun x => { x with slots := kvPut 0 x.slots n (s.slotVal f n + a.data) })

/-- PUBLISH, after an fpub of the frame that no earlier release holds back, once the frame may be published: every buffered
entry reaches its home in program order, the buffer is empty and the fpub words complete; without one the group whose
fexit of the frame has written its copy-out leaves it.  UNCORRECTABLE_LOAD_TRAP: the first load with uncorrectable data, all of
it come, takes cause 0x0A with the load's word, lanes and address at the group's next boundary and is held until the return;
without a handler the launch is to roll back; a slice in handler mode, stopped, or waiting within a word takes none. -/
def Sys2Proof.Claims.PublishAndTrap : Prop :=
  (∀ (s : State) (f : Nat) (x : Frame), alFind s.frames f = some x →
    (s.publishing f = false → s.leaver f = none → exec (.publish f) s = .next s) ∧
    (∀ g, s.publishing f = false → s.leaver f = some g →
      exec (.publish f) s = .next (s.onSlice g .execute (·.finishExit f))) ∧
    (s.publishing f = true → s.publishable f = false → exec (.publish f) s = .next s) ∧
    (s.publishing f = true → s.publishable f = true →
      let u := x.buf.foldl (fun s e => s.setSlot e.1 e.2.1 e.2.2) s
      ∃ t, exec (.publish f) s = .next t ∧ t.views = u.views ∧ (∀ y, alFind t.frames f = some y → y.buf = []) ∧
        (∀ g k, (alFind t.frames g).map (fun y => kvGet 0 y.slots k) = (alFind u.frames g).map fun y => kvGet 0 y.slots k) ∧
        t.cur.sl.publishes f = false)) ∧
  ∀ (s : State),
    let i := Instr.uncorrectableLoadTrap
    (s.cur.sl.badLoad = none ∨ s.cur.sl.handler.isSome = true ∨ s.cur.sl.ended = true ∨ s.cur.sl.wait.isSome = true →
      exec i s = .next s) ∧
    ∀ (o : Op), s.cur.sl.badLoad = some o → s.cur.sl.handler = none → s.cur.sl.ended = false → s.cur.sl.wait = none → s.boundary.2.2 ≠ 0 →
      let u := s.setSl fun x => { x with ops := x.ops.filter fun p => p.id != o.id }
      (∀ e, s.handlerFor 0x0A = some e → ∃ t h, exec i s = .next t ∧ t.cur.sl.handler = some h ∧ h.pc = e ∧
        h.load = some o ∧ h.clause = s.boundary.1 ∧ h.word = s.boundary.2.1 ∧ h.exec = s.boundary.2.2 ∧ t.rd 504 = o.word ∧
        t.rd 505 = 0x0A ∧ t.rd 508 = o.badLanes.setWidth 64 ∧ ∀ a, o.acc.find? (·.st == .bad) = some a → t.rd 509 = a.va) ∧
      (s.handlerFor 0x0A = none → s.cur.sl.kind = .execute ∨ s.cur.sl.kind = .access → exec i s = .next
        ((u.markHandler 0x0A).letGoLatches.askRollback s.cur.g.tcb (0, s.coreNo, o.badPa)))

/-- O53. The steps of the ordering machine: LOAD, DRAIN, APPLY, ATOMIC, PUBLISH, and the deferred trap of a load. -/
def Obligations.OrderingSteps : Prop :=
  Claims.LoadStep ∧ Claims.OwnReads ∧ Claims.DrainStep ∧ Claims.ApplyStep ∧ Claims.AtomicStep ∧ Claims.PublishAndTrap

/-! ## The memory unit, the fabric and the host (04, 14, 15, 22) -/

/-- Counter `j` of a Cupola up by `m`, saturating; the other three as they were; none where `j` is none. -/
def Sys2Proof.Claims.Counts (c c' : Cupola) (j : Option Nat) (m : Nat) : Prop :=
  ∀ n, kvGet 0 c'.ctrs n = if j = some n then min (2 ^ 32 - 1) (kvGet 0 c.ctrs n + m) else kvGet 0 c.ctrs n

/-- The counter that the correction code's outcome raises. -/
def Sys2Proof.Claims.counter : EccOutcome → Option Nat
  | .good => none
  | .corrected => some 0
  | .transient => some 1
  | .transientCorrected => some 1
  | .lasting => some 2

/-- The status of a reply after a read of the burst. -/
def Sys2Proof.Claims.status (bad : Bool) (e : EccOutcome) : Nat :=
  if bad = true ∨ e = .lasting then 2 else if e = .corrected ∨ e = .transientCorrected then 1 else 0

/-- The log of the last 64 lasting errors of stack `k`, the newest first, after reads of bursts `l` in which such an error was. -/
def Sys2Proof.Claims.Logs (s t : State) (k : Nat) (l : List Nat) (scrub : Bool) : Prop :=
  (t.cup k).log = if l = [] then (s.cup k).log
    else ((l.map fun b => (stackOff (burstOf b), s.cycle.toNat, scrub)).reverse ++ (s.cup k).log).take 64

/-- A burst read at stack `k`: its counter, the log, and the poison a lasting error leaves. -/
def Sys2Proof.Claims.BurstRead (s t : State) (k pa : Nat) (e : EccOutcome) (scrub : Bool) : Prop :=
  let bad := s.burstBad (k / 3) pa
  Claims.Counts (s.cup k) (t.cup k) (if bad = true then some 3 else Claims.counter e) 1 ∧
  Claims.Logs s t k (if bad = false ∧ e = .lasting then [pa] else []) scrub ∧
  t.poison = (if bad = false ∧ e = .lasting then s.poison ++ [⟨burstOf pa, 0, []⟩] else s.poison) ∧
  t.views = s.views

/-- No request that waits at stack `k` may be performed now. -/
def Sys2Proof.Claims.stalled (s : State) (k : Nat) : Prop := ∀ r ∈ (s.cup k).queue, s.maySendNow k r = false

/-- A request may be performed as it comes: no bank of its bursts refreshes, none for one of them waits before it and, for a
write or an atomic, its home has applied what it has stamped. -/
def Sys2Proof.Claims.goesAtOnce (s : State) (k : Nat) (q : Request) (p : Packet) : Prop :=
  (∀ b ∈ packetBursts p, (∀ r ∈ (s.cup k).queue, b ∉ packetBursts r.p) ∧ (s.cup k).busy.contains (bankOf b) = false) ∧
    (q = .rd ∨ s.homeReady (k / 3) = true)

/-- A reply to the packet: no sector named and the data, or with status 2 at least one sector and no data. -/
def Sys2Proof.Claims.Replied (s t : State) (k : Nat) (p : Packet) (status : Nat) (data : List Byte) : Prop :=
  ∃ r : Reply, (t.cup k).replies = (s.cup k).replies ++ [r] ∧ r.die = p.die ∧ r.tag = p.tag ∧ r.status = status ∧
    (status ≠ 2 → r.data = data ∧ r.mask = 0) ∧ (status = 2 → r.data = [] ∧ r.mask ≠ 0)

/-- What performing request `q` does at its bank, which is active from now on.  A read answers with the bytes.  A write
changes the bytes of its mask at its home and nothing else; it reads first each burst that it does not cover and that is not
poisoned.  An atomic answers with the dword as it was; the operation of a group that waits at it in the overflow area is
performed there, its lanes in order, unless the data cannot be corrected. -/
noncomputable def Sys2Proof.Claims.Performed (s t : State) (k : Nat) (p : Packet) (e : EccOutcome) : Request → Prop
  | .rd => Claims.BurstRead s t k p.pa e false ∧ Claims.Replied s t k p (Claims.status (s.burstBad (k / 3) p.pa) e) (s.bytesAt p.pa p.size)
  | .wr =>
    let whole := fun b => (List.range 256).all fun n =>
      decide (p.pa ≤ b + n) && decide (b + n < p.pa + p.size) && p.mask.getD (b + n - p.pa) false
    let reads := (packetBursts p).filter fun b => !whole b && !s.burstBad (k / 3) b
    Claims.Counts (s.cup k) (t.cup k) (if reads = [] then none else Claims.counter e) reads.length ∧
    Claims.Logs s t k (if e = .lasting then reads else []) false ∧
    Claims.Replied s t k p (if reads = [] then 0 else Claims.status false e) [] ∧
    (∀ f, f < 5 → f ≠ k / 3 → t.views.get f = s.views.get f) ∧
    ∀ a, readByte (t.views.get (k / 3)) a =
      if p.pa ≤ a ∧ a < p.pa + p.size ∧ p.mask.getD (a - p.pa) false = true then p.data.getD (a - p.pa) 0
      else readByte (s.views.get (k / 3)) a
  | .atm op =>
    let bad := s.burstBad (k / 3) p.pa
    let x := p.pa / 8 * 8
    Claims.Counts (s.cup k) (t.cup k) (if bad = true then some 3 else Claims.counter e) 1 ∧
    Claims.Replied s t k p (Claims.status bad e) (s.bytesAt p.pa p.size) ∧
    (∀ f, f < 5 → f ≠ k / 3 → t.views.get f = s.views.get f) ∧
    ∀ (o : Op) r, s.atmAt op p.pa = (s.cur.g.id, s.cur.sl.kind, o) :: r →
      (bad = true ∨ e = .lasting → t.views.get (k / 3) = s.views.get (k / 3)) ∧
      (bad = false → e ≠ .lasting → ∃ v m fl acc st, runAt (atmOp op) x st o.acc (readDword (s.views.get (k / 3)) x) = (v, m, fl, acc) ∧
        t.views.get (k / 3) = writeDword (s.views.get (k / 3)) x m v)

/-- The packets a Cupola takes.  One that its die may not send is left; one at whose arrival no older one can be performed is
performed at once or waits behind them; a reply that arrives frees its tag and no other. -/
def Sys2Proof.Claims.Packets : Prop :=
  ∀ (s : State) (k : Nat) (p : Packet) (e : EccOutcome),
    (∀ (q : Request) (i : Instr), (match q with
        | .rd => i = .rdPacket k p e
        | .wr => i = .wrPacket k p ∧ e = p.ecc
        | .atm op => i = .atmPacket k p op ∧ e = p.ecc) →
      (s.packetOk k q p = false → exec i s = .next s) ∧
      (s.packetOk k q p = true →
        exec i s = .next (s.serveAll k ((s.cup k).queue ++ [⟨q, p, e⟩]) []) ∧
        (Claims.stalled s k → Claims.goesAtOnce s k q p → ∃ t : State, exec i s = .next t ∧ Claims.Performed s t k p e q ∧
          (t.cup k).queue = (s.cup k).queue ∧ bankOf p.pa ∈ (t.cup k).active) ∧
        (Claims.stalled s k → ¬Claims.goesAtOnce s k q p →
          exec i s = .next (s.modCup k fun c => { c with queue := c.queue ++ [⟨q, p, e⟩] })))) ∧
    ∀ d tag, ∃ t : State, exec (.memoryReply k d tag) s = .next t ∧
      (∀ r ∈ (s.cup k).replies, ¬(r.die = d ∧ r.tag = tag) → r ∈ (t.cup k).replies) ∧
      (Claims.stalled s k → (t.cup k).replies = (s.cup k).replies.filter (fun r => !(r.die == d && r.tag == tag)) ∧
        (t.cup k).queue = (s.cup k).queue ∧ t.views = s.views)

/-- Refresh and scrub.  A refresh that falls due at an idle bank, for which no request waits, starts and pays what the bank
owes; else it is owed, eight at most; the ninth makes all banks of the pseudo-channel refresh at once.  As a refresh ends, a
request that waited for its bank is performed.  The scrubber reads the burst at its position, in its turn, and goes on; past
the last burst of the stack it starts anew and counts a pass. -/
def Sys2Proof.Claims.Upkeep : Prop :=
  ∀ (s : State) (k pch bank : Nat) (e : EccOutcome),
    let b := pch * 32 + bank
    let c := s.cup k
    let idle := b ∉ c.active ∧ ∀ q ∈ c.queue, ∀ x ∈ packetBursts q.p, bankOf x ≠ b
    let pa := paOfStack k c.pos
    (12 ≤ k ∨ 32 ≤ pch ∨ 32 ≤ bank → exec (.perBankRefresh k pch bank) s = .next s) ∧
    (k < 12 → pch < 32 → bank < 32 → ∃ t : State, exec (.perBankRefresh k pch bank) s = .next t ∧
      (t.cup k).active = c.active.filter (· != b) ∧ (t.cup k).queue = c.queue ∧ (t.cup k).replies = c.replies ∧
      (pch ∈ c.forced → (t.cup k).busy = c.busy ∧ (t.cup k).owed = c.owed ∧ (t.cup k).forced = c.forced) ∧
      (pch ∉ c.forced →
        (idle → (t.cup k).busy = c.busy ++ [b] ∧ (t.cup k).forced = c.forced ∧
          ∀ x, kvGet 0 (t.cup k).owed x = if x = b then 0 else kvGet 0 c.owed x) ∧
        (¬idle → kvGet 0 c.owed b < 8 → (t.cup k).busy = c.busy ∧ (t.cup k).forced = c.forced ∧
          ∀ x, kvGet 0 (t.cup k).owed x = if x = b then kvGet 0 c.owed b + 1 else kvGet 0 c.owed x) ∧
        (¬idle → 8 ≤ kvGet 0 c.owed b → (t.cup k).forced = c.forced ++ [pch] ∧
          (∀ x, x / 32 = pch → x ∈ (t.cup k).busy ∧ kvGet 0 (t.cup k).owed x = 0) ∧
          ∀ x, x / 32 ≠ pch → ((x ∈ (t.cup k).busy ↔ x ∈ c.busy) ∧ kvGet 0 (t.cup k).owed x = kvGet 0 c.owed x)))) ∧
    (∃ t : State, exec (.refreshComplete k pch bank) s = .next t ∧
      (pch ∈ c.forced → (t.cup k).forced = c.forced.filter (· != pch) ∧
        ∀ x, x ∈ (t.cup k).busy ↔ x ∈ c.busy ∧ x / 32 ≠ pch) ∧
      (pch ∉ c.forced → (t.cup k).forced = c.forced ∧ ∀ x, x ∈ (t.cup k).busy ↔ x ∈ c.busy ∧ x ≠ b) ∧
      ∀ q, pch ∉ c.forced → c.queue = [q] → (∀ x ∈ packetBursts q.p, bankOf x = b ∨ bankOf x ∉ c.busy) → q.kind = .rd ∨ s.homeReady (k / 3) = true →
        (t.cup k).queue = [] ∧ ∃ r : Reply, (t.cup k).replies = c.replies ++ [r] ∧ r.die = q.p.die ∧ r.tag = q.p.tag) ∧
    (12 ≤ k ∨ c.scrubEn = false ∨ bankOf pa ∈ c.busy ∨ (∃ q ∈ c.queue, burstOf pa ∈ packetBursts q.p) →
      exec (.patrolScrub k e) s = .next s) ∧
    (k < 12 → c.scrubEn = true → bankOf pa ∉ c.busy → (∀ q ∈ c.queue, burstOf pa ∉ packetBursts q.p) →
      ∃ t : State, exec (.patrolScrub k e) s = .next t ∧ Claims.BurstRead s t k pa e true ∧
        if 64 * 10 ^ 9 ≤ c.pos + 256 then (t.cup k).pos = 0 ∧ (t.cup k).passes = (c.passes + 1) % 2 ^ 16
        else (t.cup k).pos = c.pos + 256 ∧ (t.cup k).passes = c.passes)

/-- An atomic of the host at the address `pa` with the new value `f old`. -/
def Sys2Proof.Claims.hostAtomic : HostOp → Option (Nat × (W64 → W64))
  | .load _ => none
  | .store _ _ _ => none
  | .add pa v => some (pa, (· + v))
  | .swap pa v => some (pa, fun _ => v)
  | .cas pa e v => some (pa, fun o => if o = e then v else o)

/-- What comes in from the host.  Nothing is taken until the Keep runs, nor at an address that does not exist.  A store is
stamped by the host's agent and applied nowhere yet; an atomic, stamped by that agent, is performed and applied at its home
once the writes that its stamp follows are applied there; a load changes nothing. -/
def Sys2Proof.Claims.FromHost : Prop :=
  ∀ (s : State),
    (s.kstate ≠ 1 → ∀ m, exec (.hostAccess m) s = .next s) ∧
    (s.kstate = 1 →
      (∀ pa, exec (.hostAccess (.load pa)) s = .next s) ∧
      (∀ pa m v, homeOf pa = none ∨ s.paValid pa = false → exec (.hostAccess (.store pa m v)) s = .next s) ∧
      (∀ pa m v h, homeOf pa = some h → s.paValid pa = true → ∃ (t : State) (p : PWrite),
        exec (.hostAccess (.store pa m v)) s = .next t ∧ t.writes = s.writes ++ [p] ∧ p.by' = 4 ∧
        p.t = (s.clock 4).set 4 (s.stampNo 4 + 1) ∧ p.x = pa / 8 * 8 ∧ p.mask = m ∧ p.data = v ∧ p.at' = 0 ∧ t.views = s.views) ∧
      ∀ (m : HostOp) (pa : Nat) (f : W64 → W64), Claims.hostAtomic m = some (pa, f) →
        let x := pa / 8 * 8
        (homeOf x = none → exec (.hostAccess m) s = .next s) ∧
        ∀ h, homeOf x = some h →
          let may := s.paValid pa = true ∧ s.poisoned x = false ∧ (s.clock h).get 4 = s.stampNo 4 ∧
            ∀ k, k < 4 → (s.clock 4).get k ≤ (s.clock h).get k
          (¬may → exec (.hostAccess m) s = .next s) ∧
          (may → ∃ t : State, exec (.hostAccess m) s = .next t ∧ (∀ g, g < 5 → g ≠ h → t.views.get g = s.views.get g) ∧
            t.views.get h = writeDword (s.views.get h) x 0xFF (f (readDword (s.views.get h) x)) ∧
            t.stampNo 4 = s.stampNo 4 + 1 ∧ (t.clock h).get 4 = s.stampNo 4 + 1))

/-- What comes in over the fabric.  Another package's write is stamped and applied at its home at once, its word's atomics at
one dword are performed there as one run, its load changes nothing.  A reply answers the head request of its channel, with
data or as uncorrectable; a request without a reply in time completes as uncorrectable. -/
def Sys2Proof.Claims.FromFabric : Prop :=
  ∀ (s : State),
    (∀ d pa m v, let x := s.ownRegion pa / 8 * 8
      (∀ h, homeOf x = some h → s.homeReady h = true → x < dramBytes → ∃ t : State, exec (.fabricDeliver (.write d pa m v)) s = .next t ∧
        (∀ g, g < 5 → g ≠ h → t.views.get g = s.views.get g) ∧ t.views.get h = writeDword (s.views.get h) x m v ∧
        (t.clock h).get h = s.stampNo h + 1) ∧
      ((∀ h, homeOf x = some h → s.homeReady h = false ∨ dramBytes ≤ x) → exec (.fabricDeliver (.write d pa m v)) s = .next s)) ∧
    (∀ d pa, exec (.fabricDeliver (.read d pa)) s = .next s) ∧
    (∀ d pa size op run, let x := s.ownRegion pa
      let may := fun h => homeOf x = some h ∧ s.homeReady h = true ∧ x < dramBytes ∧ s.poisoned x = false ∧ (size = 4 ∨ size = 8) ∧
        x % 8 = 0 ∧ ∀ l ∈ run, l.1 % size = 0 ∧ l.1 < 8
      (∀ h, may h → ∃ (t : State) (v : W64) (m : BitVec 8) (fl : W64) (acc : List Access), exec (.fabricDeliver (.atomic d pa size op run)) s = .next t ∧
        runAt (atmOp op) x .done (run.map (runLane x size)) (readDword (s.views.get h) x) = (v, m, fl, acc) ∧
        (∀ g, g < 5 → g ≠ h → t.views.get g = s.views.get g) ∧ t.views.get h = writeDword (s.views.get h) x m v ∧
        (t.clock h).get h = s.stampNo h + 1) ∧
      ((∀ h, ¬may h) → exec (.fabricDeliver (.atomic d pa size op run)) s = .next s)) ∧
    ∀ d pkg v bad,
      let ends := fun (u : W64 → Bool → State) => exec (.fabricDeliver (.reply d pkg v bad)) s = .next (u v (bad || s.routeDown pkg)).settle ∧
        exec (.remoteTimeout d pkg) s = .next (u 0 true).settle
      let p := s.popChan d pkg
      ((∀ c, s.chans.find? (fun c => c.die == d && c.pkg == pkg) = some c → c.q = []) →
        exec (.fabricDeliver (.reply d pkg v bad)) s = .next s ∧ exec (.remoteTimeout d pkg) s = .next s) ∧
      ∀ (c : Chan) m, s.chans.find? (fun c => c.die == d && c.pkg == pkg) = some c → c.q.head? = some m → match m with
        | .load x g op part => ends fun w lost => if g = 0 then p.engineData x op (if lost then none else some w)
            else p.loadReply x op part w lost
        | .write x _ _ g op => ends fun _ lost => if g = 0 then p.engineAck x op lost else p.storeReply x g op lost
        | .mirror x _ tcb => ends fun _ lost => if lost then p.mirrorLost x tcb else p
        | .atomic x g op => ends fun w lost => p.atomicReply x g op w lost

/-- What comes in from the host and over the fabric. -/
def Sys2Proof.Claims.Incoming : Prop := Claims.FromHost ∧ Claims.FromFabric

/-- O54. The memory unit: packets, refresh and scrub, and what comes in from the host and over the fabric.  The bursts that a
packet reads and writes, and the status of a write of part of a burst, which reads it first, are the model's choice (log 58). -/
def Obligations.MemoryUnit : Prop := Claims.Packets ∧ Claims.Upkeep ∧ Claims.Incoming

/-! ## Launches (16, 18, 22) -/

/-- The queues, while the Keep runs.  A doorbell puts the packet, byte for byte, into the ring entry at the tail and moves the
tail; a full ring, and a context that is not defined, take nothing.  The packet at the head of the queue that is served next
leaves it and stands in a control block that was free; one with a field out of range is rejected at once; with no block free,
or the successor list of a predecessor full, it waits.  With a mirror peer it is sent to the mirror ring first, and waits until
the peer has acknowledged it; the Keep of a spare replays a packet of the mirror ring as a doorbell brings it. -/
def Sys2Proof.Claims.Queues : Prop :=
  (∀ (s u : State) (c q pa : Nat) (b : List Byte), s.kstate = 1 → s.homeBytes (s.ownRegion pa) 64 = some b →
    exec (.launchDoorbell c q (.ofNat 512 (leNat b))) s = .next u → s.mirrorReplay c q pa = { u with tick := s.tick + 1 }) ∧
  (∀ (s : State), s.kstate ≠ 1 → exec .launchAccept s = .next s ∧ ∀ c q p, exec (.launchDoorbell c q p) s = .next s) ∧
  (∀ (s : State) (c q : Nat) (p : BitVec 512), (alFind s.ctxs c = none → exec (.launchDoorbell c q p) s = .next s) ∧
    ∀ (k : CtxState), s.kstate = 1 → alFind s.ctxs c = some k →
      let t := kvGet 0 k.tails q
      (t - kvGet 0 k.heads q < (k.queue q).cap → ∃ u : State, exec (.launchDoorbell c q p) s = .next u ∧
        ((alFind u.ctxs c).map fun k => (k.r, k.heads, kvGet 0 k.tails q)) = some (k.r, k.heads, t + 1) ∧
        (∀ e a, let b := s.ownRegion ((k.queue q).base + 64 * (t % (k.queue q).cap))
          readByte (u.views.get e) a = if b ≤ a ∧ a < b + 64 then .ofNat 8 (p.toNat / 2 ^ (8 * (a - b))) else readByte (s.views.get e) a) ∧
        u.tcbs = s.tcbs ∧ u.cur = s.cur ∧ u.others = s.others) ∧
      ((k.queue q).cap ≤ t - kvGet 0 k.heads q → exec (.launchDoorbell c q p) s = .next s)) ∧
  ∀ (s : State), s.kstate = 1 →
    let u := { s with tcbs := s.tcbs.filter fun p => p.2.st != .retired }
    let free := fun i => i < 4096 ∧ alFind u.tcbs i = none ∧ u.occupied i = false
    (s.mirrorSent = none → u.nextHead = bestHead u.heads) ∧
    (u.nextHead = none → exec .launchAccept s = .next u) ∧
    ∀ (c q : Nat) (p : BitVec 512) (k : CtxState), u.nextHead = some (c, q, p) → alFind s.ctxs c = some k →
      let parent := (k.parents.find? fun e => e.1 == q && e.2.1 == kvGet 0 k.heads q).map (·.2.2.1)
      let preds := u.livePreds p parent
      let roomy := ∀ j ∈ preds, ∀ t, alFind u.tcbs j = some t → t.succs.length + preds.count j ≤ 256
      let sends := s.mirror.isSome = true ∧ s.mirrorSent = none ∧ u.rejects c p = false
      ((∃ i, free i) → roomy → u.mirrorOut = true → exec .launchAccept s = .next u) ∧
      ((∃ i, free i) → roomy → u.mirrorOut = false → sends → ∃ (v : State), exec .launchAccept s = .next v ∧
        v.mirrorSent = some (c, q, none) ∧ v.mirrored = s.mirrored ++ [(p, false)] ∧ v.tcbs = u.tcbs ∧ v.ctxs = s.ctxs) ∧
      ((∃ i, free i) → roomy → u.mirrorOut = false → ¬sends → ∃ (v : State) (i : Nat) (x : Tcb), exec .launchAccept s = .next v ∧ free i ∧
        alFind v.tcbs i = some x ∧ x.packet = p ∧ x.ctx = c ∧ x.queue = some q ∧ x.parent = parent ∧ v.lastCtx = c ∧
        (pktOk p = false → x.rejected = true ∧ x.st = .retired) ∧
        ((alFind v.ctxs c).map fun k => kvGet 0 k.heads q) = some (kvGet 0 k.heads q + 1) ∧ v.mirrorSent = none) ∧
      ((∀ i, ¬free i) ∨ ¬roomy → exec .launchAccept s = .next u)

/-- A cluster that has been placed for the piece [lo, hi) of launch `i` on the cores `l` from `o`: the index lo taken; a
team on each core of the rectangle, in cluster core order; each team's groups, by turns on the four quarters, at the entry. -/
def Sys2Proof.Claims.Placed (v : State) (i : Nat) (t : Tcb) (lo hi o : Nat) (l : List Nat) : Prop :=
  ∃ c ∈ v.clusters, c.2.tcb = i ∧ c.2.clid = lo ∧ c.2.lo = lo + 1 ∧ c.2.hi = hi ∧ c.2.origin = o ∧
    ∀ k n, l[k]? = some n → ∃ e ∈ v.teams, e.2.cluster = c.1 ∧ e.2.cidx = k ∧ e.2.core = n ∧
      e.2.tidx = lo * pktC t.packet + k ∧ ∀ g, g < t.kernel.groups → ∃ r ∈ v.others, r.g.team = e.1 ∧ r.g.gidx = g ∧
        r.g.quarter = g % 4 ∧ ∀ j, j < 32 → lane r.g.pcv j = t.kernel.entry

/-- Reservation `r` is due on a core: the core lies in its region `l`, every core of the region has room for its launch, which
is not co-resident, and its piece `e` is unplaced. -/
def Sys2Proof.Claims.Due (u : State) (core : Nat) (r : Reservation) (l : List Nat) (e : Nat × Tcb × Nat × Nat) : Prop :=
  r ∈ u.resv ∧ rectCores r.origin r.width r.height = some l ∧ core ∈ l ∧ e ∈ u.offers ∧ e.1 = r.tcb ∧ e.2.2.1 = r.lo ∧
    ∃ t, alFind u.tcbs r.tcb = some t ∧ t.kernel.cores = false ∧ ∀ c ∈ l, u.hasRoom c r.tcb t.kernel false = true

/-- Placement.  A reserved region all of whose cores have room takes the piece that it is reserved for.  Else the first core that
can take a piece, in the order in which cores gained room, takes the piece first in the order of offers, on a rectangle that
holds it; a co-resident grid is placed whole and holds the barrier counters.  Where a saved unit goes first, or another core,
it takes none. -/
def Sys2Proof.Claims.Placement : Prop :=
  ∀ (s : State) (core : Nat), let u := s.settleReady.settleRoom
    let first := u.firstIn core fun c => u.fitting c != []
    ((∃ r l e, Claims.Due u core r l e) → ∃ (v : State) (r : Reservation) (l : List Nat) (e : Nat × Tcb × Nat × Nat),
      Claims.Due u core r l e ∧ exec (.piecePlace core) s = .next v ∧ Claims.Placed v e.1 e.2.1 e.2.2.1 e.2.2.2 r.origin l ∧
      (alFind v.tcbs e.1).map (·.st) = some .running) ∧
    ((∀ r l e, ¬Claims.Due u core r l e) → firstOffer (u.fitting core) = none → exec (.piecePlace core) s = .next u) ∧
    ∀ (i lo hi : Nat) (t : Tcb), (∀ r l e, ¬Claims.Due u core r l e) → firstOffer (u.fitting core) = some (i, t, lo, hi) →
      (u.unitGoesFirst core i t none = true ∨ first = false → exec (.piecePlace core) s = .next u) ∧
      (u.unitGoesFirst core i t none = false → first = true →
        (t.kernel.cores = false → ∃ (v : State) (o : Nat) (l : List Nat), exec (.piecePlace core) s = .next v ∧
          u.findRect i t (some core) false = some (o, l) ∧ core ∈ l ∧ Claims.Placed v i t lo hi o l ∧
          (alFind v.tcbs i).map (·.st) = some .running) ∧
        ∀ v, t.kernel.cores = true → (u.bindCounters t.ctx i).placeWhole i t t.pieces = some v →
          ∃ w : State, exec (.piecePlace core) s = .next w ∧ w = { v with others := w.others, roomAt := w.roomAt, nextId := w.nextId, resv := w.resv } ∧
            w.others.length = v.others.length ∧
            (∀ (k : Nat) (r : Resident), v.others[k]? = some r → ∃ x, w.others[k]? = some x ∧ x.sl = r.sl ∧
              x.g = { r.g with since := if r.g.tcb = i then u.nextId else r.g.since }) ∧
            ∀ k, alFind w.ctxs t.ctx = some k → k.gholder = some i)

/-- A spawnr piece [lo, hi) of frame `f` split in `s`: the frame keeps the lower half; a new frame with the same links, and a
record for it at the end of its cluster's queue, take the upper half. -/
def Sys2Proof.Claims.HalfSpawn (s v : State) (f lo hi : Nat) (x : Frame) (h : W64) (r : ContRec) : Prop :=
  let mid := lo + (hi - lo) / 2
  (∃ n y, s.nextId ≤ n ∧ alFind v.frames n = some y ∧ y.handle = h ∧ y.size = x.size ∧ y.link = x.link ∧ y.piece = x.piece ∧ y.owner = .nobody ∧
    (handleSpf h = true → kvGet 0 y.slots 0 = .ofNat 64 mid ∧ kvGet 0 y.slots 1 = .ofNat 64 hi)) ∧
  (handleSpf x.handle = true → ∃ z, alFind v.frames f = some z ∧ kvGet 0 z.slots 1 = .ofNat 64 mid) ∧
  ∀ c, r.kind ≠ 3 → alFind s.clusters x.cluster = some c → ∃ d q, alFind v.clusters x.cluster = some d ∧
    kvGet [] d.crqs r.prio = kvGet [] c.crqs r.prio ++ [q] ∧ q.frame = h ∧ q.code = r.code ∧ q.kind = r.kind ∧ q.prio = r.prio

/-- Splits.  The first core in the order of placement that no piece and no saved unit fits takes the upper half of the placed
piece first in the order of splits, which keeps the lower; where there is none to split, an idle task slot that finds no
record splits the spawnr piece of its cluster with the most left. -/
def Sys2Proof.Claims.Splits : Prop :=
  ∀ (s : State) (core : Nat), let u := s.settleReady.settleRoom
    let idle := u.fitting core = [] ∧ ∀ x ∈ u.saved, u.restored x core = none
    (¬idle → exec (.pieceSplit core) s = .next u) ∧
    (∀ (cl i : Nat) (c : Cluster) (t : Tcb), idle → firstSplit (core / 48) (u.splittable core) = some (cl, c, i, t) →
      (u.firstIn core u.maySplit = false → exec (.pieceSplit core) s = .next u) ∧
      (u.firstIn core u.maySplit = true →
        let mid := c.lo + (c.hi - c.lo) / 2
        ∃ (v : State) (o : Nat) (l : List Nat), exec (.pieceSplit core) s = .next v ∧ u.findRect i t (some core) true = some (o, l) ∧
          core ∈ l ∧ Claims.Placed v i t mid c.hi o l ∧ ∃ d ∈ v.clusters, d.1 = cl ∧ d.2.lo = c.lo ∧ d.2.hi = mid)) ∧
    (idle → firstSplit (core / 48) (u.splittable core) = none →
      let slots := u.teams.filter fun p => p.2.core == core && (u.idleSlot p).isSome && (u.nextRec p.2.cluster p.2.tcb).isNone
      let piece := slots.findSome? fun p => mostLeft (u.spawnPieces p.2.cluster)
      (piece = none → exec (.pieceSplit core) s = .next u) ∧
      ∀ f x lo hi h r, piece = some (f, x, lo, hi) → alFind u.frames f = some x → (∀ n, u.nextId ≤ n → alFind u.frames n = none) → x.born = some r →
        u.placeFrame x.core (match u.teams.find? fun p => p.2.cluster == x.cluster && p.2.core == x.core with
          | some p => p.2.cidx
          | none => 0) x.ctx 3 x.size = some h →
        ∃ v : State, exec (.pieceSplit core) s = .next v ∧ Claims.HalfSpawn u v f lo hi x h r)

/-- Gangs.  The first piece, not starving yet, of a launch whose pieces find no rectangle starves; the starving pieces reserve in
turn: the rectangle with the fewest busy cores, the lowest among equals, on a die without a reservation, and for a co-resident
launch the whole package. -/
def Sys2Proof.Claims.Gangs : Prop :=
  ∀ (s : State) (i : Nat),
    ((∀ t, alFind s.tcbs i = some t → s.stuckGang i t = false ∨ ∀ e ∈ t.gangs, e ∈ t.starved) → exec (.gangStarve i) s = .next s) ∧
    ∀ (t : Tcb) (k : Nat) (e : Nat × Nat), alFind s.tcbs i = some t → s.stuckGang i t = true → t.gangs[k]? = some e → e ∉ t.starved → (∀ j < k, ∀ x, t.gangs[j]? = some x → x ∈ t.starved) →
      let u := { s with tcbs := alMod s.tcbs i fun t => { t with starved := t.starved ++ [e] } }
      ∃ v : State, exec (.gangStarve i) s = .next v ∧ v = { u with resv := v.resv } ∧
        (t.kernel.cores = false → (∀ r ∈ s.resv, ¬(r.tcb = i ∧ r.lo = e.1)) → ∃ y, (i, y, e.1) ∈ u.starving) ∧
        (u.starving = [] → v.resv = s.resv) ∧
        ∀ j y lo rest, u.starving = (j, y, lo) :: rest →
          (y.kernel.cores = true → s.resv ≠ [] → v.resv = s.resv) ∧
          (y.kernel.cores = true → s.resv = [] → ∃ more, v.resv = (List.range 4).map (fun d => ⟨d, j, lo, 48 * d, 8, 6⟩) ++ more) ∧
          (y.kernel.cores = false →
            let can := fun (o : Nat) (l : List Nat) => o < 192 ∧ rectCores o (pktWidth y.packet) (pktHeight y.packet) = some l ∧
              ∀ r ∈ s.resv, r.die ≠ o / 48
            ((∀ o l, ¬can o l) → v.resv = s.resv) ∧
            ((∃ o l, can o l) → ∃ (r : Reservation) (l : List Nat) (more : List Reservation), v.resv = s.resv ++ r :: more ∧
              r.tcb = j ∧ r.lo = lo ∧ r.die = r.origin / 48 ∧ r.width = pktWidth y.packet ∧ r.height = pktHeight y.packet ∧
              can r.origin l ∧
              ∀ o l', can o l' → s.busyCores l ≤ s.busyCores l' ∧ (o < r.origin → s.busyCores l < s.busyCores l')))

/-- The task slots.  The first idle slot of a cluster runs the head record of the highest class, of the cluster's queues before
the launch's tile queue, at its code; its group owns the record's frame, which stands in the display register of its depth. -/
def Sys2Proof.Claims.Slots : Prop :=
  ∀ (s : State) (team slot : Nat),
    ((∀ t, alFind s.teams team = some t → s.firstSlot t.cluster ≠ some (team, slot) ∨ s.nextRec t.cluster t.tcb = none ∨
        alFind s.tcbs t.tcb = none ∨ ∀ c, alFind s.tcbs t.tcb = some c → s.slotQuarter t.core c.kernel = none) →
      exec (.crPop team slot) s = .next s) ∧
    ∀ (q : Nat) (t : Team) (c : Tcb) (k : Cluster) (r : ContRec), alFind s.teams team = some t →
      s.firstSlot t.cluster = some (team, slot) → alFind s.tcbs t.tcb = some c → s.nextRec t.cluster t.tcb = some r →
      alFind s.clusters t.cluster = some k → s.slotQuarter t.core c.kernel = some q →
      ((∀ p, ∀ x ∈ kvGet [] k.crqs p, x.prio = p) →
        ∀ p, r.prio < p → p ≤ 3 → kvGet [] k.crqs p = [] ∧ ∀ x ∈ c.tiles, x.prio ≠ p) ∧
      ∃ (v : State) (x : Resident), exec (.crPop team slot) s = .next v ∧ v.others = s.others ++ [x] ∧ v.cur = s.cur ∧
        x.g.id = s.nextId ∧ x.g.team = team ∧ x.g.slot = some slot ∧ x.g.quarter = q ∧ x.g.prio = r.prio ∧
        x.g.gidx = (if t.isTask = true then slot else t.groups + slot) ∧
        (∀ j, j < 32 → lane x.g.pcv j = r.code) ∧ x.sl.rd 1 = .ofNat 64 (pktParam c.packet) ∧
        (∀ f y, s.frameIn c.ctx t.cluster r.frame = some (f, y) → kvGet 0 x.g.d (handleDepth y.handle) = y.handle ∧
          x.g.kin = s.chainOf 4 (some f) ∧ ∀ z, alFind v.frames f = some z → z.owner = .group x.g.id) ∧
        (r.kind ≠ 3 → (alFind v.clusters t.cluster).map (fun k => kvGet [] k.crqs r.prio) = some (kvGet [] k.crqs r.prio).tail) ∧
        (r.kind = 3 → (alFind v.tcbs t.tcb).map (·.tiles) = some (c.tiles.erase r))

/-- The ends.  A group whose completions are in, and whose writes stand where the frames it leaves ask, leaves its quarter with
its registers, counted by its team, and what it has under way goes on without it.  A team whose groups have left ends; what is
left of its cluster's piece is a piece of the launch again; a grid with nothing left retires its control block, a failed one as soon
as nothing of it is under way. -/
def Sys2Proof.Claims.GroupEnds : Prop :=
  (∀ (s : State), let w := s.onExecute
    let may := w.cur.g.id ≠ 0 ∧ w.cur.g.gone = none ∧ w.cur.g.alive = false ∧ w.cur.sl.quiet = true ∧ w.mayLeave = true
    (¬may → exec .groupLeave s = .next w.endings) ∧
    (may → ∃ (u : State) (r : Resident), exec .groupLeave s = .next u.endings ∧ u.cur = ⟨Group.idle, Slice.idle .execute⟩ ∧
      u.others = (if r.over = true then s.others else s.others ++ [r]) ∧ r.g.id = w.cur.g.id ∧ r.g.tcb = w.cur.g.tcb ∧
      r.g.gone = some w.coreNo ∧ r.g.team = 0 ∧ r.g.v = [] ∧ r.sl.ops = w.cur.sl.ops ∧
      ∀ t, w.team? = some t → (alFind u.teams w.cur.g.team).map (·.left) = some (if w.cur.g.task = .team then t.left + 1 else t.left))) ∧
  (∀ (s : State) (team : Nat) (t : Team), alFind s.teams team = some t → t.ended = false → t.isTask = false → t.groups ≤ t.left →
    (∀ r ∈ s.cur :: s.others, r.g.id = 0 ∨ r.g.team ≠ team) → s.teamBusy (team, t) = false →
    (alFind (s.endTeam team).teams team).map (·.ended) = some true) ∧
  (∀ (s : State) (cl : Nat) (c : Cluster) (t : Tcb), alFind s.clusters cl = some c → alFind s.tcbs c.tcb = some t →
    (∀ p ∈ s.teams, p.2.cluster ≠ cl ∨ p.2.ended = true) → c.lo < c.hi → t.st = .running →
    ∃ x, alFind (s.teamsEnded cl).tcbs c.tcb = some x ∧ (c.lo, c.hi) ∈ x.pieces) ∧
  (∀ (s : State) (i : Nat) (t : Tcb), alFind s.tcbs i = some t → t.st = .running → t.failed = false → t.rolling = false →
    t.pieces = [] → t.tiles = [] → s.launchStill i = true → (∀ p ∈ s.clusters, p.2.tcb ≠ i ∨ p.2.ended = true) →
    (∀ p ∈ s.saved, p.2.tcb ≠ i) → (∀ p ∈ s.frames, p.2.tcb ≠ i ∧ p.2.owner ≠ .grid i) →
    ∃ x, alFind (s.endGrid i).tcbs i = some x ∧ x.st = .retired ∧ x.failed = false) ∧
  ∀ (s : State) (i : Nat) (t : Tcb), alFind s.tcbs i = some t → t.st = .running → t.failed = true →
    (s.discard i).launchStill i = true → ∃ x, alFind (s.endGrid i).tcbs i = some x ∧ x.st = .retired ∧ x.failed = true

/-- The Lanterns.  Rows of drains enter a die's gate queue, one at least where it is empty, up to 512; then a Lantern that is
bound and not stopped counts the row that it has routed, once its writes have reached dies 0 to 3, or routes the oldest row.
A row's experts are the largest logits that are no NaN, in descending order, the lower expert first among equals. -/
def Sys2Proof.Claims.Lanterns : Prop :=
  (∀ (s : State) (d : Nat), let u := (s.feedGate d).settle
    let l := kvGet Lantern.idle s.lanterns d
    let m := kvGet Lantern.idle u.lanterns d
    (∃ new, m.rows = l.rows ++ new ∧ new.length ≤ l.fed ∧ (l.rows.length ≤ 512 → m.rows.length ≤ 512) ∧
      (l.rows = [] → (∀ f ∈ l.feeds, f.2 ≠ []) → l.feeds ≠ [] → new ≠ [])) ∧
    m.desc = l.desc ∧ m.n = l.n ∧ m.stop = l.stop ∧ m.owed = l.owed ∧
    (m.desc = none ∨ m.stop = true ∨ (m.owed = none ∧ m.rows = []) → exec (.lanternGateRow d) s = .next u) ∧
    ∀ ctx pa, m.desc = some (ctx, pa) → m.stop = false →
      (∀ row rest, m.owed = none → m.rows = row :: rest →
        (u.homesReady = false → exec (.lanternGateRow d) s = .next u) ∧
        (u.homesReady = true → ∃ t : State, exec (.lanternGateRow d) s = .next t ∧
          (kvGet Lantern.idle t.lanterns d).rows = rest ∧ (kvGet Lantern.idle t.lanterns d).n = m.n + 1 ∧ t.cur = u.cur)) ∧
      ∀ ws, m.owed = some ws →
        let due := u.homesReady = true ∧ ∀ w ∈ ws, u.appliedAtAll w 0x0F = true
        let routed := dWord (u.bytesAt pa 64) 40
        (¬due → exec (.lanternGateRow d) s = .next u) ∧
        (due → ∃ t : State, exec (.lanternGateRow d) s = .next t ∧ (kvGet Lantern.idle t.lanterns d).owed = none ∧
          (kvGet Lantern.idle t.lanterns d).rows = m.rows ∧ t.cur = u.cur ∧
          ∀ tr h, (u.asLantern d ctx).translate routed .both = .ok tr → homeOf tr.pa = some h → tr.pa % 8 = 0 →
            u.unreadable tr.pa = false →
            readBytes (t.views.get h) tr.pa 8 = leBytes 8 (leNat (u.bytesAt tr.pa 8) + 1))) ∧
  ∀ (k n : Nat) (row : List Nat), let sel := selectExperts k n row
    let ok := fun e => e < n ∧ (fp32.decode (row.getD e 0)).isNan = false
    let before := fun x y : Nat × Nat => logitKey y.2 < logitKey x.2 ∨ (logitKey y.2 = logitKey x.2 ∧ x.1 < y.1)
    sel.length = min k ((List.range n).filter fun e => !(fp32.decode (row.getD e 0)).isNan).length ∧ sel.Pairwise before ∧
    (∀ x ∈ sel, ok x.1 ∧ x.2 = row.getD x.1 0) ∧
    ∀ e, ok e → (∀ x ∈ sel, x.1 ≠ e) → ∀ x ∈ sel, before x (e, row.getD e 0)

/-- The quarters.  A group passed over 4,096 times goes to class 3; a squash counts on its core, is logged where the policy of
the context concerned says so, and changes nothing else. -/
def Sys2Proof.Claims.Quarters : Prop :=
  (∀ (s : State) (group : Nat), ∃ t : State, exec (.schedAgingBoost group) s = .next t ∧
    t = { s with cur := t.cur, others := t.others } ∧ t.others.length = s.others.length ∧
    ∀ (k : Nat) (r : Resident), (s.cur :: s.others)[k]? = some r → ∃ q, (t.cur :: t.others)[k]? = some q ∧ q.sl = r.sl ∧
      q.g = { r.g with boosted := r.g.boosted || (decide (r.g.id = group ∧ group ≠ 0) && decide (4096 ≤ r.g.skipped)) }) ∧
  ∀ (s : State) (core q : Nat), (192 ≤ core ∨ 4 ≤ q → exec (.scoreboardSquash core q) s = .next s) ∧
    (core < 192 → q < 4 → ∃ t : State, exec (.scoreboardSquash core q) s = .next t ∧
      t = { s with cores := t.cores, mgmt := t.mgmt } ∧
      (∀ n, kvGet 0 (t.core core).ctrs n = if n = 2 then min (2 ^ 32 - 1) (kvGet 0 (s.core core).ctrs 2 + 1)
        else kvGet 0 (s.core core).ctrs n) ∧
      (∀ i, s.lastIssuer core q = some i → t.mgmt = s.mgmt ++ if s.logsCorrected i = true
        then [eventRecord 0 s.cycle (some core) (some i) ((alFind s.tcbs i).map (·.ctx)) 0 1 2] else []) ∧
      (s.lastIssuer core q = none → t.mgmt = s.mgmt))

/-- O55. Launches: queues and acceptance, placement, splits and gangs, task slots and ends, the Lanterns and the quarters.  The
model's choices: the ends (logs 32, 33), splits (36), the feed of a gate queue (49), the launch of a squash (85), gangs (90), the
order of cores and pieces (91) and the mirror ring (93). -/
def Obligations.LaunchSteps : Prop := Claims.Queues ∧ Claims.Placement ∧ Claims.Splits ∧ Claims.Gangs ∧ Claims.Slots ∧
  Claims.GroupEnds ∧ Claims.Lanterns ∧ Claims.Quarters

/-! ## Pre-emption, containment and rollback (20, 21; 07, 19) -/

/-- The clusters `cls` have been told to stop for the reason `why`: both slices of every group of theirs, no other group. -/
def Sys2Proof.Claims.Stopped (s u : State) (cls : List Nat) (why : Nat) : Prop :=
  (∀ r ∈ s.cur :: s.others, ∃ q ∈ u.cur :: u.others, q.g.id = r.g.id ∧
    if r.inTeams (s.unitTeams cls) = true then q.sl.stopped = true ∧ ∀ x, q.g.companion = some x → x.stopped = true else q = r) ∧
  (∀ p ∈ s.teams, ∃ q ∈ u.teams, q.1 = p.1 ∧ q.2.stop = if cls.contains p.2.cluster = true ∧ p.2.stop = 0 then why else p.2.stop) ∧
  u.views = s.views

/-- A unit is stopped for a translation fault, for a gang that starves, or at a phase where the grid has a piece that no core
can take, but only where the driver has a save area for it. -/
def Sys2Proof.Claims.Stops : Prop :=
  ∀ (s : State) (team : Nat),
    (alFind s.teams team = none → (∀ i, exec (.preemption i team) s = .next s) ∧ exec (.wphaseSpill team) s = .next s) ∧
    ∀ (t : Team), alFind s.teams team = some t →
      let stands := t.ended = false ∧ t.stop = 0
      (let cls := s.unitOf team
        let faulted := s.unitFaulted t.tcb cls = true
        let why := if s.unitFaulted t.tcb cls = true then 2 else 1
        let due := stands ∧ (faulted ∨ s.gangWants t = true)
        (∀ i, i ≠ t.tcb ∨ ¬due → exec (.preemption i team) s = .next s) ∧
        (due → ∃ u : State, exec (.preemption t.tcb team) s = .next u ∧
          if Config.saveRoom s.tick = true then Claims.Stopped s u cls why else u = s)) ∧
      let due := ∃ c, alFind s.tcbs t.tcb = some c ∧ c.kernel.cores = false ∧ stands ∧ s.phaseWaits [t.cluster] = true ∧
        s.pieceStuck t.tcb c = true ∧
        ∀ p ∈ s.teams, p.2.tcb = t.tcb → p.2.ended = false → p.2.stop = 0 → p.2.placed < t.placed → p.2.cluster ≠ t.cluster →
          s.phaseWaits [p.2.cluster] = false
      (¬due → exec (.wphaseSpill team) s = .next s) ∧
      (due → ∃ u : State, exec (.wphaseSpill team) s = .next u ∧
        if Config.saveRoom s.tick = true then Claims.Stopped s u [t.cluster] 3 else u = s)

/-- A containment event of a running launch: its rollback is called for, with SOURCE, core and AUX. -/
def Sys2Proof.Claims.Called (s v : State) (i : Nat) (why : Nat × Nat × W64) : Prop :=
  ∀ t, alFind s.tcbs i = some t → t.st = .running → t.rolling = false → ∃ x, alFind v.tcbs i = some x ∧ x.rolling = true ∧ x.why = why

/-- A stopped unit at rest is saved, with its groups' registers and places in the code, and its teams and clusters leave the
cores; placed again, first in the order of units and pieces, it has them back and its slices may issue.  An uncorrectable
error in the save area loses the unit, and its launch is to be rolled back. -/
def Sys2Proof.Claims.SavesAndRestores : Prop :=
  (∀ (s : State) (team : Nat), (alFind s.teams team = none → exec (.preemptSave team) s = .next s) ∧
    ∀ (t : Team), alFind s.teams team = some t →
      let cls := s.unitOf team
      (t.stop = 0 ∨ s.unitReady cls = false → exec (.preemptSave team) s = .next s) ∧
      (t.stop ≠ 0 → s.unitReady cls = true → ∃ v : State, exec (.preemptSave team) s = .next v ∧
        if s.saveBad = true then Claims.Called s v t.tcb (0, t.core, 0) ∧ v.saved = s.saved ∧ v.teams = s.teams
        else ∃ x ∈ v.saved, x.2.tcb = t.tcb ∧ x.2.why = t.stop ∧ x.2.teams = s.unitTeams cls ∧
        (∀ r ∈ s.unitGroups cls, ∃ q ∈ x.2.groups, q.g.id = r.g.id ∧ q.sl.s = r.sl.s ∧ q.sl.ops.map (·.id) = r.sl.ops.map (·.id) ∧
          q.g.pcv = r.g.pcv) ∧
        (∀ p ∈ v.teams, cls.contains p.2.cluster = false) ∧ (∀ p ∈ v.clusters, cls.contains p.1 = false) ∧
        ∀ r ∈ v.cur :: v.others, r.inTeams (s.unitTeams cls) = false)) ∧
  ∀ (s : State) (unit core : Nat), let u := s.settleReady.settleRoom
    (alFind u.saved unit = none → exec (.unitResume unit core) s = .next u) ∧
    ∀ (x : Saved), alFind u.saved unit = some x →
      (alFind u.tcbs x.tcb = none ∨ u.restored (unit, x) core = none → exec (.unitResume unit core) s = .next u) ∧
      ∀ (t : Tcb) (v : State), alFind u.tcbs x.tcb = some t → u.restored (unit, x) core = some v →
        let first := u.unitGoesFirst core x.tcb t (some x.order) = false ∧
          ∀ e ∈ u.fitting core, e.1 = x.tcb ∨ tcbBefore (e.1, e.2.1) (x.tcb, t) = false
        (¬first → exec (.unitResume unit core) s = .next u) ∧
        (first → exec (.unitResume unit core) s = .next (if u.saveBad = true
          then { u with saved := u.saved.filter fun p => p.1 != unit }.unitLost x.tcb core else v.settleRoom.reserveAll)) ∧
        Claims.Called u ({ u with saved := u.saved.filter fun p => p.1 != unit }.unitLost x.tcb core) x.tcb (0, core, 0) ∧
        ((∀ p ∈ v.saved, p.1 ≠ unit) ∧
          ∀ p ∈ x.clusters, (∃ c ∈ v.clusters, c.1 = p.1 ∧ c.2.lo = p.2.lo ∧ c.2.hi = p.2.hi ∧ c.2.taken = p.2.taken) ∧
            ∀ q ∈ x.teams, q.2.cluster = p.1 → (∃ e ∈ v.teams, e.1 = q.1 ∧ e.2.stop = 0 ∧ e.2.placed = u.nextId ∧ e.2.mem = q.2.mem ∧ e.2.bars = q.2.bars) ∧
              (q.2.ended = false → ∀ r ∈ x.groups, r.g.team = q.1 → ∃ e ∈ v.others, e.g.id = r.g.id ∧ e.sl.s = r.sl.s ∧
                e.sl.ops.map (·.id) = r.sl.ops.map (·.id) ∧ e.g.pcv = r.g.pcv ∧ e.g.since = u.nextId ∧ e.sl.stopped = false))

/-- Pre-emption: the unit stopped, saved, restored. -/
def Sys2Proof.Claims.Units : Prop := Claims.Stops ∧ Claims.SavesAndRestores

/-- The record of a containment event of launch `i`. -/
def Sys2Proof.Claims.event (s : State) (i : Nat) (core : Option Nat) (aux : W64) (action cls src : Nat) : BitVec 256 :=
  eventRecord aux s.cycle core (some i) ((alFind s.tcbs i).map (·.ctx)) action cls src

/-- Errors of a core's storage and its AAE: a corrected one counts, and is logged where the context asks for it; a lasting
one marks the core suspect, is logged and calls for the launch's rollback; in a Belfry it makes the word of the held line at
its address uncorrectable.  A lasting fault of an AAE fences it, calls for the rollback of its launch and stops the other
coupled teams of the core, where their save areas can be had. -/
def Sys2Proof.Claims.Errors : Prop :=
  ∀ (s : State) (core src i : Nat) (aux : W64),
    (∀ lasting, src < 3 ∨ 6 < src ∨ 192 ≤ core → exec (.storageEccError core src i aux lasting) s = .next s) ∧
    (192 ≤ core → exec (.aaeLastingFault core i) s = .next s) ∧
    (core < 192 →
      (3 ≤ src → src ≤ 5 → ∃ v : State, exec (.storageEccError core src i aux true) s = .next v ∧ (v.core core).suspect = true ∧
        Claims.Called s v i (src, core, aux) ∧ v.mgmt = s.mgmt ++ [Claims.event s i (some core) aux 4 2 src]) ∧
      (∃ v : State, exec (.storageEccError core 6 i aux true) s = .next v ∧ v = { s with belfry := v.belfry } ∧
        ∀ l ∈ s.belfry, ∃ m ∈ v.belfry, m.die = l.die ∧ m.line = l.line ∧
          ∀ k, k < 8 → m.bad.getLsbD k = (l.bad.getLsbD k || (decide (l.line = aux.toNat / 64 * 64) && decide (k = aux.toNat % 64 / 8)))) ∧
      (3 ≤ src → src ≤ 6 → ∃ v : State, exec (.storageEccError core src i aux false) s = .next v ∧
        v = { s with cores := v.cores, mgmt := v.mgmt } ∧
        (∀ n, kvGet 0 (v.core core).ctrs n = if n = 3 then min (2 ^ 32 - 1) (kvGet 0 (s.core core).ctrs 3 + 1)
          else kvGet 0 (s.core core).ctrs n) ∧
        v.mgmt = s.mgmt ++ if s.logsCorrected i = true then [Claims.event s i (some core) aux 0 0 src] else []) ∧
      ∃ v : State, exec (.aaeLastingFault core i) s = .next v ∧ (v.core core).fenced = true ∧ Claims.Called s v i (9, core, 0) ∧
        v.mgmt = s.mgmt ++ [Claims.event s i (some core) 0 8 2 9] ∧
        ∀ k t c, alFind s.teams k = some t → t.core = core → t.ended = false → t.tcb ≠ i → alFind s.tcbs t.tcb = some c →
          c.kernel.detached = false → t.cluster ∈ s.unitOf k →
          (∃ q, alFind v.teams k = some q ∧ q.stop ≠ 0) ∨ ∃ n, Config.saveRoom n = false)

/-- Rollback.  A launch at its replay limit, or one that cannot be restored, fails with its record and its groups stop; while
the set has work outstanding its groups are held; then its snapshots go back, what it holds is freed, and the launch is ready
once more. -/
def Sys2Proof.Claims.Rollback : Prop :=
  (∀ (s : State) (i : Nat),
    ((∀ t, alFind s.tcbs i = some t → t.rolling = false ∨ t.st ≠ .running ∨ t.failed = true) → exec (.rollback i) s = .next s) ∧
    ∀ (t : Tcb), alFind s.tcbs i = some t → t.rolling = true → t.st = .running → t.failed = false →
      let set := s.rollSet s.tcbs.length [i]
      let log := fun n => s.mgmt ++ [Claims.event s i (if t.why.2.1 < 192 then some t.why.2.1 else none) t.why.2.2 n 2 t.why.1]
      let held := fun (v : State) (l : List Nat) => ∀ r ∈ v.cur :: v.others, r.g.id ≠ 0 → l.contains r.g.tcb = true → r.sl.ended = true
      (s.rollSpent set = true ∨ s.rollFails set = true → ∃ (v : State) (x : Tcb), exec (.rollback i) s = .next v ∧
        alFind v.tcbs i = some x ∧ x.failed = true ∧ x.pieces = [] ∧ x.tiles = [] ∧ held v [i] ∧
        v.mgmt = log (if s.rollSpent set = true then 2 else 3)) ∧
      (s.rollSpent set = false → s.rollFails set = false → s.rollDrained set = false → ∃ v : State, exec (.rollback i) s = .next v ∧
        v.views = s.views ∧ v.mgmt = s.mgmt ∧ held v set) ∧
      (s.rollSpent set = false → s.rollFails set = false → s.rollDrained set = true → ∃ (v : State) (x : Tcb),
        exec (.rollback i) s = .next v ∧ alFind v.tcbs i = some x ∧ x.replays = t.replays + 1 ∧ x.rolling = false ∧
        x.packet = t.packet ∧ v.mgmt = log 1 ∧
        (∀ r ∈ v.cur :: v.others, r.g.id ≠ 0 → set.contains r.g.tcb = false) ∧ (∀ p ∈ v.teams, set.contains p.2.tcb = false) ∧
        ∀ p ∈ v.snaps, set.contains p.tcb = false)) ∧
  ∀ (s : State) (p : Snap) (e a : Nat), readByte ((s.copyBack p).views.get e) a =
    if p.block ≤ a ∧ a < p.block + 65536 then readByte p.cells a else readByte (s.views.get e) a

/-- O56. Pre-emption, errors of the storage and rollback.  The model's choices: SOURCE 0 at a failed save or restore and whether a
save area is there (log 17), the CLASS values (71) and the member whose replay limit counts (72). -/
def Obligations.PreemptionSteps : Prop := Claims.Units ∧ Claims.Errors ∧ Claims.Rollback

/-- O57. A launch is rolled back three times at most: a rollback that replays a launch counts it, and finds it counted less than
three times; the fourth event that calls for one fails the launch, with ACTION 2. -/
def Obligations.ReplayLimit : Prop :=
  ∀ (s : State) (i : Nat) (t : Tcb), alFind s.tcbs i = some t → t.rolling = true → t.st = .running →
    (∀ v j y x, exec (.rollback i) s = .next v → alFind s.tcbs j = some y → alFind v.tcbs j = some x → x.replays ≠ y.replays →
      y.replays < 3 ∧ x.replays = y.replays + 1) ∧
    (3 ≤ t.replays → t.failed = false → ∃ (v : State) (x : Tcb), exec (.rollback i) s = .next v ∧ alFind v.tcbs i = some x ∧
      x.failed = true ∧ x.replays = t.replays ∧
      v.mgmt = s.mgmt ++ [Claims.event s i (if t.why.2.1 < 192 then some t.why.2.1 else none) t.why.2.2 2 2 t.why.1])

/-! ## The package (21, 22) -/

/-- A warm reset that waits for its answer has it: its links have trained and the Keep runs. -/
def Sys2Proof.Claims.ResetAnswered (s t : State) : Prop :=
  (s.pend = none → t.pend = none ∧ t.resp = s.resp ∧ t.ring = s.ring) ∧
  ∀ tag x, s.pend = some (tag, 12, x) → let up := t.kstate = 1 ∧ t.hlink.state ≠ 1 ∧ ∀ p ∈ t.ports, p.2.state ≠ 1
    (up → t.pend = none ∧ t.resp = s.resp ++ [⟨0, tag, 0, 12⟩] ∧ t.ring = ((s.ring.1 + 1) % 2 ^ 32, s.ring.2)) ∧
    (¬up → t.pend = s.pend ∧ t.resp = s.resp ∧ t.ring = s.ring)

/-- Ports.  One that carries traffic counts the consecutive replays of a bad flit, eight at most, each of them transient and
logged where a context asks for it; a good flit ends the row; after the eighth it retrains and comes up again, whole or degraded,
with up to four lanes. -/
def Sys2Proof.Claims.Ports : Prop :=
  ∀ (s : State) (k : Nat) (ok : Bool), let p := s.port k
    let others := fun (t : State) => t = { s with ports := t.ports, mgmt := t.mgmt } ∧ ∀ j, j ≠ k → t.port j = s.port j
    (64 ≤ k ∨ p.state < 2 → exec (.flitCrcError k) s = .next s) ∧
    (k < 64 → 2 ≤ p.state → ∃ t : State, exec (.flitCrcError k) s = .next t ∧ others t ∧
      t.port k = { p with replays := min 8 (p.replays + 1), transient := min (2 ^ 32 - 1) (p.transient + 1) } ∧
      t.mgmt = s.mgmt ++ if (s.ctxs.any fun c => c.2.r.logCorrected) = true
        then [eventRecord 0 s.cycle none none none 0 1 7] else []) ∧
    (64 ≤ k ∨ p.state < 2 → s.goodFlit k = s) ∧
    (k < 64 → 2 ≤ p.state → (s.goodFlit k).port k = { p with replays := 0 } ∧ others (s.goodFlit k) ∧ (s.goodFlit k).mgmt = s.mgmt) ∧
    (64 ≤ k ∨ p.state < 2 ∨ p.replays < 8 → exec (.portRetrain k) s = .next s) ∧
    (k < 64 → 2 ≤ p.state → 8 ≤ p.replays → ∃ t : State, exec (.portRetrain k) s = .next t ∧
      t.port k = { p with state := 1, replays := 0, retrains := (p.retrains + 1) % 2 ^ 16 } ∧ others t ∧ t.mgmt = s.mgmt) ∧
    (64 ≤ k ∨ p.state ≠ 1 → exec (.retrainComplete k ok) s = .next s) ∧
    (k < 64 → p.state = 1 → ∃ (t : State) (n : Nat), exec (.retrainComplete k ok) s = .next t ∧ n ≤ 4 ∧
      t.port k = { p with state := if ok = true then 2 else 3, lanes := n } ∧
      t = { s with ports := t.ports, tick := t.tick, cores := t.cores, pend := t.pend, resp := t.resp, ring := t.ring } ∧
      (∀ j, j ≠ k → t.port j = s.port j) ∧ Claims.ResetAnswered s t)

/-- Heat and power.  A die at its limit halts issue with a record and resumes with another; one over its power lowers its clock
by 100 MHz, to 1.2 GHz at least. -/
def Sys2Proof.Claims.HeatAndPower : Prop :=
  ∀ (s : State) (d : Nat),
    let log := fun n => s.mgmt ++ [eventRecord (.ofNat 64 d) s.cycle none none none n 3 8]
    (4 ≤ d ∨ d ∈ s.halted → exec (.thermalHalt d) s = .next s) ∧
    (d < 4 → d ∉ s.halted → exec (.thermalHalt d) s = .next { s with halted := s.halted ++ [d], mgmt := log 6 }) ∧
    (d ∉ s.halted → exec (.thermalResume d) s = .next s) ∧
    (d ∈ s.halted → exec (.thermalResume d) s = .next { s with halted := s.halted.filter (· != d), mgmt := log 7 }) ∧
    (4 ≤ d ∨ s.clockMHz d ≤ 1200 → exec (.powerLimitThrottle d) s = .next s) ∧
    (d < 4 → 1200 < s.clockMHz d → ∃ t : State, exec (.powerLimitThrottle d) s = .next t ∧ t = { s with mhz := t.mhz } ∧
      t.clockMHz d = s.clockMHz d - 100 ∧ ∀ e, e ≠ d → t.clockMHz e = s.clockMHz e)

/-- Bring-up takes its steps in order, to the one that fails, where the Keep halts: step 2 fences the AAEs that fail their test,
steps 3 and 5 load the firmware of a target that has none, step 6 trains Rolyr-H; after the last the Keep runs.  An accepted
image takes over once the target's streams are idle. -/
def Sys2Proof.Claims.BringUpAndFirmware : Prop :=
  (∀ (s : State), (s.kstate ≠ 0 → ∀ f, exec (.bringUp f) s = .next s) ∧
    (s.kstate = 0 → ∀ f, let done := fun (k : Nat) => ∀ n, f = some n → k < n
      ∃ t : State, exec (.bringUp f) s = .next t ∧
        t = { s with kstate := t.kstate, fwver := t.fwver, fwdig := t.fwdig, cores := t.cores, hlink := t.hlink, tick := t.tick,
                     pend := t.pend, resp := t.resp, ring := t.ring } ∧
        t.kstate = (if f = none then 1 else 3) ∧ Claims.ResetAnswered s t ∧
        (done 6 → t.hlink.state = 2 ∧ t.hlink.lanes ≤ 32) ∧ (¬done 6 → t.hlink = s.hlink) ∧
        (done 2 → ∀ n, n < 192 → Config.aaeBad n = true → (t.core n).fenced = true) ∧
        (∀ n, 192 ≤ n ∨ Config.aaeBad n = false ∨ ¬done 2 → (s.core n).toFence = false → t.core n = s.core n) ∧
        ∀ n, n < 5 → (kvGet 0 t.fwver n, kvGet 0 t.fwdig n) =
          if kvGet 0 s.fwver n = 0 ∧ done (if n = 0 then 3 else 5) then (Config.bootVersion n, Config.bootDigest n)
          else (kvGet 0 s.fwver n, kvGet 0 s.fwdig n))) ∧
  ∀ (s : State) (n : Nat), let idle := ∀ r ∈ s.cur :: s.others, r.g.id = 0 ∨ r.sl.kind ≠ targetKind n ∨ r.sl.ended = true
    (s.fwpend.find? (fun p => p.1 == n) = none ∨ ¬idle → exec (.firmwareSwap n) s = .next s) ∧
    ∀ v w, s.fwpend.find? (fun p => p.1 == n) = some (v, w) → idle → ∃ t : State, exec (.firmwareSwap n) s = .next t ∧
      t = { s with fwver := t.fwver, fwdig := t.fwdig, fwpend := t.fwpend } ∧
      kvGet 0 t.fwver n = w.2.1 ∧ kvGet 0 t.fwdig n = w.2.2 ∧ (∀ j, j ≠ n → kvGet 0 t.fwdig j = kvGet 0 s.fwdig j) ∧ t.fwpend = s.fwpend.filter (fun p => p.1 != n) ∧ ∀ j, j ≠ n → kvGet 0 t.fwver j = kvGet 0 s.fwver j

/-- O58. Ports, heat and power, bring-up and firmware.  The model's choices: the versions and the AAEs at boot (log 12), which
replays are consecutive (69) and the lanes that come up (70). -/
def Obligations.PackageSteps : Prop := Claims.Ports ∧ Claims.HeatAndPower ∧ Claims.BringUpAndFirmware

/-! ## The commands of the management ring (22; 04, 07, 18, 20, 26) -/

/-- The command `i`, performed on `w`, is answered with its TAG, its OPC and a STATUS, and leaves the ring. -/
def Sys2Proof.Claims.Answers (w : State) (tag : BitVec 32) (opc status : Nat) (t : State) : Prop :=
  t.pend = none ∧ t.resp = w.resp ++ [⟨0, tag, status, opc⟩] ∧ t.ring = ((w.ring.1 + 1) % 2 ^ 32, (w.ring.2 + 1) % 2 ^ 32)

/-- The command of an instruction, with its TAG. -/
noncomputable def Sys2Proof.Claims.commandOf : Instr → Option (BitVec 32 × Command)
  | .summary g pa => some (g, .summary pa)
  | .ctxset g c r => some (g, .ctxset c r)
  | .inval g c va len k => some (g, .inval c va len k)
  | .resolve g i a => some (g, .resolve i a)
  | .preempt g i => some (g, .preempt i)
  | .routebind g d c pa => some (g, .routebind d c pa)
  | .clrsuspect g c => some (g, .clrsuspect c)
  | .domain g own peer ring => some (g, .domain own peer ring)
  | .route g p l => some (g, .route p l)
  | .fwload g pa n => some (g, .fwload pa n)
  | .attest g a b => some (g, .attest a b)
  | .wreset g => some (g, .wreset)
  | .scrub g k v => some (g, .scrub k v)
  | .aaefence g c v => some (g, .aaefence c v)
  | .corestat g pa => some (g, .corestat pa)
  | _ => none

/-- A Keep that runs and has no command before it performs the next one. -/
def Sys2Proof.Claims.listens (w : State) : Prop := w.pend = none ∧ w.cmds = [] ∧ w.kstate = 1

/-- The commands that set the package's state: each answers status 0 with its effect, status 2 on an operand out of range
with none. -/
def Sys2Proof.Claims.Settings : Prop :=
  ∀ (s : State) (tag : BitVec 32), let w := s.settlePend
    Claims.listens w →
    (∀ core, ∃ t : State, exec (.clrsuspect tag core) s = .next t ∧ Claims.Answers w tag 7 (if core < 192 then 0 else 2) t ∧
      ∀ n, (t.core n).suspect = if n = core ∧ core < 192 then false else (w.core n).suspect) ∧
    (∀ d c pa, ∃ t : State, exec (.routebind tag d c pa) s = .next t ∧
      let good := d < 4 ∧ (alFind w.ctxs c).isSome = true ∧ w.paValid pa = true
      (good → Claims.Answers w tag 6 0 t ∧ let l := kvGet Lantern.idle t.lanterns d
        l.desc = some (c, pa) ∧ l.n = 0 ∧ l.stop = false ∧ l.rows = (kvGet Lantern.idle w.lanterns d).rows) ∧
      (¬good → Claims.Answers w tag 6 2 t ∧ t.lanterns = w.lanterns)) ∧
    (∀ own peer ring, ∃ t : State, exec (.domain tag own peer ring) s = .next t ∧
      (own < 2304 → Claims.Answers w tag 8 0 t ∧ t.domain = own ∧ t.mirror = (if peer < 2304 then some (peer, ring) else none) ∧
        ∀ k, k < 64 → (t.port k).state = if (w.port k).state = 0 then 1 else (w.port k).state) ∧
      (2304 ≤ own → Claims.Answers w tag 8 2 t ∧ t.domain = w.domain ∧ t.mirror = w.mirror ∧ t.ports = w.ports)) ∧
    (∀ pkg ports, ∃ t : State, exec (.route tag pkg ports) s = .next t ∧ Claims.Answers w tag 9 (if pkg < 2304 then 0 else 2) t ∧
      ∀ p, kvGet 0 t.routes p = if p = pkg ∧ pkg < 2304 then ports else kvGet 0 w.routes p) ∧
    (∀ k (v : BitVec 64), let p := v.toNat / 2 ^ 16 % 2 ^ 16
      let good := k < 12 ∧ v.toNat / 2 ^ 33 = 0
      ∃ t : State, exec (.scrub tag k v) s = .next t ∧
        (good → Claims.Answers w tag 13 0 t ∧ (t.cup k).passes = (w.cup k).passes ∧
          if 60 ≤ p ∧ p ≤ 43200 then (t.cup k).scrubEn = v.getLsbD 32 ∧ (t.cup k).pmin = p
          else (t.cup k).scrubEn = (w.cup k).scrubEn ∧ (t.cup k).pmin = (w.cup k).pmin) ∧
        (¬good → Claims.Answers w tag 13 2 t ∧ t.cups = w.cups)) ∧
    ∀ c (r : CtxRec),
      let good := c < 2 ^ 32 - 1 ∧ r.queues.length ≤ 16 ∧ (∀ q ∈ r.queues, ringCapOk q.cap = true) ∧
        ∀ b ∈ r.bags, bagParamOk b.1 = true ∧ b.2 ≠ 0
      let old := (alFind w.ctxs c).getD (CtxState.fresh r)
      let new := newBags (old.declared.map (·.1)) r.bags
      (good → new ≠ [] → w.homesReady = false → ∃ t : State, exec (.ctxset tag c r) s = .next t ∧ t.pend = none ∧ t.resp = w.resp ∧
        t.ctxs = w.ctxs ∧ t.cmds = [(tag, .ctxset c r)] ∧ t.ring = (w.ring.1, (w.ring.2 + 1) % 2 ^ 32)) ∧
      (good → new = [] ∨ w.homesReady = true → ∃ t : State, exec (.ctxset tag c r) s = .next t ∧ Claims.Answers w tag 2 0 t ∧
        ∃ k, alFind t.ctxs c = some k ∧ k.r = r ∧ k.heads = old.heads ∧ k.tails = old.tails ∧
          k.declared.map (·.1) = (keptBags old.declared r.bags).map (·.1) ++ new) ∧
      (¬good → ∃ t : State, exec (.ctxset tag c r) s = .next t ∧ Claims.Answers w tag 2 2 t ∧ t.ctxs = w.ctxs)

/-- SUMMARY: the record of R375 at every agent, this command among those in the ring; an address where no record can be written is
answered with status 2. -/
def Sys2Proof.Claims.Summary : Prop :=
  ∀ (s : State) (tag : BitVec 32) (pa : Nat), let w := s.settlePend
    w.pend = none → (w.kstate = 1 ∧ w.cmds = []) ∨ w.kstate = 3 → ∃ t : State, exec (.summary tag pa) s = .next t ∧
      Claims.Answers w tag 1 (if w.recordOk pa 4096 = true then 0 else 2) t ∧ (w.recordOk pa 4096 = false → t.views = w.views) ∧
      (w.recordOk pa 4096 = true → ∀ e, let at' := fun lo n => readBytes (t.views.get e) (w.ownRegion pa + lo) n
        at' 0 16 = dwordBytes w.cycle ++ leBytes 8 w.kstate ∧
        (∀ k, k < 5 → at' (16 + 8 * k) 8 = leBytes 8 (kvGet 0 w.fwver k)) ∧
        (∀ i, i < 2048 → at' (384 + i) 1 = [.ofNat 8 (w.tcbNibble (2 * i) + 16 * w.tcbNibble (2 * i + 1))]) ∧
        (∀ n, n < 192 → at' (2432 + 2 * n) 2 = leBytes 2 (w.coreWord n)) ∧
        (∀ k j, k < 12 → j < 4 → at' (2816 + 16 * k + 4 * j) 4 = leBytes 4 (kvGet 0 (w.cup k).ctrs j)) ∧
        (∀ d j, d < 4 → j < 4 → at' (3008 + 16 * d + 4 * j) 4 = leBytes 4 (w.dieCount d j)) ∧
        (∀ k, k < 64 → at' (3072 + 4 * k) 4 = leBytes 4 (portWord (w.port k))) ∧
        at' 56 8 = leBytes 4 w.ring.1 ++ leBytes 4 ((w.ring.2 + 1) % 2 ^ 32) ∧
        at' 64 256 = queueBytes (busiest w.ctxs) ++
          queueBytes (busiest (w.ctxs.filter fun p => (busiest w.ctxs).map (·.1) != some p.1)) ∧
        at' 320 8 = leBytes 8 (w.hlink.state + w.hlink.lanes * 2 ^ 2 + w.hlink.retrains * 2 ^ 16) ∧
        at' 328 56 = List.replicate 56 0 ∧ at' 3840 256 = List.replicate 256 0 ∧
        at' 3328 8 = leBytes 8 w.bags.length ∧ (∀ k, k < 31 → at' (3336 + 8 * k) 8 = leBytes 8 (w.bagAddrs.getD k 0)) ∧
        ∀ k, k < 32 → at' (3584 + 8 * k) 8 = leBytes 8 (w.handlerWords.getD k (2 ^ 64 - 1)))

/-- CORESTAT: four counters of each core.  ATTEST: the report carries the nonce and the digests of
the running images.  FWLOAD: a whole image that verifies and is not
below the fused minimum version is accepted for its target; any other is answered with status 1. -/
def Sys2Proof.Claims.Reports : Prop :=
  (∀ (s : State) (tag : BitVec 32), let w := s.settlePend
    Claims.listens w →
    (∀ pa, ∃ t : State, exec (.corestat tag pa) s = .next t ∧
      Claims.Answers w tag 15 (if w.recordOk pa 3072 = true then 0 else 2) t ∧ (w.recordOk pa 3072 = false → t.views = w.views) ∧
      (w.recordOk pa 3072 = true → ∀ e n j, n < 192 → j < 4 →
        readBytes (t.views.get e) (w.ownRegion pa + 16 * n + 4 * j) 4 = leBytes 4 (kvGet 0 (w.core n).ctrs j))) ∧
    (∀ nonce pa, let good := w.recordOk nonce 32 = true ∧ w.recordOk pa 3072 = true
      (¬good → ∃ t : State, exec (.attest tag nonce pa) s = .next t ∧ Claims.Answers w tag 11 2 t ∧ t.views = w.views) ∧
      (good → w.homeBytes (w.ownRegion nonce) 32 = none → ∃ t : State, exec (.attest tag nonce pa) s = .next t ∧
        Claims.Answers w tag 11 1 t ∧ t.views = w.views) ∧
      ∀ b, good → w.homeBytes (w.ownRegion nonce) 32 = some b → ∃ t : State, exec (.attest tag nonce pa) s = .next t ∧
        Claims.Answers w tag 11 0 t ∧ ∀ e, readBytes (t.views.get e) (w.ownRegion pa + 72) 32 = b ∧
          (∀ k, k < 5 → readBytes (t.views.get e) (w.ownRegion pa + 104 + 32 * k) 32 = leBytes 32 (kvGet 0 w.fwdig k).toNat) ∧
          readBytes (t.views.get e) (w.ownRegion pa + 264) 388 = List.replicate 388 0) ∧
    ∀ pa n, let file := (w.homeBytes (w.ownRegion pa) 64).bind fun h =>
        if w.recordOk pa (recNum h 4 8) = true then w.homeBytes (w.ownRegion pa) (recNum h 4 8) else none
      let good := n < 5 ∧ w.recordOk pa 64 = true
      let ok := fun b => firmwareOk b = true ∧ Config.minVersion ≤ recNum b 12 4
      ∃ t : State, exec (.fwload tag pa n) s = .next t ∧ t.fwver = w.fwver ∧
        (¬good → Claims.Answers w tag 10 2 t ∧ t.fwpend = w.fwpend) ∧
        (good → file = none → Claims.Answers w tag 10 1 t ∧ t.fwpend = w.fwpend) ∧
        ∀ b, good → file = some b → (ok b → Claims.Answers w tag 10 0 t ∧ t.fwpend.find? (fun p => p.1 == n) = some (n, pa, recNum b 12 4, sha3 b)) ∧
          (¬ok b → Claims.Answers w tag 10 1 t ∧ t.fwpend = w.fwpend)) ∧
  ∀ (b : List Byte), firmwareOk b = true → recNum b 0 4 = 0x4E46_4F53 ∧ recNum b 12 4 = 0x0001_0000 ∧ recNum b 20 4 = 3 ∧ ∃ e ∈ sofEntries b,
    recNum e 4 1 = 12 ∧ recNum e 16 8 = 2428 ∧
    Config.verifies (.ofNat 64 (recNum (sofContents b e) 0 8)) (sha3 (sofSigned b)) ((sofContents b e).drop 8) = true

/-- The team `t` belongs to a launch whose groups have access slices. -/
def Sys2Proof.Claims.coupled (w : State) (t : Team) : Prop := ∃ c, alFind w.tcbs t.tcb = some c ∧ c.kernel.detached = false

/-- The commands on launches and cores.  INVAL of a range drops the context's cached translations of it and waits for the
accesses that may have used them, INVAL of the scope table answers at once; RESOLVE lets a launch's faulted groups go on, or
fails it; PREEMPT stops every unit of a running launch and waits for their saves; AAEFENCE lifts a fence, or sets it once the
coupled teams there are saved, or, where one cannot be saved, is refused until that team has ended; WRESET drains the package,
fails the running launches, leaves no group, and is answered once the Keep runs again and its links have trained. -/
def Sys2Proof.Claims.Interventions : Prop :=
  ∀ (s : State) (tag : BitVec 32), let w := s.settlePend
    Claims.listens w →
    (∀ c va len, ∃ t : State, exec (.inval tag c va len 0) s = .next t ∧
      t.tlb = w.tlb.filter (fun e => e.ctx != c || decide (va.toNat + len ≤ e.va) || decide (e.va + e.size ≤ va.toNat)) ∧
      let late := fun (id : Nat) (out : Prop) (ws : List Nat) => id < w.nextId ∧
        (out ∨ w.asking id = true ∨ ∃ x ∈ ws, w.atHome x = false)
      let used := (∃ r ∈ w.cur :: w.others, ∃ o ∈ r.allOps, o.id < w.nextId ∧ ∃ a ∈ o.acc, a.st ≠ .done ∧ a.st ≠ .bad) ∨
        (∃ c ∈ w.cores, ∃ q ∈ c.2.eq, ∃ o ∈ q.2, late o.id (o.remote ≠ []) o.writes) ∨ ∃ y ∈ w.streams, late y.id (y.remote ≠ []) y.writes
      (used → t.pend = some (tag, 3, w.nextId) ∧ t.resp = w.resp) ∧ (¬used → Claims.Answers w tag 3 0 t)) ∧
    (∀ c va len, ∃ t : State, exec (.inval tag c va len 1) s = .next t ∧ Claims.Answers w tag 3 0 t ∧
      t.scopes = w.scopes.filter fun k => k.ctx != c) ∧
    (∀ c va len k, 2 ≤ k → ∃ t : State, exec (.inval tag c va len k) s = .next t ∧ Claims.Answers w tag 3 2 t ∧ t.tlb = w.tlb ∧
      t.scopes = w.scopes) ∧
    (∀ i ans, ((alFind w.tcbs i).bind (·.xfault) = none → ∃ t : State, exec (.resolve tag i ans) s = .next t ∧
        Claims.Answers w tag 4 1 t ∧ t.tcbs = w.tcbs) ∧
      ((alFind w.tcbs i).bind (·.xfault) ≠ none →
        (2 ≤ ans → ∃ t : State, exec (.resolve tag i ans) s = .next t ∧ Claims.Answers w tag 4 2 t ∧ t.tcbs = w.tcbs) ∧
        (∃ (t : State) (x : Tcb), exec (.resolve tag i 1) s = .next t ∧ Claims.Answers w tag 4 0 t ∧ alFind t.tcbs i = some x ∧
          x.failed = true ∧ x.xfault = none ∧ ((alFind w.tcbs i).map (·.st) = some .running →
            ∀ r ∈ t.cur :: t.others, r.g.id ≠ 0 → r.g.tcb = i → r.sl.ended = true)) ∧
        ∃ t : State, exec (.resolve tag i 0) s = .next t ∧ Claims.Answers w tag 4 0 t ∧
          (∀ x, alFind t.tcbs i = some x → x.xfault = none) ∧
          ∀ r ∈ t.cur :: t.others, r.g.id ≠ 0 → r.g.tcb = i → r.sl.wait ≠ some .keep)) ∧
    (∀ i t, alFind w.tcbs i = some t → t.st = .running → ∃ u : State, exec (.preempt tag i) s = .next u ∧
      let cls := (w.clusters.filter fun p => p.2.tcb == i && !p.2.ended).map (·.1)
      (Config.saveRoom w.tick = false → Claims.Answers w tag 5 1 u ∧ u.cur = w.cur ∧ u.others = w.others ∧ u.teams = w.teams) ∧
      (Config.saveRoom w.tick = true → Claims.Stopped w u cls 4 ∧
        let stands := ∃ p ∈ u.teams, p.2.tcb = i ∧ p.2.ended = false ∧ p.2.stop ≠ 0
        (stands → u.pend = some (tag, 5, i) ∧ u.resp = w.resp) ∧ (¬stands → Claims.Answers w tag 5 0 u))) ∧
    (∀ i, (alFind w.tcbs i).map (·.st) ≠ some .running → ∃ t : State, exec (.preempt tag i) s = .next t ∧ Claims.Answers w tag 5 1 t) ∧
    (∀ core v, 192 ≤ core ∨ 1 < v → ∃ t : State, exec (.aaefence tag core v) s = .next t ∧ Claims.Answers w tag 14 2 t ∧
      t.cores = w.cores) ∧
    (∀ core, core < 192 → (∃ t : State, exec (.aaefence tag core 0) s = .next t ∧ Claims.Answers w tag 14 0 t ∧
        (t.core core).fenced = false ∧ (t.core core).toFence = false) ∧
      ∃ t : State, exec (.aaefence tag core 1) s = .next t ∧
        ((∀ p ∈ w.teamsOn core, ¬Claims.coupled w p.2) → Claims.Answers w tag 14 0 t ∧ (t.core core).fenced = true) ∧
        ((∃ p ∈ w.teamsOn core, Claims.coupled w p.2 ∧ p.2.stop = 0) →
          (Claims.Answers w tag 14 1 t ∧ (t.core core).toFence = true ∧ t.teams = w.teams) ∨ ∃ n, Config.saveRoom n = true) ∧
        ((∃ p ∈ w.teamsOn core, Claims.coupled w p.2) → (∀ p ∈ w.teamsOn core, Claims.coupled w p.2 → p.2.cluster ∈ w.unitOf p.1 ∧ p.2.tcb ≠ 4096) →
          (t.pend = some (tag, 14, core) ∧ t.resp = w.resp ∧ (t.core core).toFence = true ∧
            ∀ p ∈ t.teamsOn core, Claims.coupled t p.2 → p.2.stop ≠ 0) ∨ ∃ n, Config.saveRoom n = false)) ∧
    exec (.wreset tag) s = .next { w with ring := (w.ring.1, (w.ring.2 + 1) % 2 ^ 32), pend := some (tag, 12, 0), kstate := 2 }

/-- The Keep goes on with its ring: the command that waits first is performed once the one before it is answered; a WRESET
waits for every write, and then resets what does not survive it (R382). -/
def Sys2Proof.Claims.GoesOn : Prop :=
  ∀ (s : State), let w := s.settlePend
    (∀ tag c rest, w.pend = none → w.cmds = (tag, c) :: rest → (w.kstate ≠ 1 → s.nextCommand = w) ∧
      (w.kstate = 1 → s.nextCommand = (({ w with cmds := rest } : State).effect tag c).settlePend)) ∧
    (∀ p, w.pend = some p → p.2.1 ≠ 12 ∨ w.kstate ≠ 2 ∨ w.writes ≠ [] → s.nextCommand = w) ∧
    ∀ tag x, w.pend = some (tag, 12, x) → w.kstate = 2 → w.writes = [] → let t := s.nextCommand
      t.kstate = 0 ∧ t.pend = w.pend ∧ t.resp = w.resp ∧ t.ring = w.ring ∧ t.cmds = w.cmds ∧ t.hlink.state = 1 ∧
      (∀ k, (w.port k).state ≠ 0 → (t.port k).state = 1) ∧
      t.cur = ⟨Group.idle, Slice.idle .execute⟩ ∧ t.others = [] ∧ t.teams = [] ∧ t.clusters = [] ∧ t.writes = [] ∧ t.tlb = [] ∧
      (∀ p ∈ t.tcbs, p.2.st ≠ .running ∧ p.2.replays = 0) ∧
      (∀ n, (t.core n).ctrs = (w.core n).ctrs ∧ (t.core n).suspect = (w.core n).suspect ∧
        (t.core n).fenced = ((w.core n).fenced || (w.core n).toFence)) ∧
      ∀ k, (t.cup k).ctrs = (w.cup k).ctrs ∧ (t.cup k).log = (w.cup k).log ∧ (t.cup k).pos = (w.cup k).pos

/-- O59. The fifteen commands of the management ring: performed one at a time in ring order, by a Keep that runs, SUMMARY by
one that has halted too; one that finds another before it waits, and to a Keep that does not run none is there.  The model's
choices: STATUS 1 and 2 for operands and memory that R374 does not speak of (logs 9, 55, 65, 66, 67, 73), the words of
SUMMARY (18), SHA3-256 (105) and what a declared bag takes its stacks from (98). -/
def Obligations.ManagementCommands : Prop :=
  Claims.Settings ∧ Claims.Summary ∧ Claims.Reports ∧ Claims.Interventions ∧ Claims.GoesOn ∧
  ∀ (s : State) (i : Instr) (tag : BitVec 32) (c : Command), Claims.commandOf i = some (tag, c) → let w := s.settlePend
    (w.kstate ≠ 1 → (w.kstate = 3 → ∀ pa, c ≠ .summary pa) → exec i s = .next w) ∧
    (w.kstate = 1 → w.pend ≠ none ∨ w.cmds ≠ [] →
      exec i s = .next { w with ring := (w.ring.1, (w.ring.2 + 1) % 2 ^ 32), cmds := w.cmds ++ [(tag, c)] })
end

