-- ==== Sys2Proof/Laws/Memory.lean ====
section
/-! SUPPORT. Sparse tables and memories: what a read gives after a write, and that every operation keeps the canonical
form. -/

namespace Sys2Proof.Machine

variable {α : Type}

/-! ## Tables -/

@[simp] theorem kvGet_nil (d : α) (k : Nat) : kvGet d [] k = d := rfl

theorem kvGet_kvInsert (d v : α) (t : Kv α) (k j : Nat) :
    kvGet d (kvInsert t k v) j = if j = k then v else kvGet d t j := by
  induction t with
  | nil => simp [kvInsert, kvGet]
  | cons e t ih =>
    obtain ⟨k', v'⟩ := e
    by_cases h1 : k = k'
    · subst h1; by_cases h : j = k <;> simp [kvInsert, kvGet, h]
    · by_cases h2 : k < k'
      · by_cases h : j = k <;> simp [kvInsert, kvGet, h1, h2, h]
      · simp only [kvInsert, h1, h2, if_false, kvGet, ih]
        by_cases h : j = k'
        · subst h; simp [Ne.symm h1]
        · simp [h]

theorem kvGet_kvErase (d : α) (t : Kv α) (k j : Nat) :
    kvGet d (kvErase t k) j = if j = k then d else kvGet d t j := by
  induction t with
  | nil => simp [kvErase]
  | cons e t ih =>
    obtain ⟨k', v'⟩ := e
    by_cases h1 : k = k'
    · subst h1
      simp only [kvErase, if_true, ih, kvGet]
      by_cases h : j = k <;> simp [h]
    · simp only [kvErase, h1, if_false, kvGet, ih]
      by_cases h : j = k'
      · subst h; simp [Ne.symm h1]
      · simp [h]

/-- A read after a write of a table. -/
theorem kvGet_kvPut [DecidableEq α] (d v : α) (t : Kv α) (k j : Nat) :
    kvGet d (kvPut d t k v) j = if j = k then v else kvGet d t j := by
  unfold kvPut
  split
  · next h => rw [kvGet_kvErase, h]
  · exact kvGet_kvInsert ..

@[simp] theorem kvGet_kvPut_same [DecidableEq α] (d v : α) (t : Kv α) (k : Nat) : kvGet d (kvPut d t k v) k = v := by
  simp [kvGet_kvPut]

theorem kvGet_kvPut_other [DecidableEq α] (d v : α) (t : Kv α) {k j : Nat} (h : j ≠ k) :
    kvGet d (kvPut d t k v) j = kvGet d t j := by
  simp [kvGet_kvPut, h]

theorem kvSortedFrom_mono [DecidableEq α] (d : α) {lo lo' : Nat} (h : lo ≤ lo') {t : Kv α}
    (w : kvSortedFrom d lo' t = true) : kvSortedFrom d lo t = true := by
  cases t with
  | nil => rfl
  | cons e t =>
    obtain ⟨k, v⟩ := e
    simp only [kvSortedFrom, Bool.and_eq_true, decide_eq_true_eq] at w ⊢
    exact ⟨⟨Nat.le_trans h w.1.1, w.1.2⟩, w.2⟩

theorem kvSortedFrom_kvInsert [DecidableEq α] (d v : α) (hv : v ≠ d) (k : Nat) (t : Kv α) (lo : Nat) (hk : lo ≤ k)
    (w : kvSortedFrom d lo t = true) : kvSortedFrom d lo (kvInsert t k v) = true := by
  induction t generalizing lo with
  | nil => simp [kvInsert, kvSortedFrom, hk, hv]
  | cons e t ih =>
    obtain ⟨k', v'⟩ := e
    simp only [kvSortedFrom, Bool.and_eq_true, decide_eq_true_eq] at w
    by_cases h1 : k = k'
    · subst h1; simp [kvInsert, kvSortedFrom, hk, hv, w.2]
    · by_cases h2 : k < k'
      · simp [kvInsert, kvSortedFrom, h1, h2, hk, hv, w.1.2, w.2, Nat.succ_le_of_lt h2]
      · have : k' + 1 ≤ k := by omega
        simp [kvInsert, kvSortedFrom, h1, h2, w.1.1, w.1.2, ih (k' + 1) this w.2]

theorem kvSortedFrom_kvErase [DecidableEq α] (d : α) (k : Nat) (t : Kv α) (lo : Nat)
    (w : kvSortedFrom d lo t = true) : kvSortedFrom d lo (kvErase t k) = true := by
  induction t generalizing lo with
  | nil => rfl
  | cons e t ih =>
    obtain ⟨k', v'⟩ := e
    simp only [kvSortedFrom, Bool.and_eq_true, decide_eq_true_eq] at w
    by_cases h1 : k = k'
    · subst h1
      simp only [kvErase, if_true]
      exact ih lo (kvSortedFrom_mono d (by omega) w.2)
    · simp [kvErase, kvSortedFrom, h1, w.1.1, w.1.2, ih (k' + 1) w.2]

/-- Every write of a table keeps its canonical form. -/
theorem kvWf_kvPut [DecidableEq α] (d v : α) (t : Kv α) (k : Nat) (w : kvWf d t = true) : kvWf d (kvPut d t k v) = true := by
  unfold kvWf kvPut at *
  split
  · exact kvSortedFrom_kvErase d k t 0 w
  · next h => exact kvSortedFrom_kvInsert d v h k t 0 (Nat.zero_le _) w

theorem kvGet_below [DecidableEq α] (d : α) (t : Kv α) (lo j : Nat) (h : j < lo) (w : kvSortedFrom d lo t = true) :
    kvGet d t j = d := by
  induction t generalizing lo with
  | nil => rfl
  | cons e t ih =>
    obtain ⟨k, v⟩ := e
    simp only [kvSortedFrom, Bool.and_eq_true, decide_eq_true_eq] at w
    have : j ≠ k := by omega
    simp only [kvGet, this, if_false]
    exact ih (k + 1) (by omega) w.2

/-- Canonical tables that read the same are the same list. -/
theorem kvSortedFrom_ext [DecidableEq α] (d : α) (t u : Kv α) (lo : Nat) (wt : kvSortedFrom d lo t = true)
    (wu : kvSortedFrom d lo u = true) (h : ∀ j, kvGet d t j = kvGet d u j) : t = u := by
  induction t generalizing u lo with
  | nil =>
    cases u with
    | nil => rfl
    | cons e u =>
      obtain ⟨k, v⟩ := e
      simp only [kvSortedFrom, Bool.and_eq_true, decide_eq_true_eq] at wu
      have := h k
      simp [kvGet] at this
      exact absurd this.symm wu.1.2
  | cons e t ih =>
    obtain ⟨k, v⟩ := e
    simp only [kvSortedFrom, Bool.and_eq_true, decide_eq_true_eq] at wt
    cases u with
    | nil =>
      have := h k
      simp [kvGet] at this
      exact absurd this wt.1.2
    | cons f u =>
      obtain ⟨k', v'⟩ := f
      simp only [kvSortedFrom, Bool.and_eq_true, decide_eq_true_eq] at wu
      have hk : k = k' := by
        rcases Nat.lt_trichotomy k k' with hlt | heq | hlt
        · have := h k
          simp only [kvGet, if_true, Nat.ne_of_lt hlt, if_false] at this
          rw [kvGet_below d u (k' + 1) k (by omega) wu.2] at this
          exact absurd this wt.1.2
        · exact heq
        · have := h k'
          simp only [kvGet, if_true, Nat.ne_of_lt hlt, if_false] at this
          rw [kvGet_below d t (k + 1) k' (by omega) wt.2] at this
          exact absurd this.symm wu.1.2
      subst hk
      have hv : v = v' := by simpa [kvGet] using h k
      subst hv
      congr 1
      refine ih u (k + 1) wt.2 wu.2 fun j => ?_
      by_cases hj : j = k
      · subst hj
        rw [kvGet_below d t (j + 1) j (by omega) wt.2, kvGet_below d u (j + 1) j (by omega) wu.2]
      · have := h j
        simpa [kvGet, hj] using this

theorem kvWf_ext [DecidableEq α] (d : α) (t u : Kv α) (wt : kvWf d t = true) (wu : kvWf d u = true)
    (h : ∀ j, kvGet d t j = kvGet d u j) : t = u := kvSortedFrom_ext d t u 0 wt wu h

/-! ## Bytes -/

theorem readByte_writeByte (m : List Host.Cell) (a b : Nat) (v : Byte) :
    readByte (writeByte m a v) b = if b = a then v else readByte m b := kvGet_kvPut ..

theorem memWf_writeByte (m : List Host.Cell) (a : Nat) (v : Byte) (w : memWf m = true) : memWf (writeByte m a v) = true :=
  kvWf_kvPut unlisted v m a w

theorem memWf_writeBytes (bs : List Byte) (m : List Host.Cell) (a : Nat) (w : memWf m = true) :
    memWf (writeBytes m a bs) = true := by
  induction bs generalizing m a with
  | nil => exact w
  | cons b t ih => exact ih _ _ (memWf_writeByte m a b w)

/-- A read after a write of several bytes. -/
theorem readByte_writeBytes (bs : List Byte) (m : List Host.Cell) (a b : Nat) :
    readByte (writeBytes m a bs) b = if a ≤ b ∧ b < a + bs.length then bs.getD (b - a) 0 else readByte m b := by
  induction bs generalizing m a with
  | nil => simp [writeBytes] <;> omega
  | cons x t ih =>
    simp only [writeBytes, ih, readByte_writeByte, List.length_cons]
    by_cases h1 : b = a
    · subst h1; simp <;> omega
    · by_cases h2 : a + 1 ≤ b ∧ b < a + 1 + t.length
      · have h3 : a ≤ b ∧ b < a + (t.length + 1) := by omega
        have h4 : b - a = (b - (a + 1)) + 1 := by omega
        rw [if_pos h2, if_pos h3, h4]; rfl
      · have h3 : ¬(a ≤ b ∧ b < a + (t.length + 1)) := by omega
        rw [if_neg h2, if_neg h3, if_neg h1]

theorem memWf_writeMasked (m : List Host.Cell) (x : Nat) (mask : BitVec 8) (bs : List Byte) (n : Nat)
    (w : memWf m = true) : memWf (writeMasked m x mask bs n) = true := by
  induction n with
  | zero => exact w
  | succ n ih =>
    simp only [writeMasked]
    split
    · exact memWf_writeByte _ _ _ ih
    · exact ih

theorem memWf_writeDword (m : List Host.Cell) (x : Nat) (mask : BitVec 8) (v : W64) (w : memWf m = true) :
    memWf (writeDword m x mask v) = true := memWf_writeMasked m x mask _ 8 w

theorem readByte_writeMasked (m : List Host.Cell) (x : Nat) (mask : BitVec 8) (bs : List Byte) (n a : Nat) :
    readByte (writeMasked m x mask bs n) a =
      if x ≤ a ∧ a < x + n ∧ mask.getLsbD (a - x) = true then bs.getD (a - x) 0 else readByte m a := by
  induction n with
  | zero => simp [writeMasked]; omega
  | succ n ih =>
    simp only [writeMasked]
    by_cases hm : mask.getLsbD n = true
    · simp only [hm, if_true, readByte_writeByte, ih]
      by_cases h : a = x + n
      · subst h; simp [hm]
      · simp only [h, if_false]
        by_cases h2 : x ≤ a ∧ a < x + n ∧ mask.getLsbD (a - x) = true
        · have h3 : x ≤ a ∧ a < x + (n + 1) ∧ mask.getLsbD (a - x) = true := ⟨h2.1, by omega, h2.2.2⟩
          rw [if_pos h2, if_pos h3]
        · have h3 : ¬(x ≤ a ∧ a < x + (n + 1) ∧ mask.getLsbD (a - x) = true) := fun h3 => h2 ⟨h3.1, by omega, h3.2.2⟩
          rw [if_neg h2, if_neg h3]
    · rw [if_neg hm, ih]
      by_cases h2 : x ≤ a ∧ a < x + n ∧ mask.getLsbD (a - x) = true
      · rw [if_pos h2, if_pos ⟨h2.1, by omega, h2.2.2⟩]
      · rw [if_neg h2, if_neg]
        rintro ⟨p, q, r⟩
        refine h2 ⟨p, ?_, r⟩
        rcases Nat.lt_or_ge a (x + n) with h | h
        · exact h
        · have : a - x = n := by omega
          rw [this] at r; exact absurd r hm

/-- A masked write of a dword leaves every byte outside its mask as it was. -/
theorem readByte_writeDword_other (m : List Host.Cell) (x : Nat) (mask : BitVec 8) (v : W64) (a : Nat)
    (h : ¬(x ≤ a ∧ a < x + 8 ∧ mask.getLsbD (a - x) = true)) : readByte (writeDword m x mask v) a = readByte m a := by
  rw [writeDword, readByte_writeMasked, if_neg h]

/-! ## Views -/

theorem Views.wf_iff (v : Views) : v.wf = true ↔ memWf v.d0 = true ∧ memWf v.d1 = true ∧ memWf v.d2 = true ∧
    memWf v.d3 = true ∧ memWf v.h = true := by
  simp [Views.wf, and_assoc]

theorem Views.wf_get (v : Views) (e : Nat) (w : v.wf = true) : memWf (v.get e) = true := by
  rw [Views.wf_iff] at w
  simp only [Views.get]
  split
  · exact w.1
  split
  · exact w.2.1
  split
  · exact w.2.2.1
  split
  · exact w.2.2.2.1
  · exact w.2.2.2.2

theorem Views.wf_set (v : Views) (e : Nat) (m : List Host.Cell) (w : v.wf = true) (hm : memWf m = true) :
    (v.set e m).wf = true := by
  rw [Views.wf_iff] at w ⊢
  simp only [Views.set]
  split
  · exact ⟨hm, w.2⟩
  split
  · exact ⟨w.1, hm, w.2.2⟩
  split
  · exact ⟨w.1, w.2.1, hm, w.2.2.2⟩
  split
  · exact ⟨w.1, w.2.1, w.2.2.1, hm, w.2.2.2.2⟩
  · exact ⟨w.1, w.2.1, w.2.2.1, w.2.2.2.1, hm⟩

theorem Views.wf_all (v : Views) (f : List Host.Cell → List Host.Cell) (hf : ∀ m, memWf m = true → memWf (f m) = true)
    (w : v.wf = true) : (v.all f).wf = true := by
  rw [Views.wf_iff] at w ⊢
  exact ⟨hf _ w.1, hf _ w.2.1, hf _ w.2.2.1, hf _ w.2.2.2.1, hf _ w.2.2.2.2⟩

/-- A view after another was set. -/
theorem Views.get_set_same (v : Views) (e : Nat) (m : List Host.Cell) : (v.set e m).get e = m := by
  simp only [Views.set, Views.get]
  split
  · rfl
  split
  · rfl
  split
  · rfl
  split <;> rfl

theorem Views.get_set_other (v : Views) (e f : Nat) (m : List Host.Cell) (h : e ≠ f) (h4 : e < 4 ∨ f < 4) :
    (v.set e m).get f = v.get f := by
  simp only [Views.set, Views.get]
  repeat' split
  all_goals first | rfl | (exfalso; omega)

theorem setBitAll_wf (v : Views) (pa : Nat) (b : Byte) (w : v.wf = true) : (setBitAll v pa b).wf = true :=
  v.wf_all _ (fun m hm => memWf_writeByte m pa _ hm) w

theorem setBitAll_foldl_wf (b : Byte) (l : List Nat) (v : Views) (w : v.wf = true) :
    (l.foldl (fun v pa => setBitAll v pa b) v).wf = true := by
  induction l generalizing v with
  | nil => exact w
  | cons p t ih => exact ih _ (setBitAll_wf v p b w)

theorem markWalk_wf (s : State) (p : List Nat) (n : Need) (w : s.views.wf = true) : (s.markWalk p n).views.wf = true := by
  simp only [State.markWalk]
  have h := setBitAll_foldl_wf 0x80 p s.views w
  split
  · split
    · exact setBitAll_wf _ _ _ h
    · exact h
  · exact h

theorem markAll_wf (l : List (List Nat)) (s : State) (n : Need) (w : s.views.wf = true) :
    (s.markAll l n).views.wf = true := by
  induction l generalizing s with
  | nil => exact w
  | cons p t ih => exact ih (s.markWalk p n) (markWalk_wf s p n w)

theorem keepWrite_wf (s : State) (pa : Nat) (bs : List Byte) (w : s.views.wf = true) :
    (s.keepWrite pa bs).views.wf = true :=
  s.views.wf_all _ (fun m hm => memWf_writeBytes bs m pa hm) w

theorem stampApply_wf (s : State) (h x : Nat) (m : BitVec 8) (v : W64) (t : Option Nat) (w : s.views.wf = true) :
    (s.stampApply h x m v t).views.wf = true :=
  Views.wf_set _ _ _ w (memWf_writeDword _ _ _ _ (Views.wf_get _ _ w))

end Sys2Proof.Machine
end

