-- ==== Sys2Proof/Laws/PerInstr.lean ====
section
/-! SUPPORT. Statements about every instruction, one lemma per constructor. -/

set_option Elab.async false

namespace Sys2Proof.Laws.EncodeRange

/-- The encoder's word of an instruction has 32 bits. -/
def Statement (i : Instr) : Prop := encode i < 2 ^ 32

theorem clauseHeader (x0 : BitVec 4) (x1 : BitVec 4) (x2 : BitVec 12) (x3 : BitVec 4) (x4 : BitVec 4) (x5 : BitVec 1) : Statement (Instr.clauseHeader x0 x1 x2 x3 x4 x5) := by
  have := x0.isLt; have := x1.isLt; have := x2.isLt; have := x3.isLt; have := x4.isLt; have := x5.isLt; simp only [Statement, encode, word6]; omega
theorem rpt (x0 : BitVec 6) (x1 : BitVec 4) (x2 : BitVec 4) (x3 : BitVec 4) : Statement (Instr.rpt x0 x1 x2 x3) := by
  have := x0.isLt; have := x1.isLt; have := x2.isLt; have := x3.isLt; simp only [Statement, encode, word4]; omega
theorem bra (x0 : BitVec 25) : Statement (Instr.bra x0) := by
  have := x0.isLt; simp only [Statement, encode, word1]; omega
theorem bz (x0 : BitVec 9) (x1 : BitVec 16) : Statement (Instr.bz x0 x1) := by
  have := x0.isLt; have := x1.isLt; simp only [Statement, encode, word2]; omega
theorem bnz (x0 : BitVec 9) (x1 : BitVec 16) : Statement (Instr.bnz x0 x1) := by
  have := x0.isLt; have := x1.isLt; simp only [Statement, encode, word2]; omega
theorem bneg (x0 : BitVec 9) (x1 : BitVec 16) : Statement (Instr.bneg x0 x1) := by
  have := x0.isLt; have := x1.isLt; simp only [Statement, encode, word2]; omega
theorem bnneg (x0 : BitVec 9) (x1 : BitVec 16) : Statement (Instr.bnneg x0 x1) := by
  have := x0.isLt; have := x1.isLt; simp only [Statement, encode, word2]; omega
theorem bvz (x0 : BitVec 7) (x1 : BitVec 1) (x2 : BitVec 17) : Statement (Instr.bvz x0 x1 x2) := by
  have := x0.isLt; have := x1.isLt; have := x2.isLt; simp only [Statement, encode, word3]; omega
theorem bvnz (x0 : BitVec 7) (x1 : BitVec 1) (x2 : BitVec 17) : Statement (Instr.bvnz x0 x1 x2) := by
  have := x0.isLt; have := x1.isLt; have := x2.isLt; simp only [Statement, encode, word3]; omega
theorem call (x0 : BitVec 25) : Statement (Instr.call x0) := by
  have := x0.isLt; simp only [Statement, encode, word1]; omega
theorem callr (x0 : BitVec 9) : Statement (Instr.callr x0) := by
  have := x0.isLt; simp only [Statement, encode, word1]; omega
theorem jmpr (x0 : BitVec 9) (x1 : BitVec 16) : Statement (Instr.jmpr x0 x1) := by
  have := x0.isLt; have := x1.isLt; simp only [Statement, encode, word2]; omega
theorem ret : Statement Instr.ret := by unfold Statement; decide
theorem exit : Statement Instr.exit := by unfold Statement; decide
theorem vpark : Statement Instr.vpark := by unfold Statement; decide
theorem yield : Statement Instr.yield := by unfold Statement; decide
theorem trap (x0 : BitVec 9) (x1 : BitVec 7) : Statement (Instr.trap x0 x1) := by
  have := x0.isLt; have := x1.isLt; simp only [Statement, encode, word2]; omega
theorem rfe : Statement Instr.rfe := by unfold Statement; decide
theorem brk : Statement Instr.brk := by unfold Statement; decide
theorem sysrd (x0 : BitVec 9) (x1 : BitVec 7) : Statement (Instr.sysrd x0 x1) := by
  have := x0.isLt; have := x1.isLt; simp only [Statement, encode, word2]; omega
theorem syswr (x0 : BitVec 9) (x1 : BitVec 7) : Statement (Instr.syswr x0 x1) := by
  have := x0.isLt; have := x1.isLt; simp only [Statement, encode, word2]; omega
theorem fent (x0 : BitVec 2) (x1 : BitVec 10) (x2 : BitVec 9) : Statement (Instr.fent x0 x1 x2) := by
  have := x0.isLt; have := x1.isLt; have := x2.isLt; simp only [Statement, encode, word3]; omega
theorem fexit (x0 : BitVec 2) (x1 : BitVec 9) : Statement (Instr.fexit x0 x1) := by
  have := x0.isLt; have := x1.isLt; simp only [Statement, encode, word2]; omega
theorem fdisp (x0 : BitVec 2) (x1 : BitVec 9) : Statement (Instr.fdisp x0 x1) := by
  have := x0.isLt; have := x1.isLt; simp only [Statement, encode, word2]; omega
theorem fpub (x0 : BitVec 2) : Statement (Instr.fpub x0) := by
  have := x0.isLt; simp only [Statement, encode, word1]; omega
theorem pcvrd (x0 : BitVec 7) : Statement (Instr.pcvrd x0) := by
  have := x0.isLt; simp only [Statement, encode, word1]; omega
theorem pcvwr (x0 : BitVec 7) (x1 : BitVec 1) : Statement (Instr.pcvwr x0 x1) := by
  have := x0.isLt; have := x1.isLt; simp only [Statement, encode, word2]; omega
theorem trpv (x0 : BitVec 7) (x1 : BitVec 7) (x2 : BitVec 1) : Statement (Instr.trpv x0 x1 x2) := by
  have := x0.isLt; have := x1.isLt; have := x2.isLt; simp only [Statement, encode, word3]; omega
theorem add (x0 : BitVec 9) (x1 : BitVec 9) (x2 : BitVec 9) : Statement (Instr.add x0 x1 x2) := by
  have := x0.isLt; have := x1.isLt; have := x2.isLt; simp only [Statement, encode, word3]; omega
theorem sub (x0 : BitVec 9) (x1 : BitVec 9) (x2 : BitVec 9) : Statement (Instr.sub x0 x1 x2) := by
  have := x0.isLt; have := x1.isLt; have := x2.isLt; simp only [Statement, encode, word3]; omega
theorem mul (x0 : BitVec 9) (x1 : BitVec 9) (x2 : BitVec 9) : Statement (Instr.mul x0 x1 x2) := by
  have := x0.isLt; have := x1.isLt; have := x2.isLt; simp only [Statement, encode, word3]; omega
theorem mulh (x0 : BitVec 9) (x1 : BitVec 9) (x2 : BitVec 9) : Statement (Instr.mulh x0 x1 x2) := by
  have := x0.isLt; have := x1.isLt; have := x2.isLt; simp only [Statement, encode, word3]; omega
theorem mulhu (x0 : BitVec 9) (x1 : BitVec 9) (x2 : BitVec 9) : Statement (Instr.mulhu x0 x1 x2) := by
  have := x0.isLt; have := x1.isLt; have := x2.isLt; simp only [Statement, encode, word3]; omega
theorem div (x0 : BitVec 9) (x1 : BitVec 9) (x2 : BitVec 9) : Statement (Instr.div x0 x1 x2) := by
  have := x0.isLt; have := x1.isLt; have := x2.isLt; simp only [Statement, encode, word3]; omega
theorem divu (x0 : BitVec 9) (x1 : BitVec 9) (x2 : BitVec 9) : Statement (Instr.divu x0 x1 x2) := by
  have := x0.isLt; have := x1.isLt; have := x2.isLt; simp only [Statement, encode, word3]; omega
theorem rem (x0 : BitVec 9) (x1 : BitVec 9) (x2 : BitVec 9) : Statement (Instr.rem x0 x1 x2) := by
  have := x0.isLt; have := x1.isLt; have := x2.isLt; simp only [Statement, encode, word3]; omega
theorem remu (x0 : BitVec 9) (x1 : BitVec 9) (x2 : BitVec 9) : Statement (Instr.remu x0 x1 x2) := by
  have := x0.isLt; have := x1.isLt; have := x2.isLt; simp only [Statement, encode, word3]; omega
theorem and (x0 : BitVec 9) (x1 : BitVec 9) (x2 : BitVec 9) : Statement (Instr.and x0 x1 x2) := by
  have := x0.isLt; have := x1.isLt; have := x2.isLt; simp only [Statement, encode, word3]; omega
theorem or (x0 : BitVec 9) (x1 : BitVec 9) (x2 : BitVec 9) : Statement (Instr.or x0 x1 x2) := by
  have := x0.isLt; have := x1.isLt; have := x2.isLt; simp only [Statement, encode, word3]; omega
theorem xor (x0 : BitVec 9) (x1 : BitVec 9) (x2 : BitVec 9) : Statement (Instr.xor x0 x1 x2) := by
  have := x0.isLt; have := x1.isLt; have := x2.isLt; simp only [Statement, encode, word3]; omega
theorem andn (x0 : BitVec 9) (x1 : BitVec 9) (x2 : BitVec 9) : Statement (Instr.andn x0 x1 x2) := by
  have := x0.isLt; have := x1.isLt; have := x2.isLt; simp only [Statement, encode, word3]; omega
theorem shl (x0 : BitVec 9) (x1 : BitVec 9) (x2 : BitVec 9) : Statement (Instr.shl x0 x1 x2) := by
  have := x0.isLt; have := x1.isLt; have := x2.isLt; simp only [Statement, encode, word3]; omega
theorem shr (x0 : BitVec 9) (x1 : BitVec 9) (x2 : BitVec 9) : Statement (Instr.shr x0 x1 x2) := by
  have := x0.isLt; have := x1.isLt; have := x2.isLt; simp only [Statement, encode, word3]; omega
theorem sar (x0 : BitVec 9) (x1 : BitVec 9) (x2 : BitVec 9) : Statement (Instr.sar x0 x1 x2) := by
  have := x0.isLt; have := x1.isLt; have := x2.isLt; simp only [Statement, encode, word3]; omega
theorem rot (x0 : BitVec 9) (x1 : BitVec 9) (x2 : BitVec 9) : Statement (Instr.rot x0 x1 x2) := by
  have := x0.isLt; have := x1.isLt; have := x2.isLt; simp only [Statement, encode, word3]; omega
theorem min (x0 : BitVec 9) (x1 : BitVec 9) (x2 : BitVec 9) : Statement (Instr.min x0 x1 x2) := by
  have := x0.isLt; have := x1.isLt; have := x2.isLt; simp only [Statement, encode, word3]; omega
theorem max (x0 : BitVec 9) (x1 : BitVec 9) (x2 : BitVec 9) : Statement (Instr.max x0 x1 x2) := by
  have := x0.isLt; have := x1.isLt; have := x2.isLt; simp only [Statement, encode, word3]; omega
theorem minu (x0 : BitVec 9) (x1 : BitVec 9) (x2 : BitVec 9) : Statement (Instr.minu x0 x1 x2) := by
  have := x0.isLt; have := x1.isLt; have := x2.isLt; simp only [Statement, encode, word3]; omega
theorem maxu (x0 : BitVec 9) (x1 : BitVec 9) (x2 : BitVec 9) : Statement (Instr.maxu x0 x1 x2) := by
  have := x0.isLt; have := x1.isLt; have := x2.isLt; simp only [Statement, encode, word3]; omega
theorem slt (x0 : BitVec 9) (x1 : BitVec 9) (x2 : BitVec 9) : Statement (Instr.slt x0 x1 x2) := by
  have := x0.isLt; have := x1.isLt; have := x2.isLt; simp only [Statement, encode, word3]; omega
theorem sltu (x0 : BitVec 9) (x1 : BitVec 9) (x2 : BitVec 9) : Statement (Instr.sltu x0 x1 x2) := by
  have := x0.isLt; have := x1.isLt; have := x2.isLt; simp only [Statement, encode, word3]; omega
theorem seq (x0 : BitVec 9) (x1 : BitVec 9) (x2 : BitVec 9) : Statement (Instr.seq x0 x1 x2) := by
  have := x0.isLt; have := x1.isLt; have := x2.isLt; simp only [Statement, encode, word3]; omega
theorem sel (x0 : BitVec 9) (x1 : BitVec 9) (x2 : BitVec 9) : Statement (Instr.sel x0 x1 x2) := by
  have := x0.isLt; have := x1.isLt; have := x2.isLt; simp only [Statement, encode, word3]; omega
theorem clz (x0 : BitVec 9) (x1 : BitVec 9) : Statement (Instr.clz x0 x1) := by
  have := x0.isLt; have := x1.isLt; simp only [Statement, encode, word2]; omega
theorem ctz (x0 : BitVec 9) (x1 : BitVec 9) : Statement (Instr.ctz x0 x1) := by
  have := x0.isLt; have := x1.isLt; simp only [Statement, encode, word2]; omega
theorem popc (x0 : BitVec 9) (x1 : BitVec 9) : Statement (Instr.popc x0 x1) := by
  have := x0.isLt; have := x1.isLt; simp only [Statement, encode, word2]; omega
theorem addi (x0 : BitVec 9) (x1 : BitVec 9) (x2 : BitVec 9) : Statement (Instr.addi x0 x1 x2) := by
  have := x0.isLt; have := x1.isLt; have := x2.isLt; simp only [Statement, encode, word3]; omega
theorem andi (x0 : BitVec 9) (x1 : BitVec 9) (x2 : BitVec 9) : Statement (Instr.andi x0 x1 x2) := by
  have := x0.isLt; have := x1.isLt; have := x2.isLt; simp only [Statement, encode, word3]; omega
theorem ori (x0 : BitVec 9) (x1 : BitVec 9) (x2 : BitVec 9) : Statement (Instr.ori x0 x1 x2) := by
  have := x0.isLt; have := x1.isLt; have := x2.isLt; simp only [Statement, encode, word3]; omega
theorem xori (x0 : BitVec 9) (x1 : BitVec 9) (x2 : BitVec 9) : Statement (Instr.xori x0 x1 x2) := by
  have := x0.isLt; have := x1.isLt; have := x2.isLt; simp only [Statement, encode, word3]; omega
theorem shli (x0 : BitVec 9) (x1 : BitVec 9) (x2 : BitVec 9) : Statement (Instr.shli x0 x1 x2) := by
  have := x0.isLt; have := x1.isLt; have := x2.isLt; simp only [Statement, encode, word3]; omega
theorem shri (x0 : BitVec 9) (x1 : BitVec 9) (x2 : BitVec 9) : Statement (Instr.shri x0 x1 x2) := by
  have := x0.isLt; have := x1.isLt; have := x2.isLt; simp only [Statement, encode, word3]; omega
theorem sari (x0 : BitVec 9) (x1 : BitVec 9) (x2 : BitVec 9) : Statement (Instr.sari x0 x1 x2) := by
  have := x0.isLt; have := x1.isLt; have := x2.isLt; simp only [Statement, encode, word3]; omega
theorem slti (x0 : BitVec 9) (x1 : BitVec 9) (x2 : BitVec 9) : Statement (Instr.slti x0 x1 x2) := by
  have := x0.isLt; have := x1.isLt; have := x2.isLt; simp only [Statement, encode, word3]; omega
theorem sltui (x0 : BitVec 9) (x1 : BitVec 9) (x2 : BitVec 9) : Statement (Instr.sltui x0 x1 x2) := by
  have := x0.isLt; have := x1.isLt; have := x2.isLt; simp only [Statement, encode, word3]; omega
theorem seqi (x0 : BitVec 9) (x1 : BitVec 9) (x2 : BitVec 9) : Statement (Instr.seqi x0 x1 x2) := by
  have := x0.isLt; have := x1.isLt; have := x2.isLt; simp only [Statement, encode, word3]; omega
theorem muli (x0 : BitVec 9) (x1 : BitVec 9) (x2 : BitVec 9) : Statement (Instr.muli x0 x1 x2) := by
  have := x0.isLt; have := x1.isLt; have := x2.isLt; simp only [Statement, encode, word3]; omega
theorem movi (x0 : BitVec 9) (x1 : BitVec 18) : Statement (Instr.movi x0 x1) := by
  have := x0.isLt; have := x1.isLt; simp only [Statement, encode, word2]; omega
theorem movhi (x0 : BitVec 9) (x1 : BitVec 18) : Statement (Instr.movhi x0 x1) := by
  have := x0.isLt; have := x1.isLt; simp only [Statement, encode, word2]; omega
theorem ldpc (x0 : BitVec 9) (x1 : BitVec 18) : Statement (Instr.ldpc x0 x1) := by
  have := x0.isLt; have := x1.isLt; simp only [Statement, encode, word2]; omega
theorem vadd (x0 : BitVec 7) (x1 : BitVec 7) (x2 : BitVec 7) (x3 : BitVec 1) (x4 : BitVec 1) (x5 : BitVec 2) : Statement (Instr.vadd x0 x1 x2 x3 x4 x5) := by
  have := x0.isLt; have := x1.isLt; have := x2.isLt; have := x3.isLt; have := x4.isLt; have := x5.isLt; simp only [Statement, encode, word6]; omega
theorem vsub (x0 : BitVec 7) (x1 : BitVec 7) (x2 : BitVec 7) (x3 : BitVec 1) (x4 : BitVec 1) (x5 : BitVec 2) : Statement (Instr.vsub x0 x1 x2 x3 x4 x5) := by
  have := x0.isLt; have := x1.isLt; have := x2.isLt; have := x3.isLt; have := x4.isLt; have := x5.isLt; simp only [Statement, encode, word6]; omega
theorem vaddss (x0 : BitVec 7) (x1 : BitVec 7) (x2 : BitVec 7) (x3 : BitVec 1) (x4 : BitVec 1) (x5 : BitVec 2) : Statement (Instr.vaddss x0 x1 x2 x3 x4 x5) := by
  have := x0.isLt; have := x1.isLt; have := x2.isLt; have := x3.isLt; have := x4.isLt; have := x5.isLt; simp only [Statement, encode, word6]; omega
theorem vaddsu (x0 : BitVec 7) (x1 : BitVec 7) (x2 : BitVec 7) (x3 : BitVec 1) (x4 : BitVec 1) (x5 : BitVec 2) : Statement (Instr.vaddsu x0 x1 x2 x3 x4 x5) := by
  have := x0.isLt; have := x1.isLt; have := x2.isLt; have := x3.isLt; have := x4.isLt; have := x5.isLt; simp only [Statement, encode, word6]; omega
theorem vsubss (x0 : BitVec 7) (x1 : BitVec 7) (x2 : BitVec 7) (x3 : BitVec 1) (x4 : BitVec 1) (x5 : BitVec 2) : Statement (Instr.vsubss x0 x1 x2 x3 x4 x5) := by
  have := x0.isLt; have := x1.isLt; have := x2.isLt; have := x3.isLt; have := x4.isLt; have := x5.isLt; simp only [Statement, encode, word6]; omega
theorem vsubsu (x0 : BitVec 7) (x1 : BitVec 7) (x2 : BitVec 7) (x3 : BitVec 1) (x4 : BitVec 1) (x5 : BitVec 2) : Statement (Instr.vsubsu x0 x1 x2 x3 x4 x5) := by
  have := x0.isLt; have := x1.isLt; have := x2.isLt; have := x3.isLt; have := x4.isLt; have := x5.isLt; simp only [Statement, encode, word6]; omega
theorem vmul (x0 : BitVec 7) (x1 : BitVec 7) (x2 : BitVec 7) (x3 : BitVec 1) (x4 : BitVec 1) (x5 : BitVec 2) : Statement (Instr.vmul x0 x1 x2 x3 x4 x5) := by
  have := x0.isLt; have := x1.isLt; have := x2.isLt; have := x3.isLt; have := x4.isLt; have := x5.isLt; simp only [Statement, encode, word6]; omega
theorem vmulh (x0 : BitVec 7) (x1 : BitVec 7) (x2 : BitVec 7) (x3 : BitVec 1) (x4 : BitVec 1) (x5 : BitVec 2) : Statement (Instr.vmulh x0 x1 x2 x3 x4 x5) := by
  have := x0.isLt; have := x1.isLt; have := x2.isLt; have := x3.isLt; have := x4.isLt; have := x5.isLt; simp only [Statement, encode, word6]; omega
theorem vmulhu (x0 : BitVec 7) (x1 : BitVec 7) (x2 : BitVec 7) (x3 : BitVec 1) (x4 : BitVec 1) (x5 : BitVec 2) : Statement (Instr.vmulhu x0 x1 x2 x3 x4 x5) := by
  have := x0.isLt; have := x1.isLt; have := x2.isLt; have := x3.isLt; have := x4.isLt; have := x5.isLt; simp only [Statement, encode, word6]; omega
theorem vmad (x0 : BitVec 7) (x1 : BitVec 7) (x2 : BitVec 7) (x3 : BitVec 1) (x4 : BitVec 1) (x5 : BitVec 2) : Statement (Instr.vmad x0 x1 x2 x3 x4 x5) := by
  have := x0.isLt; have := x1.isLt; have := x2.isLt; have := x3.isLt; have := x4.isLt; have := x5.isLt; simp only [Statement, encode, word6]; omega
theorem vmin (x0 : BitVec 7) (x1 : BitVec 7) (x2 : BitVec 7) (x3 : BitVec 1) (x4 : BitVec 1) (x5 : BitVec 2) : Statement (Instr.vmin x0 x1 x2 x3 x4 x5) := by
  have := x0.isLt; have := x1.isLt; have := x2.isLt; have := x3.isLt; have := x4.isLt; have := x5.isLt; simp only [Statement, encode, word6]; omega
theorem vmax (x0 : BitVec 7) (x1 : BitVec 7) (x2 : BitVec 7) (x3 : BitVec 1) (x4 : BitVec 1) (x5 : BitVec 2) : Statement (Instr.vmax x0 x1 x2 x3 x4 x5) := by
  have := x0.isLt; have := x1.isLt; have := x2.isLt; have := x3.isLt; have := x4.isLt; have := x5.isLt; simp only [Statement, encode, word6]; omega
theorem vminu (x0 : BitVec 7) (x1 : BitVec 7) (x2 : BitVec 7) (x3 : BitVec 1) (x4 : BitVec 1) (x5 : BitVec 2) : Statement (Instr.vminu x0 x1 x2 x3 x4 x5) := by
  have := x0.isLt; have := x1.isLt; have := x2.isLt; have := x3.isLt; have := x4.isLt; have := x5.isLt; simp only [Statement, encode, word6]; omega
theorem vmaxu (x0 : BitVec 7) (x1 : BitVec 7) (x2 : BitVec 7) (x3 : BitVec 1) (x4 : BitVec 1) (x5 : BitVec 2) : Statement (Instr.vmaxu x0 x1 x2 x3 x4 x5) := by
  have := x0.isLt; have := x1.isLt; have := x2.isLt; have := x3.isLt; have := x4.isLt; have := x5.isLt; simp only [Statement, encode, word6]; omega
theorem vand (x0 : BitVec 7) (x1 : BitVec 7) (x2 : BitVec 7) (x3 : BitVec 1) (x4 : BitVec 1) (x5 : BitVec 2) : Statement (Instr.vand x0 x1 x2 x3 x4 x5) := by
  have := x0.isLt; have := x1.isLt; have := x2.isLt; have := x3.isLt; have := x4.isLt; have := x5.isLt; simp only [Statement, encode, word6]; omega
theorem vor (x0 : BitVec 7) (x1 : BitVec 7) (x2 : BitVec 7) (x3 : BitVec 1) (x4 : BitVec 1) (x5 : BitVec 2) : Statement (Instr.vor x0 x1 x2 x3 x4 x5) := by
  have := x0.isLt; have := x1.isLt; have := x2.isLt; have := x3.isLt; have := x4.isLt; have := x5.isLt; simp only [Statement, encode, word6]; omega
theorem vxor (x0 : BitVec 7) (x1 : BitVec 7) (x2 : BitVec 7) (x3 : BitVec 1) (x4 : BitVec 1) (x5 : BitVec 2) : Statement (Instr.vxor x0 x1 x2 x3 x4 x5) := by
  have := x0.isLt; have := x1.isLt; have := x2.isLt; have := x3.isLt; have := x4.isLt; have := x5.isLt; simp only [Statement, encode, word6]; omega
theorem vandn (x0 : BitVec 7) (x1 : BitVec 7) (x2 : BitVec 7) (x3 : BitVec 1) (x4 : BitVec 1) (x5 : BitVec 2) : Statement (Instr.vandn x0 x1 x2 x3 x4 x5) := by
  have := x0.isLt; have := x1.isLt; have := x2.isLt; have := x3.isLt; have := x4.isLt; have := x5.isLt; simp only [Statement, encode, word6]; omega
theorem vshl (x0 : BitVec 7) (x1 : BitVec 7) (x2 : BitVec 7) (x3 : BitVec 1) (x4 : BitVec 1) (x5 : BitVec 2) : Statement (Instr.vshl x0 x1 x2 x3 x4 x5) := by
  have := x0.isLt; have := x1.isLt; have := x2.isLt; have := x3.isLt; have := x4.isLt; have := x5.isLt; simp only [Statement, encode, word6]; omega
theorem vshr (x0 : BitVec 7) (x1 : BitVec 7) (x2 : BitVec 7) (x3 : BitVec 1) (x4 : BitVec 1) (x5 : BitVec 2) : Statement (Instr.vshr x0 x1 x2 x3 x4 x5) := by
  have := x0.isLt; have := x1.isLt; have := x2.isLt; have := x3.isLt; have := x4.isLt; have := x5.isLt; simp only [Statement, encode, word6]; omega
theorem vsar (x0 : BitVec 7) (x1 : BitVec 7) (x2 : BitVec 7) (x3 : BitVec 1) (x4 : BitVec 1) (x5 : BitVec 2) : Statement (Instr.vsar x0 x1 x2 x3 x4 x5) := by
  have := x0.isLt; have := x1.isLt; have := x2.isLt; have := x3.isLt; have := x4.isLt; have := x5.isLt; simp only [Statement, encode, word6]; omega
theorem vrot (x0 : BitVec 7) (x1 : BitVec 7) (x2 : BitVec 7) (x3 : BitVec 1) (x4 : BitVec 1) (x5 : BitVec 2) : Statement (Instr.vrot x0 x1 x2 x3 x4 x5) := by
  have := x0.isLt; have := x1.isLt; have := x2.isLt; have := x3.isLt; have := x4.isLt; have := x5.isLt; simp only [Statement, encode, word6]; omega
theorem vceq (x0 : BitVec 7) (x1 : BitVec 7) (x2 : BitVec 7) (x3 : BitVec 1) (x4 : BitVec 1) (x5 : BitVec 2) : Statement (Instr.vceq x0 x1 x2 x3 x4 x5) := by
  have := x0.isLt; have := x1.isLt; have := x2.isLt; have := x3.isLt; have := x4.isLt; have := x5.isLt; simp only [Statement, encode, word6]; omega
theorem vclt (x0 : BitVec 7) (x1 : BitVec 7) (x2 : BitVec 7) (x3 : BitVec 1) (x4 : BitVec 1) (x5 : BitVec 2) : Statement (Instr.vclt x0 x1 x2 x3 x4 x5) := by
  have := x0.isLt; have := x1.isLt; have := x2.isLt; have := x3.isLt; have := x4.isLt; have := x5.isLt; simp only [Statement, encode, word6]; omega
theorem vcltu (x0 : BitVec 7) (x1 : BitVec 7) (x2 : BitVec 7) (x3 : BitVec 1) (x4 : BitVec 1) (x5 : BitVec 2) : Statement (Instr.vcltu x0 x1 x2 x3 x4 x5) := by
  have := x0.isLt; have := x1.isLt; have := x2.isLt; have := x3.isLt; have := x4.isLt; have := x5.isLt; simp only [Statement, encode, word6]; omega
theorem vsel (x0 : BitVec 7) (x1 : BitVec 7) (x2 : BitVec 7) (x3 : BitVec 1) (x4 : BitVec 1) (x5 : BitVec 2) : Statement (Instr.vsel x0 x1 x2 x3 x4 x5) := by
  have := x0.isLt; have := x1.isLt; have := x2.isLt; have := x3.isLt; have := x4.isLt; have := x5.isLt; simp only [Statement, encode, word6]; omega
theorem vclz (x0 : BitVec 7) (x1 : BitVec 7) (x2 : BitVec 1) (x3 : BitVec 2) : Statement (Instr.vclz x0 x1 x2 x3) := by
  have := x0.isLt; have := x1.isLt; have := x2.isLt; have := x3.isLt; simp only [Statement, encode, word4]; omega
theorem vpopc (x0 : BitVec 7) (x1 : BitVec 7) (x2 : BitVec 1) (x3 : BitVec 2) : Statement (Instr.vpopc x0 x1 x2 x3) := by
  have := x0.isLt; have := x1.isLt; have := x2.isLt; have := x3.isLt; simp only [Statement, encode, word4]; omega
theorem vabs (x0 : BitVec 7) (x1 : BitVec 7) (x2 : BitVec 1) (x3 : BitVec 2) : Statement (Instr.vabs x0 x1 x2 x3) := by
  have := x0.isLt; have := x1.isLt; have := x2.isLt; have := x3.isLt; simp only [Statement, encode, word4]; omega
theorem vdot4 (x0 : BitVec 7) (x1 : BitVec 7) (x2 : BitVec 7) (x3 : BitVec 1) (x4 : BitVec 1) : Statement (Instr.vdot4 x0 x1 x2 x3 x4) := by
  have := x0.isLt; have := x1.isLt; have := x2.isLt; have := x3.isLt; have := x4.isLt; simp only [Statement, encode, word5]; omega
theorem vmov (x0 : BitVec 7) (x1 : BitVec 7) (x2 : BitVec 1) (x3 : BitVec 2) : Statement (Instr.vmov x0 x1 x2 x3) := by
  have := x0.isLt; have := x1.isLt; have := x2.isLt; have := x3.isLt; simp only [Statement, encode, word4]; omega
theorem vwiden (x0 : BitVec 7) (x1 : BitVec 7) (x2 : BitVec 1) (x3 : BitVec 2) : Statement (Instr.vwiden x0 x1 x2 x3) := by
  have := x0.isLt; have := x1.isLt; have := x2.isLt; have := x3.isLt; simp only [Statement, encode, word4]; omega
theorem vnarrow (x0 : BitVec 7) (x1 : BitVec 7) (x2 : BitVec 1) (x3 : BitVec 2) : Statement (Instr.vnarrow x0 x1 x2 x3) := by
  have := x0.isLt; have := x1.isLt; have := x2.isLt; have := x3.isLt; simp only [Statement, encode, word4]; omega
theorem vlid (x0 : BitVec 7) (x1 : BitVec 2) : Statement (Instr.vlid x0 x1) := by
  have := x0.isLt; have := x1.isLt; simp only [Statement, encode, word2]; omega
theorem vaddi (x0 : BitVec 7) (x1 : BitVec 7) (x2 : BitVec 8) (x3 : BitVec 1) (x4 : BitVec 2) : Statement (Instr.vaddi x0 x1 x2 x3 x4) := by
  have := x0.isLt; have := x1.isLt; have := x2.isLt; have := x3.isLt; have := x4.isLt; simp only [Statement, encode, word5]; omega
theorem vshli (x0 : BitVec 7) (x1 : BitVec 7) (x2 : BitVec 8) (x3 : BitVec 1) (x4 : BitVec 2) : Statement (Instr.vshli x0 x1 x2 x3 x4) := by
  have := x0.isLt; have := x1.isLt; have := x2.isLt; have := x3.isLt; have := x4.isLt; simp only [Statement, encode, word5]; omega
theorem vshri (x0 : BitVec 7) (x1 : BitVec 7) (x2 : BitVec 8) (x3 : BitVec 1) (x4 : BitVec 2) : Statement (Instr.vshri x0 x1 x2 x3 x4) := by
  have := x0.isLt; have := x1.isLt; have := x2.isLt; have := x3.isLt; have := x4.isLt; simp only [Statement, encode, word5]; omega
theorem vsari (x0 : BitVec 7) (x1 : BitVec 7) (x2 : BitVec 8) (x3 : BitVec 1) (x4 : BitVec 2) : Statement (Instr.vsari x0 x1 x2 x3 x4) := by
  have := x0.isLt; have := x1.isLt; have := x2.isLt; have := x3.isLt; have := x4.isLt; simp only [Statement, encode, word5]; omega
theorem vandi (x0 : BitVec 7) (x1 : BitVec 7) (x2 : BitVec 8) (x3 : BitVec 1) (x4 : BitVec 2) : Statement (Instr.vandi x0 x1 x2 x3 x4) := by
  have := x0.isLt; have := x1.isLt; have := x2.isLt; have := x3.isLt; have := x4.isLt; simp only [Statement, encode, word5]; omega
theorem vmovi (x0 : BitVec 7) (x1 : BitVec 8) (x2 : BitVec 2) : Statement (Instr.vmovi x0 x1 x2) := by
  have := x0.isLt; have := x1.isLt; have := x2.isLt; simp only [Statement, encode, word3]; omega
theorem vceqi (x0 : BitVec 7) (x1 : BitVec 7) (x2 : BitVec 8) (x3 : BitVec 1) (x4 : BitVec 2) : Statement (Instr.vceqi x0 x1 x2 x3 x4) := by
  have := x0.isLt; have := x1.isLt; have := x2.isLt; have := x3.isLt; have := x4.isLt; simp only [Statement, encode, word5]; omega
theorem vaddS (x0 : BitVec 7) (x1 : BitVec 7) (x2 : BitVec 8) (x3 : BitVec 1) (x4 : BitVec 2) : Statement (Instr.vaddS x0 x1 x2 x3 x4) := by
  have := x0.isLt; have := x1.isLt; have := x2.isLt; have := x3.isLt; have := x4.isLt; simp only [Statement, encode, word5]; omega
theorem vsubS (x0 : BitVec 7) (x1 : BitVec 7) (x2 : BitVec 8) (x3 : BitVec 1) (x4 : BitVec 2) : Statement (Instr.vsubS x0 x1 x2 x3 x4) := by
  have := x0.isLt; have := x1.isLt; have := x2.isLt; have := x3.isLt; have := x4.isLt; simp only [Statement, encode, word5]; omega
theorem vmulS (x0 : BitVec 7) (x1 : BitVec 7) (x2 : BitVec 8) (x3 : BitVec 1) (x4 : BitVec 2) : Statement (Instr.vmulS x0 x1 x2 x3 x4) := by
  have := x0.isLt; have := x1.isLt; have := x2.isLt; have := x3.isLt; have := x4.isLt; simp only [Statement, encode, word5]; omega
theorem vminS (x0 : BitVec 7) (x1 : BitVec 7) (x2 : BitVec 8) (x3 : BitVec 1) (x4 : BitVec 2) : Statement (Instr.vminS x0 x1 x2 x3 x4) := by
  have := x0.isLt; have := x1.isLt; have := x2.isLt; have := x3.isLt; have := x4.isLt; simp only [Statement, encode, word5]; omega
theorem vmaxS (x0 : BitVec 7) (x1 : BitVec 7) (x2 : BitVec 8) (x3 : BitVec 1) (x4 : BitVec 2) : Statement (Instr.vmaxS x0 x1 x2 x3 x4) := by
  have := x0.isLt; have := x1.isLt; have := x2.isLt; have := x3.isLt; have := x4.isLt; simp only [Statement, encode, word5]; omega
theorem vandS (x0 : BitVec 7) (x1 : BitVec 7) (x2 : BitVec 8) (x3 : BitVec 1) (x4 : BitVec 2) : Statement (Instr.vandS x0 x1 x2 x3 x4) := by
  have := x0.isLt; have := x1.isLt; have := x2.isLt; have := x3.isLt; have := x4.isLt; simp only [Statement, encode, word5]; omega
theorem vmovS (x0 : BitVec 7) (x1 : BitVec 8) (x2 : BitVec 2) : Statement (Instr.vmovS x0 x1 x2) := by
  have := x0.isLt; have := x1.isLt; have := x2.isLt; simp only [Statement, encode, word3]; omega
theorem vceqS (x0 : BitVec 7) (x1 : BitVec 7) (x2 : BitVec 8) (x3 : BitVec 1) (x4 : BitVec 2) : Statement (Instr.vceqS x0 x1 x2 x3 x4) := by
  have := x0.isLt; have := x1.isLt; have := x2.isLt; have := x3.isLt; have := x4.isLt; simp only [Statement, encode, word5]; omega
theorem vcltS (x0 : BitVec 7) (x1 : BitVec 7) (x2 : BitVec 8) (x3 : BitVec 1) (x4 : BitVec 2) : Statement (Instr.vcltS x0 x1 x2 x3 x4) := by
  have := x0.isLt; have := x1.isLt; have := x2.isLt; have := x3.isLt; have := x4.isLt; simp only [Statement, encode, word5]; omega
theorem faddF32 (x0 : BitVec 7) (x1 : BitVec 7) (x2 : BitVec 7) (x3 : BitVec 1) (x4 : BitVec 1) (x5 : BitVec 1) (x6 : BitVec 1) : Statement (Instr.faddF32 x0 x1 x2 x3 x4 x5 x6) := by
  have := x0.isLt; have := x1.isLt; have := x2.isLt; have := x3.isLt; have := x4.isLt; have := x5.isLt; have := x6.isLt; simp only [Statement, encode, word7]; omega
theorem fsubF32 (x0 : BitVec 7) (x1 : BitVec 7) (x2 : BitVec 7) (x3 : BitVec 1) (x4 : BitVec 1) (x5 : BitVec 1) (x6 : BitVec 1) : Statement (Instr.fsubF32 x0 x1 x2 x3 x4 x5 x6) := by
  have := x0.isLt; have := x1.isLt; have := x2.isLt; have := x3.isLt; have := x4.isLt; have := x5.isLt; have := x6.isLt; simp only [Statement, encode, word7]; omega
theorem fmulF32 (x0 : BitVec 7) (x1 : BitVec 7) (x2 : BitVec 7) (x3 : BitVec 1) (x4 : BitVec 1) (x5 : BitVec 1) (x6 : BitVec 1) : Statement (Instr.fmulF32 x0 x1 x2 x3 x4 x5 x6) := by
  have := x0.isLt; have := x1.isLt; have := x2.isLt; have := x3.isLt; have := x4.isLt; have := x5.isLt; have := x6.isLt; simp only [Statement, encode, word7]; omega
theorem ffmaF32 (x0 : BitVec 7) (x1 : BitVec 7) (x2 : BitVec 7) (x3 : BitVec 1) (x4 : BitVec 1) (x5 : BitVec 1) (x6 : BitVec 1) : Statement (Instr.ffmaF32 x0 x1 x2 x3 x4 x5 x6) := by
  have := x0.isLt; have := x1.isLt; have := x2.isLt; have := x3.isLt; have := x4.isLt; have := x5.isLt; have := x6.isLt; simp only [Statement, encode, word7]; omega
theorem ffmsF32 (x0 : BitVec 7) (x1 : BitVec 7) (x2 : BitVec 7) (x3 : BitVec 1) (x4 : BitVec 1) (x5 : BitVec 1) (x6 : BitVec 1) : Statement (Instr.ffmsF32 x0 x1 x2 x3 x4 x5 x6) := by
  have := x0.isLt; have := x1.isLt; have := x2.isLt; have := x3.isLt; have := x4.isLt; have := x5.isLt; have := x6.isLt; simp only [Statement, encode, word7]; omega
theorem fminF32 (x0 : BitVec 7) (x1 : BitVec 7) (x2 : BitVec 7) (x3 : BitVec 1) (x4 : BitVec 1) (x5 : BitVec 1) (x6 : BitVec 1) : Statement (Instr.fminF32 x0 x1 x2 x3 x4 x5 x6) := by
  have := x0.isLt; have := x1.isLt; have := x2.isLt; have := x3.isLt; have := x4.isLt; have := x5.isLt; have := x6.isLt; simp only [Statement, encode, word7]; omega
theorem fmaxF32 (x0 : BitVec 7) (x1 : BitVec 7) (x2 : BitVec 7) (x3 : BitVec 1) (x4 : BitVec 1) (x5 : BitVec 1) (x6 : BitVec 1) : Statement (Instr.fmaxF32 x0 x1 x2 x3 x4 x5 x6) := by
  have := x0.isLt; have := x1.isLt; have := x2.isLt; have := x3.isLt; have := x4.isLt; have := x5.isLt; have := x6.isLt; simp only [Statement, encode, word7]; omega
theorem fabsF32 (x0 : BitVec 7) (x1 : BitVec 7) (x2 : BitVec 1) (x3 : BitVec 1) : Statement (Instr.fabsF32 x0 x1 x2 x3) := by
  have := x0.isLt; have := x1.isLt; have := x2.isLt; have := x3.isLt; simp only [Statement, encode, word4]; omega
theorem fnegF32 (x0 : BitVec 7) (x1 : BitVec 7) (x2 : BitVec 1) (x3 : BitVec 1) : Statement (Instr.fnegF32 x0 x1 x2 x3) := by
  have := x0.isLt; have := x1.isLt; have := x2.isLt; have := x3.isLt; simp only [Statement, encode, word4]; omega
theorem fceqF32 (x0 : BitVec 7) (x1 : BitVec 7) (x2 : BitVec 7) (x3 : BitVec 1) (x4 : BitVec 1) (x5 : BitVec 1) (x6 : BitVec 1) : Statement (Instr.fceqF32 x0 x1 x2 x3 x4 x5 x6) := by
  have := x0.isLt; have := x1.isLt; have := x2.isLt; have := x3.isLt; have := x4.isLt; have := x5.isLt; have := x6.isLt; simp only [Statement, encode, word7]; omega
theorem fcltF32 (x0 : BitVec 7) (x1 : BitVec 7) (x2 : BitVec 7) (x3 : BitVec 1) (x4 : BitVec 1) (x5 : BitVec 1) (x6 : BitVec 1) : Statement (Instr.fcltF32 x0 x1 x2 x3 x4 x5 x6) := by
  have := x0.isLt; have := x1.isLt; have := x2.isLt; have := x3.isLt; have := x4.isLt; have := x5.isLt; have := x6.isLt; simp only [Statement, encode, word7]; omega
theorem fcleF32 (x0 : BitVec 7) (x1 : BitVec 7) (x2 : BitVec 7) (x3 : BitVec 1) (x4 : BitVec 1) (x5 : BitVec 1) (x6 : BitVec 1) : Statement (Instr.fcleF32 x0 x1 x2 x3 x4 x5 x6) := by
  have := x0.isLt; have := x1.isLt; have := x2.isLt; have := x3.isLt; have := x4.isLt; have := x5.isLt; have := x6.isLt; simp only [Statement, encode, word7]; omega
theorem faddBf16 (x0 : BitVec 7) (x1 : BitVec 7) (x2 : BitVec 7) (x3 : BitVec 1) (x4 : BitVec 1) (x5 : BitVec 1) (x6 : BitVec 1) : Statement (Instr.faddBf16 x0 x1 x2 x3 x4 x5 x6) := by
  have := x0.isLt; have := x1.isLt; have := x2.isLt; have := x3.isLt; have := x4.isLt; have := x5.isLt; have := x6.isLt; simp only [Statement, encode, word7]; omega
theorem fmulBf16 (x0 : BitVec 7) (x1 : BitVec 7) (x2 : BitVec 7) (x3 : BitVec 1) (x4 : BitVec 1) (x5 : BitVec 1) (x6 : BitVec 1) : Statement (Instr.fmulBf16 x0 x1 x2 x3 x4 x5 x6) := by
  have := x0.isLt; have := x1.isLt; have := x2.isLt; have := x3.isLt; have := x4.isLt; have := x5.isLt; have := x6.isLt; simp only [Statement, encode, word7]; omega
theorem ffmaBf16 (x0 : BitVec 7) (x1 : BitVec 7) (x2 : BitVec 7) (x3 : BitVec 1) (x4 : BitVec 1) (x5 : BitVec 1) (x6 : BitVec 1) : Statement (Instr.ffmaBf16 x0 x1 x2 x3 x4 x5 x6) := by
  have := x0.isLt; have := x1.isLt; have := x2.isLt; have := x3.isLt; have := x4.isLt; have := x5.isLt; have := x6.isLt; simp only [Statement, encode, word7]; omega
theorem fdot2Bf16 (x0 : BitVec 7) (x1 : BitVec 7) (x2 : BitVec 7) (x3 : BitVec 1) (x4 : BitVec 1) (x5 : BitVec 1) (x6 : BitVec 1) : Statement (Instr.fdot2Bf16 x0 x1 x2 x3 x4 x5 x6) := by
  have := x0.isLt; have := x1.isLt; have := x2.isLt; have := x3.isLt; have := x4.isLt; have := x5.isLt; have := x6.isLt; simp only [Statement, encode, word7]; omega
theorem faddF16 (x0 : BitVec 7) (x1 : BitVec 7) (x2 : BitVec 7) (x3 : BitVec 1) (x4 : BitVec 1) (x5 : BitVec 1) (x6 : BitVec 1) : Statement (Instr.faddF16 x0 x1 x2 x3 x4 x5 x6) := by
  have := x0.isLt; have := x1.isLt; have := x2.isLt; have := x3.isLt; have := x4.isLt; have := x5.isLt; have := x6.isLt; simp only [Statement, encode, word7]; omega
theorem fmulF16 (x0 : BitVec 7) (x1 : BitVec 7) (x2 : BitVec 7) (x3 : BitVec 1) (x4 : BitVec 1) (x5 : BitVec 1) (x6 : BitVec 1) : Statement (Instr.fmulF16 x0 x1 x2 x3 x4 x5 x6) := by
  have := x0.isLt; have := x1.isLt; have := x2.isLt; have := x3.isLt; have := x4.isLt; have := x5.isLt; have := x6.isLt; simp only [Statement, encode, word7]; omega
theorem ffmaF16 (x0 : BitVec 7) (x1 : BitVec 7) (x2 : BitVec 7) (x3 : BitVec 1) (x4 : BitVec 1) (x5 : BitVec 1) (x6 : BitVec 1) : Statement (Instr.ffmaF16 x0 x1 x2 x3 x4 x5 x6) := by
  have := x0.isLt; have := x1.isLt; have := x2.isLt; have := x3.isLt; have := x4.isLt; have := x5.isLt; have := x6.isLt; simp only [Statement, encode, word7]; omega
theorem fdot2F16 (x0 : BitVec 7) (x1 : BitVec 7) (x2 : BitVec 7) (x3 : BitVec 1) (x4 : BitVec 1) (x5 : BitVec 1) (x6 : BitVec 1) : Statement (Instr.fdot2F16 x0 x1 x2 x3 x4 x5 x6) := by
  have := x0.isLt; have := x1.isLt; have := x2.isLt; have := x3.isLt; have := x4.isLt; have := x5.isLt; have := x6.isLt; simp only [Statement, encode, word7]; omega
theorem faddF64 (x0 : BitVec 7) (x1 : BitVec 7) (x2 : BitVec 7) (x3 : BitVec 1) (x4 : BitVec 1) (x5 : BitVec 1) (x6 : BitVec 1) : Statement (Instr.faddF64 x0 x1 x2 x3 x4 x5 x6) := by
  have := x0.isLt; have := x1.isLt; have := x2.isLt; have := x3.isLt; have := x4.isLt; have := x5.isLt; have := x6.isLt; simp only [Statement, encode, word7]; omega
theorem fmulF64 (x0 : BitVec 7) (x1 : BitVec 7) (x2 : BitVec 7) (x3 : BitVec 1) (x4 : BitVec 1) (x5 : BitVec 1) (x6 : BitVec 1) : Statement (Instr.fmulF64 x0 x1 x2 x3 x4 x5 x6) := by
  have := x0.isLt; have := x1.isLt; have := x2.isLt; have := x3.isLt; have := x4.isLt; have := x5.isLt; have := x6.isLt; simp only [Statement, encode, word7]; omega
theorem ffmaF64 (x0 : BitVec 7) (x1 : BitVec 7) (x2 : BitVec 7) (x3 : BitVec 1) (x4 : BitVec 1) (x5 : BitVec 1) (x6 : BitVec 1) : Statement (Instr.ffmaF64 x0 x1 x2 x3 x4 x5 x6) := by
  have := x0.isLt; have := x1.isLt; have := x2.isLt; have := x3.isLt; have := x4.isLt; have := x5.isLt; have := x6.isLt; simp only [Statement, encode, word7]; omega
theorem fcvtF32Bf16 (x0 : BitVec 7) (x1 : BitVec 7) (x2 : BitVec 1) (x3 : BitVec 1) : Statement (Instr.fcvtF32Bf16 x0 x1 x2 x3) := by
  have := x0.isLt; have := x1.isLt; have := x2.isLt; have := x3.isLt; simp only [Statement, encode, word4]; omega
theorem fcvtBf16F32 (x0 : BitVec 7) (x1 : BitVec 7) (x2 : BitVec 1) (x3 : BitVec 1) : Statement (Instr.fcvtBf16F32 x0 x1 x2 x3) := by
  have := x0.isLt; have := x1.isLt; have := x2.isLt; have := x3.isLt; simp only [Statement, encode, word4]; omega
theorem fcvtF32F16 (x0 : BitVec 7) (x1 : BitVec 7) (x2 : BitVec 1) (x3 : BitVec 1) : Statement (Instr.fcvtF32F16 x0 x1 x2 x3) := by
  have := x0.isLt; have := x1.isLt; have := x2.isLt; have := x3.isLt; simp only [Statement, encode, word4]; omega
theorem fcvtF16F32 (x0 : BitVec 7) (x1 : BitVec 7) (x2 : BitVec 1) (x3 : BitVec 1) : Statement (Instr.fcvtF16F32 x0 x1 x2 x3) := by
  have := x0.isLt; have := x1.isLt; have := x2.isLt; have := x3.isLt; simp only [Statement, encode, word4]; omega
theorem fcvtF32E4m3 (x0 : BitVec 7) (x1 : BitVec 7) (x2 : BitVec 1) (x3 : BitVec 1) : Statement (Instr.fcvtF32E4m3 x0 x1 x2 x3) := by
  have := x0.isLt; have := x1.isLt; have := x2.isLt; have := x3.isLt; simp only [Statement, encode, word4]; omega
theorem fcvtE4m3F32 (x0 : BitVec 7) (x1 : BitVec 7) (x2 : BitVec 1) (x3 : BitVec 1) : Statement (Instr.fcvtE4m3F32 x0 x1 x2 x3) := by
  have := x0.isLt; have := x1.isLt; have := x2.isLt; have := x3.isLt; simp only [Statement, encode, word4]; omega
theorem fcvtF32E5m2 (x0 : BitVec 7) (x1 : BitVec 7) (x2 : BitVec 1) (x3 : BitVec 1) : Statement (Instr.fcvtF32E5m2 x0 x1 x2 x3) := by
  have := x0.isLt; have := x1.isLt; have := x2.isLt; have := x3.isLt; simp only [Statement, encode, word4]; omega
theorem fcvtE5m2F32 (x0 : BitVec 7) (x1 : BitVec 7) (x2 : BitVec 1) (x3 : BitVec 1) : Statement (Instr.fcvtE5m2F32 x0 x1 x2 x3) := by
  have := x0.isLt; have := x1.isLt; have := x2.isLt; have := x3.isLt; simp only [Statement, encode, word4]; omega
theorem fcvtF32I32 (x0 : BitVec 7) (x1 : BitVec 7) (x2 : BitVec 1) (x3 : BitVec 1) : Statement (Instr.fcvtF32I32 x0 x1 x2 x3) := by
  have := x0.isLt; have := x1.isLt; have := x2.isLt; have := x3.isLt; simp only [Statement, encode, word4]; omega
theorem fcvtI32F32 (x0 : BitVec 7) (x1 : BitVec 7) (x2 : BitVec 1) (x3 : BitVec 1) : Statement (Instr.fcvtI32F32 x0 x1 x2 x3) := by
  have := x0.isLt; have := x1.isLt; have := x2.isLt; have := x3.isLt; simp only [Statement, encode, word4]; omega
theorem fcvtI32F32z (x0 : BitVec 7) (x1 : BitVec 7) (x2 : BitVec 1) (x3 : BitVec 1) : Statement (Instr.fcvtI32F32z x0 x1 x2 x3) := by
  have := x0.isLt; have := x1.isLt; have := x2.isLt; have := x3.isLt; simp only [Statement, encode, word4]; omega
theorem fcvtF64F32 (x0 : BitVec 7) (x1 : BitVec 7) (x2 : BitVec 1) (x3 : BitVec 1) : Statement (Instr.fcvtF64F32 x0 x1 x2 x3) := by
  have := x0.isLt; have := x1.isLt; have := x2.isLt; have := x3.isLt; simp only [Statement, encode, word4]; omega
theorem fcvtF32F64 (x0 : BitVec 7) (x1 : BitVec 7) (x2 : BitVec 1) (x3 : BitVec 1) : Statement (Instr.fcvtF32F64 x0 x1 x2 x3) := by
  have := x0.isLt; have := x1.isLt; have := x2.isLt; have := x3.isLt; simp only [Statement, encode, word4]; omega
theorem xshfl (x0 : BitVec 7) (x1 : BitVec 7) (x2 : BitVec 7) (x3 : BitVec 1) (x4 : BitVec 1) (x5 : BitVec 2) : Statement (Instr.xshfl x0 x1 x2 x3 x4 x5) := by
  have := x0.isLt; have := x1.isLt; have := x2.isLt; have := x3.isLt; have := x4.isLt; have := x5.isLt; simp only [Statement, encode, word6]; omega
theorem xswz (x0 : BitVec 7) (x1 : BitVec 7) (x2 : BitVec 8) (x3 : BitVec 1) (x4 : BitVec 2) : Statement (Instr.xswz x0 x1 x2 x3 x4) := by
  have := x0.isLt; have := x1.isLt; have := x2.isLt; have := x3.isLt; have := x4.isLt; simp only [Statement, encode, word5]; omega
theorem xrot (x0 : BitVec 7) (x1 : BitVec 7) (x2 : BitVec 8) (x3 : BitVec 1) (x4 : BitVec 2) : Statement (Instr.xrot x0 x1 x2 x3 x4) := by
  have := x0.isLt; have := x1.isLt; have := x2.isLt; have := x3.isLt; have := x4.isLt; simp only [Statement, encode, word5]; omega
theorem xbcast (x0 : BitVec 7) (x1 : BitVec 7) (x2 : BitVec 8) (x3 : BitVec 1) (x4 : BitVec 2) : Statement (Instr.xbcast x0 x1 x2 x3 x4) := by
  have := x0.isLt; have := x1.isLt; have := x2.isLt; have := x3.isLt; have := x4.isLt; simp only [Statement, encode, word5]; omega
theorem xredadd (x0 : BitVec 7) (x1 : BitVec 7) (x2 : BitVec 1) (x3 : BitVec 2) : Statement (Instr.xredadd x0 x1 x2 x3) := by
  have := x0.isLt; have := x1.isLt; have := x2.isLt; have := x3.isLt; simp only [Statement, encode, word4]; omega
theorem xredmin (x0 : BitVec 7) (x1 : BitVec 7) (x2 : BitVec 1) (x3 : BitVec 2) : Statement (Instr.xredmin x0 x1 x2 x3) := by
  have := x0.isLt; have := x1.isLt; have := x2.isLt; have := x3.isLt; simp only [Statement, encode, word4]; omega
theorem xredmax (x0 : BitVec 7) (x1 : BitVec 7) (x2 : BitVec 1) (x3 : BitVec 2) : Statement (Instr.xredmax x0 x1 x2 x3) := by
  have := x0.isLt; have := x1.isLt; have := x2.isLt; have := x3.isLt; simp only [Statement, encode, word4]; omega
theorem xfredaddF32 (x0 : BitVec 7) (x1 : BitVec 7) (x2 : BitVec 1) : Statement (Instr.xfredaddF32 x0 x1 x2) := by
  have := x0.isLt; have := x1.isLt; have := x2.isLt; simp only [Statement, encode, word3]; omega
theorem xfredmaxF32 (x0 : BitVec 7) (x1 : BitVec 7) (x2 : BitVec 1) : Statement (Instr.xfredmaxF32 x0 x1 x2) := by
  have := x0.isLt; have := x1.isLt; have := x2.isLt; simp only [Statement, encode, word3]; omega
theorem xscan (x0 : BitVec 7) (x1 : BitVec 7) (x2 : BitVec 1) (x3 : BitVec 2) : Statement (Instr.xscan x0 x1 x2 x3) := by
  have := x0.isLt; have := x1.isLt; have := x2.isLt; have := x3.isLt; simp only [Statement, encode, word4]; omega
theorem xfscanF32 (x0 : BitVec 7) (x1 : BitVec 7) (x2 : BitVec 1) : Statement (Instr.xfscanF32 x0 x1 x2) := by
  have := x0.isLt; have := x1.isLt; have := x2.isLt; simp only [Statement, encode, word3]; omega
theorem xzip (x0 : BitVec 7) (x1 : BitVec 7) (x2 : BitVec 7) (x3 : BitVec 1) (x4 : BitVec 1) (x5 : BitVec 2) : Statement (Instr.xzip x0 x1 x2 x3 x4 x5) := by
  have := x0.isLt; have := x1.isLt; have := x2.isLt; have := x3.isLt; have := x4.isLt; have := x5.isLt; simp only [Statement, encode, word6]; omega
theorem xunzip (x0 : BitVec 7) (x1 : BitVec 7) (x2 : BitVec 7) (x3 : BitVec 1) (x4 : BitVec 1) (x5 : BitVec 2) : Statement (Instr.xunzip x0 x1 x2 x3 x4 x5) := by
  have := x0.isLt; have := x1.isLt; have := x2.isLt; have := x3.isLt; have := x4.isLt; have := x5.isLt; simp only [Statement, encode, word6]; omega
theorem xgetW8 (x0 : BitVec 9) (x1 : BitVec 7) (x2 : BitVec 5) (x3 : BitVec 3) (x4 : BitVec 1) : Statement (Instr.xgetW8 x0 x1 x2 x3 x4) := by
  have := x0.isLt; have := x1.isLt; have := x2.isLt; have := x3.isLt; have := x4.isLt; simp only [Statement, encode, word5]; omega
theorem xgetW16 (x0 : BitVec 9) (x1 : BitVec 7) (x2 : BitVec 5) (x3 : BitVec 3) (x4 : BitVec 1) : Statement (Instr.xgetW16 x0 x1 x2 x3 x4) := by
  have := x0.isLt; have := x1.isLt; have := x2.isLt; have := x3.isLt; have := x4.isLt; simp only [Statement, encode, word5]; omega
theorem xgetW32 (x0 : BitVec 9) (x1 : BitVec 7) (x2 : BitVec 5) (x3 : BitVec 3) (x4 : BitVec 1) : Statement (Instr.xgetW32 x0 x1 x2 x3 x4) := by
  have := x0.isLt; have := x1.isLt; have := x2.isLt; have := x3.isLt; have := x4.isLt; simp only [Statement, encode, word5]; omega
theorem xgetW64 (x0 : BitVec 9) (x1 : BitVec 7) (x2 : BitVec 5) (x3 : BitVec 3) (x4 : BitVec 1) : Statement (Instr.xgetW64 x0 x1 x2 x3 x4) := by
  have := x0.isLt; have := x1.isLt; have := x2.isLt; have := x3.isLt; have := x4.isLt; simp only [Statement, encode, word5]; omega
theorem xputW8 (x0 : BitVec 7) (x1 : BitVec 9) (x2 : BitVec 5) (x3 : BitVec 3) : Statement (Instr.xputW8 x0 x1 x2 x3) := by
  have := x0.isLt; have := x1.isLt; have := x2.isLt; have := x3.isLt; simp only [Statement, encode, word4]; omega
theorem xputW16 (x0 : BitVec 7) (x1 : BitVec 9) (x2 : BitVec 5) (x3 : BitVec 3) : Statement (Instr.xputW16 x0 x1 x2 x3) := by
  have := x0.isLt; have := x1.isLt; have := x2.isLt; have := x3.isLt; simp only [Statement, encode, word4]; omega
theorem xputW32 (x0 : BitVec 7) (x1 : BitVec 9) (x2 : BitVec 5) (x3 : BitVec 3) : Statement (Instr.xputW32 x0 x1 x2 x3) := by
  have := x0.isLt; have := x1.isLt; have := x2.isLt; have := x3.isLt; simp only [Statement, encode, word4]; omega
theorem xputW64 (x0 : BitVec 7) (x1 : BitVec 9) (x2 : BitVec 5) (x3 : BitVec 3) : Statement (Instr.xputW64 x0 x1 x2 x3) := by
  have := x0.isLt; have := x1.isLt; have := x2.isLt; have := x3.isLt; simp only [Statement, encode, word4]; omega
theorem xballot (x0 : BitVec 9) (x1 : BitVec 7) (x2 : BitVec 1) : Statement (Instr.xballot x0 x1 x2) := by
  have := x0.isLt; have := x1.isLt; have := x2.isLt; simp only [Statement, encode, word3]; omega
theorem srcp (x0 : BitVec 7) (x1 : BitVec 7) (x2 : BitVec 1) (x3 : BitVec 1) : Statement (Instr.srcp x0 x1 x2 x3) := by
  have := x0.isLt; have := x1.isLt; have := x2.isLt; have := x3.isLt; simp only [Statement, encode, word4]; omega
theorem srsqrt (x0 : BitVec 7) (x1 : BitVec 7) (x2 : BitVec 1) (x3 : BitVec 1) : Statement (Instr.srsqrt x0 x1 x2 x3) := by
  have := x0.isLt; have := x1.isLt; have := x2.isLt; have := x3.isLt; simp only [Statement, encode, word4]; omega
theorem ssqrt (x0 : BitVec 7) (x1 : BitVec 7) (x2 : BitVec 1) (x3 : BitVec 1) : Statement (Instr.ssqrt x0 x1 x2 x3) := by
  have := x0.isLt; have := x1.isLt; have := x2.isLt; have := x3.isLt; simp only [Statement, encode, word4]; omega
theorem sexp2 (x0 : BitVec 7) (x1 : BitVec 7) (x2 : BitVec 1) (x3 : BitVec 1) : Statement (Instr.sexp2 x0 x1 x2 x3) := by
  have := x0.isLt; have := x1.isLt; have := x2.isLt; have := x3.isLt; simp only [Statement, encode, word4]; omega
theorem slog2 (x0 : BitVec 7) (x1 : BitVec 7) (x2 : BitVec 1) (x3 : BitVec 1) : Statement (Instr.slog2 x0 x1 x2 x3) := by
  have := x0.isLt; have := x1.isLt; have := x2.isLt; have := x3.isLt; simp only [Statement, encode, word4]; omega
theorem sexp (x0 : BitVec 7) (x1 : BitVec 7) (x2 : BitVec 1) (x3 : BitVec 1) : Statement (Instr.sexp x0 x1 x2 x3) := by
  have := x0.isLt; have := x1.isLt; have := x2.isLt; have := x3.isLt; simp only [Statement, encode, word4]; omega
theorem ssinpi (x0 : BitVec 7) (x1 : BitVec 7) (x2 : BitVec 1) (x3 : BitVec 1) : Statement (Instr.ssinpi x0 x1 x2 x3) := by
  have := x0.isLt; have := x1.isLt; have := x2.isLt; have := x3.isLt; simp only [Statement, encode, word4]; omega
theorem scospi (x0 : BitVec 7) (x1 : BitVec 7) (x2 : BitVec 1) (x3 : BitVec 1) : Statement (Instr.scospi x0 x1 x2 x3) := by
  have := x0.isLt; have := x1.isLt; have := x2.isLt; have := x3.isLt; simp only [Statement, encode, word4]; omega
theorem stanh (x0 : BitVec 7) (x1 : BitVec 7) (x2 : BitVec 1) (x3 : BitVec 1) : Statement (Instr.stanh x0 x1 x2 x3) := by
  have := x0.isLt; have := x1.isLt; have := x2.isLt; have := x3.isLt; simp only [Statement, encode, word4]; omega
theorem ssigm (x0 : BitVec 7) (x1 : BitVec 7) (x2 : BitVec 1) (x3 : BitVec 1) : Statement (Instr.ssigm x0 x1 x2 x3) := by
  have := x0.isLt; have := x1.isLt; have := x2.isLt; have := x3.isLt; simp only [Statement, encode, word4]; omega
theorem sladd (x0 : BitVec 7) (x1 : BitVec 7) (x2 : BitVec 7) (x3 : BitVec 1) (x4 : BitVec 1) (x5 : BitVec 2) : Statement (Instr.sladd x0 x1 x2 x3 x4 x5) := by
  have := x0.isLt; have := x1.isLt; have := x2.isLt; have := x3.isLt; have := x4.isLt; have := x5.isLt; simp only [Statement, encode, word6]; omega
theorem slsub (x0 : BitVec 7) (x1 : BitVec 7) (x2 : BitVec 7) (x3 : BitVec 1) (x4 : BitVec 1) (x5 : BitVec 2) : Statement (Instr.slsub x0 x1 x2 x3 x4 x5) := by
  have := x0.isLt; have := x1.isLt; have := x2.isLt; have := x3.isLt; have := x4.isLt; have := x5.isLt; simp only [Statement, encode, word6]; omega
theorem slmul (x0 : BitVec 7) (x1 : BitVec 7) (x2 : BitVec 7) (x3 : BitVec 1) (x4 : BitVec 1) (x5 : BitVec 2) : Statement (Instr.slmul x0 x1 x2 x3 x4 x5) := by
  have := x0.isLt; have := x1.isLt; have := x2.isLt; have := x3.isLt; have := x4.isLt; have := x5.isLt; simp only [Statement, encode, word6]; omega
theorem sldiv (x0 : BitVec 7) (x1 : BitVec 7) (x2 : BitVec 7) (x3 : BitVec 1) (x4 : BitVec 1) (x5 : BitVec 2) : Statement (Instr.sldiv x0 x1 x2 x3 x4 x5) := by
  have := x0.isLt; have := x1.isLt; have := x2.isLt; have := x3.isLt; have := x4.isLt; have := x5.isLt; simp only [Statement, encode, word6]; omega
theorem slrcp (x0 : BitVec 7) (x1 : BitVec 7) (x2 : BitVec 1) (x3 : BitVec 2) : Statement (Instr.slrcp x0 x1 x2 x3) := by
  have := x0.isLt; have := x1.isLt; have := x2.isLt; have := x3.isLt; simp only [Statement, encode, word4]; omega
theorem slneg (x0 : BitVec 7) (x1 : BitVec 7) (x2 : BitVec 1) (x3 : BitVec 2) : Statement (Instr.slneg x0 x1 x2 x3) := by
  have := x0.isLt; have := x1.isLt; have := x2.isLt; have := x3.isLt; simp only [Statement, encode, word4]; omega
theorem slabs (x0 : BitVec 7) (x1 : BitVec 7) (x2 : BitVec 1) (x3 : BitVec 2) : Statement (Instr.slabs x0 x1 x2 x3) := by
  have := x0.isLt; have := x1.isLt; have := x2.isLt; have := x3.isLt; simp only [Statement, encode, word4]; omega
theorem slexp (x0 : BitVec 7) (x1 : BitVec 7) (x2 : BitVec 1) (x3 : BitVec 2) : Statement (Instr.slexp x0 x1 x2 x3) := by
  have := x0.isLt; have := x1.isLt; have := x2.isLt; have := x3.isLt; simp only [Statement, encode, word4]; omega
theorem sllog (x0 : BitVec 7) (x1 : BitVec 7) (x2 : BitVec 1) (x3 : BitVec 2) : Statement (Instr.sllog x0 x1 x2 x3) := by
  have := x0.isLt; have := x1.isLt; have := x2.isLt; have := x3.isLt; simp only [Statement, encode, word4]; omega
theorem slmin (x0 : BitVec 7) (x1 : BitVec 7) (x2 : BitVec 7) (x3 : BitVec 1) (x4 : BitVec 1) (x5 : BitVec 2) : Statement (Instr.slmin x0 x1 x2 x3 x4 x5) := by
  have := x0.isLt; have := x1.isLt; have := x2.isLt; have := x3.isLt; have := x4.isLt; have := x5.isLt; simp only [Statement, encode, word6]; omega
theorem slmax (x0 : BitVec 7) (x1 : BitVec 7) (x2 : BitVec 7) (x3 : BitVec 1) (x4 : BitVec 1) (x5 : BitVec 2) : Statement (Instr.slmax x0 x1 x2 x3 x4 x5) := by
  have := x0.isLt; have := x1.isLt; have := x2.isLt; have := x3.isLt; have := x4.isLt; have := x5.isLt; simp only [Statement, encode, word6]; omega
theorem slceq (x0 : BitVec 7) (x1 : BitVec 7) (x2 : BitVec 7) (x3 : BitVec 1) (x4 : BitVec 1) (x5 : BitVec 2) : Statement (Instr.slceq x0 x1 x2 x3 x4 x5) := by
  have := x0.isLt; have := x1.isLt; have := x2.isLt; have := x3.isLt; have := x4.isLt; have := x5.isLt; simp only [Statement, encode, word6]; omega
theorem slclt (x0 : BitVec 7) (x1 : BitVec 7) (x2 : BitVec 7) (x3 : BitVec 1) (x4 : BitVec 1) (x5 : BitVec 2) : Statement (Instr.slclt x0 x1 x2 x3 x4 x5) := by
  have := x0.isLt; have := x1.isLt; have := x2.isLt; have := x3.isLt; have := x4.isLt; have := x5.isLt; simp only [Statement, encode, word6]; omega
theorem slsqrt (x0 : BitVec 7) (x1 : BitVec 7) (x2 : BitVec 1) (x3 : BitVec 2) : Statement (Instr.slsqrt x0 x1 x2 x3) := by
  have := x0.isLt; have := x1.isLt; have := x2.isLt; have := x3.isLt; simp only [Statement, encode, word4]; omega
theorem slcvtSlF32 (x0 : BitVec 7) (x1 : BitVec 7) (x2 : BitVec 1) : Statement (Instr.slcvtSlF32 x0 x1 x2) := by
  have := x0.isLt; have := x1.isLt; have := x2.isLt; simp only [Statement, encode, word3]; omega
theorem slcvtF32Sl (x0 : BitVec 7) (x1 : BitVec 7) (x2 : BitVec 1) : Statement (Instr.slcvtF32Sl x0 x1 x2) := by
  have := x0.isLt; have := x1.isLt; have := x2.isLt; simp only [Statement, encode, word3]; omega
theorem slcvtSlF64 (x0 : BitVec 7) (x1 : BitVec 7) (x2 : BitVec 1) : Statement (Instr.slcvtSlF64 x0 x1 x2) := by
  have := x0.isLt; have := x1.isLt; have := x2.isLt; simp only [Statement, encode, word3]; omega
theorem slcvtF64Sl (x0 : BitVec 7) (x1 : BitVec 7) (x2 : BitVec 1) : Statement (Instr.slcvtF64Sl x0 x1 x2) := by
  have := x0.isLt; have := x1.isLt; have := x2.isLt; simp only [Statement, encode, word3]; omega
theorem slcvtSl16Sl32 (x0 : BitVec 7) (x1 : BitVec 7) (x2 : BitVec 1) : Statement (Instr.slcvtSl16Sl32 x0 x1 x2) := by
  have := x0.isLt; have := x1.isLt; have := x2.isLt; simp only [Statement, encode, word3]; omega
theorem slcvtSl32Sl16 (x0 : BitVec 7) (x1 : BitVec 7) (x2 : BitVec 1) : Statement (Instr.slcvtSl32Sl16 x0 x1 x2) := by
  have := x0.isLt; have := x1.isLt; have := x2.isLt; simp only [Statement, encode, word3]; omega
theorem sllvl (x0 : BitVec 7) (x1 : BitVec 7) (x2 : BitVec 1) (x3 : BitVec 2) : Statement (Instr.sllvl x0 x1 x2 x3) := by
  have := x0.isLt; have := x1.isLt; have := x2.isLt; have := x3.isLt; simp only [Statement, encode, word4]; omega
theorem vld (x0 : BitVec 7) (x1 : BitVec 9) (x2 : BitVec 7) (x3 : BitVec 1) (x4 : BitVec 1) : Statement (Instr.vld x0 x1 x2 x3 x4) := by
  have := x0.isLt; have := x1.isLt; have := x2.isLt; have := x3.isLt; have := x4.isLt; simp only [Statement, encode, word5]; omega
theorem vst (x0 : BitVec 7) (x1 : BitVec 9) (x2 : BitVec 7) (x3 : BitVec 1) (x4 : BitVec 1) : Statement (Instr.vst x0 x1 x2 x3 x4) := by
  have := x0.isLt; have := x1.isLt; have := x2.isLt; have := x3.isLt; have := x4.isLt; simp only [Statement, encode, word5]; omega
theorem vldu (x0 : BitVec 7) (x1 : BitVec 9) (x2 : BitVec 8) (x3 : BitVec 1) : Statement (Instr.vldu x0 x1 x2 x3) := by
  have := x0.isLt; have := x1.isLt; have := x2.isLt; have := x3.isLt; simp only [Statement, encode, word4]; omega
theorem vstu (x0 : BitVec 7) (x1 : BitVec 9) (x2 : BitVec 8) (x3 : BitVec 1) : Statement (Instr.vstu x0 x1 x2 x3) := by
  have := x0.isLt; have := x1.isLt; have := x2.isLt; have := x3.isLt; simp only [Statement, encode, word4]; omega
theorem vlds (x0 : BitVec 7) (x1 : BitVec 9) (x2 : BitVec 7) (x3 : BitVec 1) (x4 : BitVec 1) : Statement (Instr.vlds x0 x1 x2 x3 x4) := by
  have := x0.isLt; have := x1.isLt; have := x2.isLt; have := x3.isLt; have := x4.isLt; simp only [Statement, encode, word5]; omega
theorem vsts (x0 : BitVec 7) (x1 : BitVec 9) (x2 : BitVec 7) (x3 : BitVec 1) (x4 : BitVec 1) : Statement (Instr.vsts x0 x1 x2 x3 x4) := by
  have := x0.isLt; have := x1.isLt; have := x2.isLt; have := x3.isLt; have := x4.isLt; simp only [Statement, encode, word5]; omega
theorem vldsu (x0 : BitVec 7) (x1 : BitVec 9) (x2 : BitVec 8) (x3 : BitVec 1) : Statement (Instr.vldsu x0 x1 x2 x3) := by
  have := x0.isLt; have := x1.isLt; have := x2.isLt; have := x3.isLt; simp only [Statement, encode, word4]; omega
theorem vstsu (x0 : BitVec 7) (x1 : BitVec 9) (x2 : BitVec 8) (x3 : BitVec 1) : Statement (Instr.vstsu x0 x1 x2 x3) := by
  have := x0.isLt; have := x1.isLt; have := x2.isLt; have := x3.isLt; simp only [Statement, encode, word4]; omega
theorem sld (x0 : BitVec 9) (x1 : BitVec 9) (x2 : BitVec 6) (x3 : BitVec 1) : Statement (Instr.sld x0 x1 x2 x3) := by
  have := x0.isLt; have := x1.isLt; have := x2.isLt; have := x3.isLt; simp only [Statement, encode, word4]; omega
theorem sst (x0 : BitVec 9) (x1 : BitVec 9) (x2 : BitVec 6) (x3 : BitVec 1) : Statement (Instr.sst x0 x1 x2 x3) := by
  have := x0.isLt; have := x1.isLt; have := x2.isLt; have := x3.isLt; simp only [Statement, encode, word4]; omega
theorem sldw (x0 : BitVec 9) (x1 : BitVec 9) (x2 : BitVec 6) (x3 : BitVec 1) : Statement (Instr.sldw x0 x1 x2 x3) := by
  have := x0.isLt; have := x1.isLt; have := x2.isLt; have := x3.isLt; simp only [Statement, encode, word4]; omega
theorem vpop (x0 : BitVec 7) (x1 : BitVec 2) (x2 : BitVec 1) : Statement (Instr.vpop x0 x1 x2) := by
  have := x0.isLt; have := x1.isLt; have := x2.isLt; simp only [Statement, encode, word3]; omega
theorem fld (x0 : BitVec 2) (x1 : BitVec 10) (x2 : BitVec 9) (x3 : BitVec 1) : Statement (Instr.fld x0 x1 x2 x3) := by
  have := x0.isLt; have := x1.isLt; have := x2.isLt; have := x3.isLt; simp only [Statement, encode, word4]; omega
theorem fst (x0 : BitVec 2) (x1 : BitVec 10) (x2 : BitVec 9) (x3 : BitVec 1) : Statement (Instr.fst x0 x1 x2 x3) := by
  have := x0.isLt; have := x1.isLt; have := x2.isLt; have := x3.isLt; simp only [Statement, encode, word4]; omega
theorem fldb (x0 : BitVec 2) (x1 : BitVec 10) (x2 : BitVec 9) (x3 : BitVec 1) : Statement (Instr.fldb x0 x1 x2 x3) := by
  have := x0.isLt; have := x1.isLt; have := x2.isLt; have := x3.isLt; simp only [Statement, encode, word4]; omega
theorem flda (x0 : BitVec 2) (x1 : BitVec 10) (x2 : BitVec 9) (x3 : BitVec 1) : Statement (Instr.flda x0 x1 x2 x3) := by
  have := x0.isLt; have := x1.isLt; have := x2.isLt; have := x3.isLt; simp only [Statement, encode, word4]; omega
theorem famo (x0 : BitVec 2) (x1 : BitVec 10) (x2 : BitVec 9) (x3 : BitVec 1) : Statement (Instr.famo x0 x1 x2 x3) := by
  have := x0.isLt; have := x1.isLt; have := x2.isLt; have := x3.isLt; simp only [Statement, encode, word4]; omega
theorem vstb (x0 : BitVec 7) (x1 : BitVec 9) (x2 : BitVec 6) (x3 : BitVec 1) : Statement (Instr.vstb x0 x1 x2 x3) := by
  have := x0.isLt; have := x1.isLt; have := x2.isLt; have := x3.isLt; simp only [Statement, encode, word4]; omega
theorem bar (x0 : BitVec 7) (x1 : BitVec 9) (x2 : BitVec 3) (x3 : BitVec 1) : Statement (Instr.bar x0 x1 x2 x3) := by
  have := x0.isLt; have := x1.isLt; have := x2.isLt; have := x3.isLt; simp only [Statement, encode, word4]; omega
theorem barinit (x0 : BitVec 9) (x1 : BitVec 9) (x2 : BitVec 1) : Statement (Instr.barinit x0 x1 x2) := by
  have := x0.isLt; have := x1.isLt; have := x2.isLt; simp only [Statement, encode, word3]; omega
theorem barsig (x0 : BitVec 9) (x1 : BitVec 1) : Statement (Instr.barsig x0 x1) := by
  have := x0.isLt; have := x1.isLt; simp only [Statement, encode, word2]; omega
theorem barwait (x0 : BitVec 9) (x1 : BitVec 1) : Statement (Instr.barwait x0 x1) := by
  have := x0.isLt; have := x1.isLt; simp only [Statement, encode, word2]; omega
theorem gbar (x0 : BitVec 9) (x1 : BitVec 9) (x2 : BitVec 1) : Statement (Instr.gbar x0 x1 x2) := by
  have := x0.isLt; have := x1.isLt; have := x2.isLt; simp only [Statement, encode, word3]; omega
theorem qpush (x0 : BitVec 9) (x1 : BitVec 6) (x2 : BitVec 1) : Statement (Instr.qpush x0 x1 x2) := by
  have := x0.isLt; have := x1.isLt; have := x2.isLt; simp only [Statement, encode, word3]; omega
theorem qpop (x0 : BitVec 9) (x1 : BitVec 6) (x2 : BitVec 1) : Statement (Instr.qpop x0 x1 x2) := by
  have := x0.isLt; have := x1.isLt; have := x2.isLt; simp only [Statement, encode, word3]; omega
theorem qtry (x0 : BitVec 9) (x1 : BitVec 6) (x2 : BitVec 1) : Statement (Instr.qtry x0 x1 x2) := by
  have := x0.isLt; have := x1.isLt; have := x2.isLt; simp only [Statement, encode, word3]; omega
theorem qallow (x0 : BitVec 9) (x1 : BitVec 6) (x2 : BitVec 1) : Statement (Instr.qallow x0 x1 x2) := by
  have := x0.isLt; have := x1.isLt; have := x2.isLt; simp only [Statement, encode, word3]; omega
theorem ringpub (x0 : BitVec 4) (x1 : BitVec 9) (x2 : BitVec 1) : Statement (Instr.ringpub x0 x1 x2) := by
  have := x0.isLt; have := x1.isLt; have := x2.isLt; simp only [Statement, encode, word3]; omega
theorem ringwait (x0 : BitVec 9) (x1 : BitVec 4) (x2 : BitVec 9) (x3 : BitVec 1) : Statement (Instr.ringwait x0 x1 x2 x3) := by
  have := x0.isLt; have := x1.isLt; have := x2.isLt; have := x3.isLt; simp only [Statement, encode, word4]; omega
theorem ringadv (x0 : BitVec 9) (x1 : BitVec 4) (x2 : BitVec 9) (x3 : BitVec 1) : Statement (Instr.ringadv x0 x1 x2 x3) := by
  have := x0.isLt; have := x1.isLt; have := x2.isLt; have := x3.isLt; simp only [Statement, encode, word4]; omega
theorem aadd (x0 : BitVec 7) (x1 : BitVec 7) (x2 : BitVec 5) (x3 : BitVec 1) (x4 : BitVec 1) (x5 : BitVec 1) : Statement (Instr.aadd x0 x1 x2 x3 x4 x5) := by
  have := x0.isLt; have := x1.isLt; have := x2.isLt; have := x3.isLt; have := x4.isLt; have := x5.isLt; simp only [Statement, encode, word6]; omega
theorem aand (x0 : BitVec 7) (x1 : BitVec 7) (x2 : BitVec 5) (x3 : BitVec 1) (x4 : BitVec 1) (x5 : BitVec 1) : Statement (Instr.aand x0 x1 x2 x3 x4 x5) := by
  have := x0.isLt; have := x1.isLt; have := x2.isLt; have := x3.isLt; have := x4.isLt; have := x5.isLt; simp only [Statement, encode, word6]; omega
theorem aor (x0 : BitVec 7) (x1 : BitVec 7) (x2 : BitVec 5) (x3 : BitVec 1) (x4 : BitVec 1) (x5 : BitVec 1) : Statement (Instr.aor x0 x1 x2 x3 x4 x5) := by
  have := x0.isLt; have := x1.isLt; have := x2.isLt; have := x3.isLt; have := x4.isLt; have := x5.isLt; simp only [Statement, encode, word6]; omega
theorem axor (x0 : BitVec 7) (x1 : BitVec 7) (x2 : BitVec 5) (x3 : BitVec 1) (x4 : BitVec 1) (x5 : BitVec 1) : Statement (Instr.axor x0 x1 x2 x3 x4 x5) := by
  have := x0.isLt; have := x1.isLt; have := x2.isLt; have := x3.isLt; have := x4.isLt; have := x5.isLt; simp only [Statement, encode, word6]; omega
theorem amin (x0 : BitVec 7) (x1 : BitVec 7) (x2 : BitVec 5) (x3 : BitVec 1) (x4 : BitVec 1) (x5 : BitVec 1) : Statement (Instr.amin x0 x1 x2 x3 x4 x5) := by
  have := x0.isLt; have := x1.isLt; have := x2.isLt; have := x3.isLt; have := x4.isLt; have := x5.isLt; simp only [Statement, encode, word6]; omega
theorem amax (x0 : BitVec 7) (x1 : BitVec 7) (x2 : BitVec 5) (x3 : BitVec 1) (x4 : BitVec 1) (x5 : BitVec 1) : Statement (Instr.amax x0 x1 x2 x3 x4 x5) := by
  have := x0.isLt; have := x1.isLt; have := x2.isLt; have := x3.isLt; have := x4.isLt; have := x5.isLt; simp only [Statement, encode, word6]; omega
theorem aswap (x0 : BitVec 7) (x1 : BitVec 7) (x2 : BitVec 5) (x3 : BitVec 1) (x4 : BitVec 1) (x5 : BitVec 1) : Statement (Instr.aswap x0 x1 x2 x3 x4 x5) := by
  have := x0.isLt; have := x1.isLt; have := x2.isLt; have := x3.isLt; have := x4.isLt; have := x5.isLt; simp only [Statement, encode, word6]; omega
theorem acas (x0 : BitVec 7) (x1 : BitVec 7) (x2 : BitVec 5) (x3 : BitVec 1) (x4 : BitVec 1) (x5 : BitVec 1) : Statement (Instr.acas x0 x1 x2 x3 x4 x5) := by
  have := x0.isLt; have := x1.isLt; have := x2.isLt; have := x3.isLt; have := x4.isLt; have := x5.isLt; simp only [Statement, encode, word6]; omega
theorem redadd (x0 : BitVec 7) (x1 : BitVec 7) (x2 : BitVec 5) (x3 : BitVec 1) (x4 : BitVec 1) (x5 : BitVec 1) : Statement (Instr.redadd x0 x1 x2 x3 x4 x5) := by
  have := x0.isLt; have := x1.isLt; have := x2.isLt; have := x3.isLt; have := x4.isLt; have := x5.isLt; simp only [Statement, encode, word6]; omega
theorem redmin (x0 : BitVec 7) (x1 : BitVec 7) (x2 : BitVec 5) (x3 : BitVec 1) (x4 : BitVec 1) (x5 : BitVec 1) : Statement (Instr.redmin x0 x1 x2 x3 x4 x5) := by
  have := x0.isLt; have := x1.isLt; have := x2.isLt; have := x3.isLt; have := x4.isLt; have := x5.isLt; simp only [Statement, encode, word6]; omega
theorem redmax (x0 : BitVec 7) (x1 : BitVec 7) (x2 : BitVec 5) (x3 : BitVec 1) (x4 : BitVec 1) (x5 : BitVec 1) : Statement (Instr.redmax x0 x1 x2 x3 x4 x5) := by
  have := x0.isLt; have := x1.isLt; have := x2.isLt; have := x3.isLt; have := x4.isLt; have := x5.isLt; simp only [Statement, encode, word6]; omega
theorem fredadd (x0 : BitVec 7) (x1 : BitVec 7) (x2 : BitVec 5) (x3 : BitVec 1) (x4 : BitVec 1) (x5 : BitVec 1) : Statement (Instr.fredadd x0 x1 x2 x3 x4 x5) := by
  have := x0.isLt; have := x1.isLt; have := x2.isLt; have := x3.isLt; have := x4.isLt; have := x5.isLt; simp only [Statement, encode, word6]; omega
theorem fence (x0 : BitVec 5) (x1 : BitVec 2) (x2 : BitVec 1) : Statement (Instr.fence x0 x1 x2) := by
  have := x0.isLt; have := x1.isLt; have := x2.isLt; simp only [Statement, encode, word3]; omega
theorem qfence (x0 : BitVec 5) (x1 : BitVec 2) (x2 : BitVec 8) (x3 : BitVec 1) : Statement (Instr.qfence x0 x1 x2 x3) := by
  have := x0.isLt; have := x1.isLt; have := x2.isLt; have := x3.isLt; simp only [Statement, encode, word4]; omega
theorem mbrd (x0 : BitVec 9) (x1 : BitVec 4) (x2 : BitVec 1) : Statement (Instr.mbrd x0 x1 x2) := by
  have := x0.isLt; have := x1.isLt; have := x2.isLt; simp only [Statement, encode, word3]; omega
theorem mbwr (x0 : BitVec 9) (x1 : BitVec 4) (x2 : BitVec 1) : Statement (Instr.mbwr x0 x1 x2) := by
  have := x0.isLt; have := x1.isLt; have := x2.isLt; simp only [Statement, encode, word3]; omega
theorem mbtry (x0 : BitVec 9) (x1 : BitVec 4) (x2 : BitVec 1) : Statement (Instr.mbtry x0 x1 x2) := by
  have := x0.isLt; have := x1.isLt; have := x2.isLt; simp only [Statement, encode, word3]; omega
theorem mma (x0 : BitVec 7) (x1 : BitVec 7) (x2 : BitVec 7) (x3 : BitVec 3) (x4 : BitVec 1) : Statement (Instr.mma x0 x1 x2 x3 x4) := by
  have := x0.isLt; have := x1.isLt; have := x2.isLt; have := x3.isLt; have := x4.isLt; simp only [Statement, encode, word5]; omega
theorem mmaz (x0 : BitVec 7) (x1 : BitVec 7) (x2 : BitVec 7) (x3 : BitVec 3) (x4 : BitVec 1) : Statement (Instr.mmaz x0 x1 x2 x3 x4) := by
  have := x0.isLt; have := x1.isLt; have := x2.isLt; have := x3.isLt; have := x4.isLt; simp only [Statement, encode, word5]; omega
theorem mset (x0 : BitVec 7) : Statement (Instr.mset x0) := by
  have := x0.isLt; simp only [Statement, encode, word1]; omega
theorem mzero (x0 : BitVec 9) (x1 : BitVec 7) : Statement (Instr.mzero x0 x1) := by
  have := x0.isLt; have := x1.isLt; simp only [Statement, encode, word2]; omega
theorem mpar (x0 : BitVec 9) : Statement (Instr.mpar x0) := by
  have := x0.isLt; simp only [Statement, encode, word1]; omega
theorem mdrain (x0 : BitVec 9) (x1 : BitVec 9) (x2 : BitVec 7) : Statement (Instr.mdrain x0 x1 x2) := by
  have := x0.isLt; have := x1.isLt; have := x2.isLt; simp only [Statement, encode, word3]; omega
theorem mdrainv (x0 : BitVec 9) (x1 : BitVec 7) : Statement (Instr.mdrainv x0 x1) := by
  have := x0.isLt; have := x1.isLt; simp only [Statement, encode, word2]; omega
theorem msoft (x0 : BitVec 9) (x1 : BitVec 9) (x2 : BitVec 7) : Statement (Instr.msoft x0 x1 x2) := by
  have := x0.isLt; have := x1.isLt; have := x2.isLt; simp only [Statement, encode, word3]; omega
theorem mside (x0 : BitVec 9) (x1 : BitVec 9) (x2 : BitVec 7) : Statement (Instr.mside x0 x1 x2) := by
  have := x0.isLt; have := x1.isLt; have := x2.isLt; simp only [Statement, encode, word3]; omega
theorem macq (x0 : BitVec 9) (x1 : BitVec 9) (x2 : BitVec 7) : Statement (Instr.macq x0 x1 x2) := by
  have := x0.isLt; have := x1.isLt; have := x2.isLt; simp only [Statement, encode, word3]; omega
theorem mrel (x0 : BitVec 9) (x1 : BitVec 7) : Statement (Instr.mrel x0 x1) := by
  have := x0.isLt; have := x1.isLt; simp only [Statement, encode, word2]; omega
theorem mrelf (x0 : BitVec 9) (x1 : BitVec 7) : Statement (Instr.mrelf x0 x1) := by
  have := x0.isLt; have := x1.isLt; simp only [Statement, encode, word2]; omega
theorem mred (x0 : BitVec 9) (x1 : BitVec 9) (x2 : BitVec 7) : Statement (Instr.mred x0 x1 x2) := by
  have := x0.isLt; have := x1.isLt; have := x2.isLt; simp only [Statement, encode, word3]; omega
theorem cpy (x0 : BitVec 9) (x1 : BitVec 9) (x2 : BitVec 7) : Statement (Instr.cpy x0 x1 x2) := by
  have := x0.isLt; have := x1.isLt; have := x2.isLt; simp only [Statement, encode, word3]; omega
theorem gath (x0 : BitVec 9) (x1 : BitVec 9) (x2 : BitVec 7) : Statement (Instr.gath x0 x1 x2) := by
  have := x0.isLt; have := x1.isLt; have := x2.isLt; simp only [Statement, encode, word3]; omega
theorem scat (x0 : BitVec 9) (x1 : BitVec 9) (x2 : BitVec 7) : Statement (Instr.scat x0 x1 x2) := by
  have := x0.isLt; have := x1.isLt; have := x2.isLt; simp only [Statement, encode, word3]; omega
theorem chain (x0 : BitVec 9) (x1 : BitVec 9) (x2 : BitVec 7) : Statement (Instr.chain x0 x1 x2) := by
  have := x0.isLt; have := x1.isLt; have := x2.isLt; simp only [Statement, encode, word3]; omega
theorem ringsub (x0 : BitVec 9) (x1 : BitVec 9) (x2 : BitVec 7) : Statement (Instr.ringsub x0 x1 x2) := by
  have := x0.isLt; have := x1.isLt; have := x2.isLt; simp only [Statement, encode, word3]; omega
theorem unsub (x0 : BitVec 9) (x1 : BitVec 9) : Statement (Instr.unsub x0 x1) := by
  have := x0.isLt; have := x1.isLt; simp only [Statement, encode, word2]; omega
theorem pull (x0 : BitVec 9) (x1 : BitVec 9) (x2 : BitVec 7) : Statement (Instr.pull x0 x1 x2) := by
  have := x0.isLt; have := x1.isLt; have := x2.isLt; simp only [Statement, encode, word3]; omega
theorem tlook (x0 : BitVec 9) (x1 : BitVec 9) : Statement (Instr.tlook x0 x1) := by
  have := x0.isLt; have := x1.isLt; simp only [Statement, encode, word2]; omega
theorem tfill (x0 : BitVec 9) (x1 : BitVec 9) (x2 : BitVec 7) : Statement (Instr.tfill x0 x1 x2) := by
  have := x0.isLt; have := x1.isLt; have := x2.isLt; simp only [Statement, encode, word3]; omega
theorem tevict (x0 : BitVec 9) (x1 : BitVec 7) : Statement (Instr.tevict x0 x1) := by
  have := x0.isLt; have := x1.isLt; simp only [Statement, encode, word2]; omega
theorem tinval (x0 : BitVec 9) (x1 : BitVec 7) : Statement (Instr.tinval x0 x1) := by
  have := x0.isLt; have := x1.isLt; simp only [Statement, encode, word2]; omega
theorem coll (x0 : BitVec 9) (x1 : BitVec 9) (x2 : BitVec 7) : Statement (Instr.coll x0 x1 x2) := by
  have := x0.isLt; have := x1.isLt; have := x2.isLt; simp only [Statement, encode, word3]; omega
theorem oldu (x0 : BitVec 9) (x1 : BitVec 9) (x2 : BitVec 7) : Statement (Instr.oldu x0 x1 x2) := by
  have := x0.isLt; have := x1.isLt; have := x2.isLt; simp only [Statement, encode, word3]; omega
theorem oldg (x0 : BitVec 9) (x1 : BitVec 9) (x2 : BitVec 7) : Statement (Instr.oldg x0 x1 x2) := by
  have := x0.isLt; have := x1.isLt; have := x2.isLt; simp only [Statement, encode, word3]; omega
theorem bput (x0 : BitVec 7) (x1 : BitVec 7) (x2 : BitVec 9) (x3 : BitVec 1) (x4 : BitVec 1) : Statement (Instr.bput x0 x1 x2 x3 x4) := by
  have := x0.isLt; have := x1.isLt; have := x2.isLt; have := x3.isLt; have := x4.isLt; simp only [Statement, encode, word5]; omega
theorem bputl (x0 : BitVec 7) (x1 : BitVec 9) (x2 : BitVec 1) : Statement (Instr.bputl x0 x1 x2) := by
  have := x0.isLt; have := x1.isLt; have := x2.isLt; simp only [Statement, encode, word3]; omega
theorem bcount (x0 : BitVec 9) (x1 : BitVec 9) : Statement (Instr.bcount x0 x1) := by
  have := x0.isLt; have := x1.isLt; simp only [Statement, encode, word2]; omega
theorem bcounts (x0 : BitVec 9) (x1 : BitVec 9) (x2 : BitVec 7) : Statement (Instr.bcounts x0 x1 x2) := by
  have := x0.isLt; have := x1.isLt; have := x2.isLt; simp only [Statement, encode, word3]; omega
theorem bnew (x0 : BitVec 9) (x1 : BitVec 9) (x2 : BitVec 7) : Statement (Instr.bnew x0 x1 x2) := by
  have := x0.isLt; have := x1.isLt; have := x2.isLt; simp only [Statement, encode, word3]; omega
theorem bgrow (x0 : BitVec 9) (x1 : BitVec 9) (x2 : BitVec 7) : Statement (Instr.bgrow x0 x1 x2) := by
  have := x0.isLt; have := x1.isLt; have := x2.isLt; simp only [Statement, encode, word3]; omega
theorem bfree (x0 : BitVec 9) (x1 : BitVec 9) : Statement (Instr.bfree x0 x1) := by
  have := x0.isLt; have := x1.isLt; simp only [Statement, encode, word2]; omega
theorem bseal (x0 : BitVec 9) (x1 : BitVec 9) : Statement (Instr.bseal x0 x1) := by
  have := x0.isLt; have := x1.isLt; simp only [Statement, encode, word2]; omega
theorem biter (x0 : BitVec 9) (x1 : BitVec 9) (x2 : BitVec 7) : Statement (Instr.biter x0 x1 x2) := by
  have := x0.isLt; have := x1.isLt; have := x2.isLt; simp only [Statement, encode, word3]; omega
theorem bnext (x0 : BitVec 7) (x1 : BitVec 7) (x2 : BitVec 9) (x3 : BitVec 1) : Statement (Instr.bnext x0 x1 x2 x3) := by
  have := x0.isLt; have := x1.isLt; have := x2.isLt; have := x3.isLt; simp only [Statement, encode, word4]; omega
theorem bwrite (x0 : BitVec 7) (x1 : BitVec 7) (x2 : BitVec 9) (x3 : BitVec 1) (x4 : BitVec 1) : Statement (Instr.bwrite x0 x1 x2 x3 x4) := by
  have := x0.isLt; have := x1.isLt; have := x2.isLt; have := x3.isLt; have := x4.isLt; simp only [Statement, encode, word5]; omega
theorem bdrain (x0 : BitVec 9) (x1 : BitVec 9) (x2 : BitVec 7) : Statement (Instr.bdrain x0 x1 x2) := by
  have := x0.isLt; have := x1.isLt; have := x2.isLt; simp only [Statement, encode, word3]; omega
theorem spawn (x0 : BitVec 9) (x1 : BitVec 9) (x2 : BitVec 7) : Statement (Instr.spawn x0 x1 x2) := by
  have := x0.isLt; have := x1.isLt; have := x2.isLt; simp only [Statement, encode, word3]; omega
theorem spawnr (x0 : BitVec 9) (x1 : BitVec 9) (x2 : BitVec 7) : Statement (Instr.spawnr x0 x1 x2) := by
  have := x0.isLt; have := x1.isLt; have := x2.isLt; simp only [Statement, encode, word3]; omega
theorem rtake (x0 : BitVec 9) (x1 : BitVec 9) : Statement (Instr.rtake x0 x1) := by
  have := x0.isLt; have := x1.isLt; simp only [Statement, encode, word2]; omega
theorem launch (x0 : BitVec 9) (x1 : BitVec 9) (x2 : BitVec 7) : Statement (Instr.launch x0 x1 x2) := by
  have := x0.isLt; have := x1.isLt; have := x2.isLt; simp only [Statement, encode, word3]; omega
theorem tcbdec (x0 : BitVec 9) (x1 : BitVec 9) : Statement (Instr.tcbdec x0 x1) := by
  have := x0.isLt; have := x1.isLt; simp only [Statement, encode, word2]; omega
theorem eplan (x0 : BitVec 9) (x1 : BitVec 9) : Statement (Instr.eplan x0 x1) := by
  have := x0.isLt; have := x1.isLt; simp only [Statement, encode, word2]; omega
theorem wphase (x0 : BitVec 9) : Statement (Instr.wphase x0) := by
  have := x0.isLt; simp only [Statement, encode, word1]; omega
theorem tself (x0 : BitVec 9) (x1 : BitVec 9) : Statement (Instr.tself x0 x1) := by
  have := x0.isLt; have := x1.isLt; simp only [Statement, encode, word2]; omega
theorem fcont (x0 : BitVec 9) (x1 : BitVec 9) (x2 : BitVec 7) : Statement (Instr.fcont x0 x1 x2) := by
  have := x0.isLt; have := x1.isLt; have := x2.isLt; simp only [Statement, encode, word3]; omega
theorem uncorrectableLoadTrap : Statement Instr.uncorrectableLoadTrap := Nat.two_pow_pos 32
theorem load (x0 : Nat) (x1 : Nat) : Statement (Instr.load x0 x1) := Nat.two_pow_pos 32
theorem drain (x0 : Nat) (x1 : Nat) : Statement (Instr.drain x0 x1) := Nat.two_pow_pos 32
theorem apply (x0 : Nat) (x1 : Nat) : Statement (Instr.apply x0 x1) := Nat.two_pow_pos 32
theorem atomic (x0 : Nat) (x1 : Nat) : Statement (Instr.atomic x0 x1) := Nat.two_pow_pos 32
theorem publish (x0 : Nat) : Statement (Instr.publish x0) := Nat.two_pow_pos 32
theorem engineOpStart (x0 : Nat) (x1 : Nat) : Statement (Instr.engineOpStart x0 x1) := Nat.two_pow_pos 32
theorem engineOpComplete (x0 : Nat) (x1 : Nat) : Statement (Instr.engineOpComplete x0 x1) := Nat.two_pow_pos 32
theorem subscriptionAccept (x0 : Nat) : Statement (Instr.subscriptionAccept x0) := Nat.two_pow_pos 32
theorem loaderPublish (x0 : Nat) (x1 : Nat) : Statement (Instr.loaderPublish x0 x1) := Nat.two_pow_pos 32
theorem storerStore (x0 : Nat) (x1 : Nat) : Statement (Instr.storerStore x0 x1) := Nat.two_pow_pos 32
theorem oqEntryArrive (x0 : Nat) (x1 : Nat) : Statement (Instr.oqEntryArrive x0 x1) := Nat.two_pow_pos 32
theorem rdPacket (x0 : Nat) (x1 : Packet) (x2 : EccOutcome) : Statement (Instr.rdPacket x0 x1 x2) := Nat.two_pow_pos 32
theorem wrPacket (x0 : Nat) (x1 : Packet) : Statement (Instr.wrPacket x0 x1) := Nat.two_pow_pos 32
theorem atmPacket (x0 : Nat) (x1 : Packet) (x2 : Nat) : Statement (Instr.atmPacket x0 x1 x2) := Nat.two_pow_pos 32
theorem memoryReply (x0 : Nat) (x1 : Nat) (x2 : Nat) : Statement (Instr.memoryReply x0 x1 x2) := Nat.two_pow_pos 32
theorem perBankRefresh (x0 : Nat) (x1 : Nat) (x2 : Nat) : Statement (Instr.perBankRefresh x0 x1 x2) := Nat.two_pow_pos 32
theorem refreshComplete (x0 : Nat) (x1 : Nat) (x2 : Nat) : Statement (Instr.refreshComplete x0 x1 x2) := Nat.two_pow_pos 32
theorem patrolScrub (x0 : Nat) (x1 : EccOutcome) : Statement (Instr.patrolScrub x0 x1) := Nat.two_pow_pos 32
theorem lanternGateRow (x0 : Nat) : Statement (Instr.lanternGateRow x0) := Nat.two_pow_pos 32
theorem launchDoorbell (x0 : Nat) (x1 : Nat) (x2 : BitVec 512) : Statement (Instr.launchDoorbell x0 x1 x2) := Nat.two_pow_pos 32
theorem launchAccept : Statement Instr.launchAccept := Nat.two_pow_pos 32
theorem piecePlace (x0 : Nat) : Statement (Instr.piecePlace x0) := Nat.two_pow_pos 32
theorem pieceSplit (x0 : Nat) : Statement (Instr.pieceSplit x0) := Nat.two_pow_pos 32
theorem gangStarve (x0 : Nat) : Statement (Instr.gangStarve x0) := Nat.two_pow_pos 32
theorem crPop (x0 : Nat) (x1 : Nat) : Statement (Instr.crPop x0 x1) := Nat.two_pow_pos 32
theorem groupLeave : Statement Instr.groupLeave := Nat.two_pow_pos 32
theorem schedAgingBoost (x0 : Nat) : Statement (Instr.schedAgingBoost x0) := Nat.two_pow_pos 32
theorem scoreboardSquash (x0 : Nat) (x1 : Nat) : Statement (Instr.scoreboardSquash x0 x1) := Nat.two_pow_pos 32
theorem preemption (x0 : Nat) (x1 : Nat) : Statement (Instr.preemption x0 x1) := Nat.two_pow_pos 32
theorem preemptSave (x0 : Nat) : Statement (Instr.preemptSave x0) := Nat.two_pow_pos 32
theorem unitResume (x0 : Nat) (x1 : Nat) : Statement (Instr.unitResume x0 x1) := Nat.two_pow_pos 32
theorem wphaseSpill (x0 : Nat) : Statement (Instr.wphaseSpill x0) := Nat.two_pow_pos 32
theorem storageEccError (x0 : Nat) (x1 : Nat) (x2 : Nat) (x3 : BitVec 64) (x4 : Bool) : Statement (Instr.storageEccError x0 x1 x2 x3 x4) := Nat.two_pow_pos 32
theorem aaeLastingFault (x0 : Nat) (x1 : Nat) : Statement (Instr.aaeLastingFault x0 x1) := Nat.two_pow_pos 32
theorem rollback (x0 : Nat) : Statement (Instr.rollback x0) := Nat.two_pow_pos 32
theorem flitCrcError (x0 : Nat) : Statement (Instr.flitCrcError x0) := Nat.two_pow_pos 32
theorem portRetrain (x0 : Nat) : Statement (Instr.portRetrain x0) := Nat.two_pow_pos 32
theorem remoteTimeout (x0 : Nat) (x1 : Nat) : Statement (Instr.remoteTimeout x0 x1) := Nat.two_pow_pos 32
theorem fabricDeliver (x0 : FabMsg) : Statement (Instr.fabricDeliver x0) := Nat.two_pow_pos 32
theorem hostAccess (x0 : HostOp) : Statement (Instr.hostAccess x0) := Nat.two_pow_pos 32
theorem thermalHalt (x0 : Nat) : Statement (Instr.thermalHalt x0) := Nat.two_pow_pos 32
theorem thermalResume (x0 : Nat) : Statement (Instr.thermalResume x0) := Nat.two_pow_pos 32
theorem powerLimitThrottle (x0 : Nat) : Statement (Instr.powerLimitThrottle x0) := Nat.two_pow_pos 32
theorem bringUp (x0 : Option Nat) : Statement (Instr.bringUp x0) := Nat.two_pow_pos 32
theorem firmwareSwap (x0 : Nat) : Statement (Instr.firmwareSwap x0) := Nat.two_pow_pos 32
theorem summary (x0 : BitVec 32) (x1 : Nat) : Statement (Instr.summary x0 x1) := Nat.two_pow_pos 32
theorem ctxset (x0 : BitVec 32) (x1 : Nat) (x2 : CtxRec) : Statement (Instr.ctxset x0 x1 x2) := Nat.two_pow_pos 32
theorem inval (x0 : BitVec 32) (x1 : Nat) (x2 : BitVec 64) (x3 : Nat) (x4 : Nat) : Statement (Instr.inval x0 x1 x2 x3 x4) := Nat.two_pow_pos 32
theorem resolve (x0 : BitVec 32) (x1 : Nat) (x2 : Nat) : Statement (Instr.resolve x0 x1 x2) := Nat.two_pow_pos 32
theorem preempt (x0 : BitVec 32) (x1 : Nat) : Statement (Instr.preempt x0 x1) := Nat.two_pow_pos 32
theorem routebind (x0 : BitVec 32) (x1 : Nat) (x2 : Nat) (x3 : Nat) : Statement (Instr.routebind x0 x1 x2 x3) := Nat.two_pow_pos 32
theorem clrsuspect (x0 : BitVec 32) (x1 : Nat) : Statement (Instr.clrsuspect x0 x1) := Nat.two_pow_pos 32
theorem domain (x0 : BitVec 32) (x1 : Nat) (x2 : Nat) (x3 : Nat) : Statement (Instr.domain x0 x1 x2 x3) := Nat.two_pow_pos 32
theorem route (x0 : BitVec 32) (x1 : Nat) (x2 : BitVec 64) : Statement (Instr.route x0 x1 x2) := Nat.two_pow_pos 32
theorem fwload (x0 : BitVec 32) (x1 : Nat) (x2 : Nat) : Statement (Instr.fwload x0 x1 x2) := Nat.two_pow_pos 32
theorem attest (x0 : BitVec 32) (x1 : Nat) (x2 : Nat) : Statement (Instr.attest x0 x1 x2) := Nat.two_pow_pos 32
theorem wreset (x0 : BitVec 32) : Statement (Instr.wreset x0) := Nat.two_pow_pos 32
theorem scrub (x0 : BitVec 32) (x1 : Nat) (x2 : BitVec 64) : Statement (Instr.scrub x0 x1 x2) := Nat.two_pow_pos 32
theorem aaefence (x0 : BitVec 32) (x1 : Nat) (x2 : Nat) : Statement (Instr.aaefence x0 x1 x2) := Nat.two_pow_pos 32
theorem corestat (x0 : BitVec 32) (x1 : Nat) : Statement (Instr.corestat x0 x1) := Nat.two_pow_pos 32
theorem placementHomeApply (x0 : Nat) : Statement (Instr.placementHomeApply x0) := Nat.two_pow_pos 32
theorem matrixWordComplete (x0 : Nat) (x1 : Nat) (x2 : Nat) : Statement (Instr.matrixWordComplete x0 x1 x2) := Nat.two_pow_pos 32
theorem retrainComplete (x0 : Nat) (x1 : Bool) : Statement (Instr.retrainComplete x0 x1) := Nat.two_pow_pos 32

end Sys2Proof.Laws.EncodeRange
end

