-- ==== Sys2Proof/Laws/State.lean ====
section
/-! SUPPORT. What the named updates of the state leave as it was: one lemma per field per update. -/

namespace Sys2Proof.Machine

variable (s : State)

/-! ## wr -/

@[simp] theorem State.wr_others (n : Nat) (v : W64) : (s.wr n v).others = s.others := rfl
@[simp] theorem State.wr_teams (n : Nat) (v : W64) : (s.wr n v).teams = s.teams := rfl
@[simp] theorem State.wr_clusters (n : Nat) (v : W64) : (s.wr n v).clusters = s.clusters := rfl
@[simp] theorem State.wr_frames (n : Nat) (v : W64) : (s.wr n v).frames = s.frames := rfl
@[simp] theorem State.wr_tcbs (n : Nat) (v : W64) : (s.wr n v).tcbs = s.tcbs := rfl
@[simp] theorem State.wr_saved (n : Nat) (v : W64) : (s.wr n v).saved = s.saved := rfl
@[simp] theorem State.wr_cores (n : Nat) (v : W64) : (s.wr n v).cores = s.cores := rfl
@[simp] theorem State.wr_views (n : Nat) (v : W64) : (s.wr n v).views = s.views := rfl
@[simp] theorem State.wr_clk (n : Nat) (v : W64) : (s.wr n v).clk = s.clk := rfl
@[simp] theorem State.wr_nst (n : Nat) (v : W64) : (s.wr n v).nst = s.nst := rfl
@[simp] theorem State.wr_writes (n : Nat) (v : W64) : (s.wr n v).writes = s.writes := rfl
@[simp] theorem State.wr_chans (n : Nat) (v : W64) : (s.wr n v).chans = s.chans := rfl
@[simp] theorem State.wr_poison (n : Nat) (v : W64) : (s.wr n v).poison = s.poison := rfl
@[simp] theorem State.wr_tlb (n : Nat) (v : W64) : (s.wr n v).tlb = s.tlb := rfl
@[simp] theorem State.wr_scopes (n : Nat) (v : W64) : (s.wr n v).scopes = s.scopes := rfl
@[simp] theorem State.wr_icache (n : Nat) (v : W64) : (s.wr n v).icache = s.icache := rfl
@[simp] theorem State.wr_belfry (n : Nat) (v : W64) : (s.wr n v).belfry = s.belfry := rfl
@[simp] theorem State.wr_cups (n : Nat) (v : W64) : (s.wr n v).cups = s.cups := rfl
@[simp] theorem State.wr_streams (n : Nat) (v : W64) : (s.wr n v).streams = s.streams := rfl
@[simp] theorem State.wr_bags (n : Nat) (v : W64) : (s.wr n v).bags = s.bags := rfl
@[simp] theorem State.wr_iters (n : Nat) (v : W64) : (s.wr n v).iters = s.iters := rfl
@[simp] theorem State.wr_bagUndo (n : Nat) (v : W64) : (s.wr n v).bagUndo = s.bagUndo := rfl
@[simp] theorem State.wr_ctxs (n : Nat) (v : W64) : (s.wr n v).ctxs = s.ctxs := rfl
@[simp] theorem State.wr_lanterns (n : Nat) (v : W64) : (s.wr n v).lanterns = s.lanterns := rfl
@[simp] theorem State.wr_resv (n : Nat) (v : W64) : (s.wr n v).resv = s.resv := rfl
@[simp] theorem State.wr_roomAt (n : Nat) (v : W64) : (s.wr n v).roomAt = s.roomAt := rfl
@[simp] theorem State.wr_snaps (n : Nat) (v : W64) : (s.wr n v).snaps = s.snaps := rfl
@[simp] theorem State.wr_writers (n : Nat) (v : W64) : (s.wr n v).writers = s.writers := rfl
@[simp] theorem State.wr_mgmt (n : Nat) (v : W64) : (s.wr n v).mgmt = s.mgmt := rfl
@[simp] theorem State.wr_resp (n : Nat) (v : W64) : (s.wr n v).resp = s.resp := rfl
@[simp] theorem State.wr_ring (n : Nat) (v : W64) : (s.wr n v).ring = s.ring := rfl
@[simp] theorem State.wr_pend (n : Nat) (v : W64) : (s.wr n v).pend = s.pend := rfl
@[simp] theorem State.wr_cmds (n : Nat) (v : W64) : (s.wr n v).cmds = s.cmds := rfl
@[simp] theorem State.wr_lastCtx (n : Nat) (v : W64) : (s.wr n v).lastCtx = s.lastCtx := rfl
@[simp] theorem State.wr_compl (n : Nat) (v : W64) : (s.wr n v).compl = s.compl := rfl
@[simp] theorem State.wr_mirrored (n : Nat) (v : W64) : (s.wr n v).mirrored = s.mirrored := rfl
@[simp] theorem State.wr_mirrorSent (n : Nat) (v : W64) : (s.wr n v).mirrorSent = s.mirrorSent := rfl
@[simp] theorem State.wr_ports (n : Nat) (v : W64) : (s.wr n v).ports = s.ports := rfl
@[simp] theorem State.wr_hlink (n : Nat) (v : W64) : (s.wr n v).hlink = s.hlink := rfl
@[simp] theorem State.wr_routes (n : Nat) (v : W64) : (s.wr n v).routes = s.routes := rfl
@[simp] theorem State.wr_domain (n : Nat) (v : W64) : (s.wr n v).domain = s.domain := rfl
@[simp] theorem State.wr_hostSpan (n : Nat) (v : W64) : (s.wr n v).hostSpan = s.hostSpan := rfl
@[simp] theorem State.wr_mirror (n : Nat) (v : W64) : (s.wr n v).mirror = s.mirror := rfl
@[simp] theorem State.wr_fwver (n : Nat) (v : W64) : (s.wr n v).fwver = s.fwver := rfl
@[simp] theorem State.wr_fwdig (n : Nat) (v : W64) : (s.wr n v).fwdig = s.fwdig := rfl
@[simp] theorem State.wr_fwpend (n : Nat) (v : W64) : (s.wr n v).fwpend = s.fwpend := rfl
@[simp] theorem State.wr_halted (n : Nat) (v : W64) : (s.wr n v).halted = s.halted := rfl
@[simp] theorem State.wr_mhz (n : Nat) (v : W64) : (s.wr n v).mhz = s.mhz := rfl
@[simp] theorem State.wr_kstate (n : Nat) (v : W64) : (s.wr n v).kstate = s.kstate := rfl
@[simp] theorem State.wr_cycle (n : Nat) (v : W64) : (s.wr n v).cycle = s.cycle := rfl
@[simp] theorem State.wr_tick (n : Nat) (v : W64) : (s.wr n v).tick = s.tick := rfl
@[simp] theorem State.wr_nextId (n : Nat) (v : W64) : (s.wr n v).nextId = s.nextId := rfl
@[simp] theorem State.wr_agenda (n : Nat) (v : W64) : (s.wr n v).agenda = s.agenda := rfl

/-! ## setSl -/

@[simp] theorem State.setSl_others (f : Slice → Slice) : (s.setSl f).others = s.others := rfl
@[simp] theorem State.setSl_teams (f : Slice → Slice) : (s.setSl f).teams = s.teams := rfl
@[simp] theorem State.setSl_clusters (f : Slice → Slice) : (s.setSl f).clusters = s.clusters := rfl
@[simp] theorem State.setSl_frames (f : Slice → Slice) : (s.setSl f).frames = s.frames := rfl
@[simp] theorem State.setSl_tcbs (f : Slice → Slice) : (s.setSl f).tcbs = s.tcbs := rfl
@[simp] theorem State.setSl_saved (f : Slice → Slice) : (s.setSl f).saved = s.saved := rfl
@[simp] theorem State.setSl_cores (f : Slice → Slice) : (s.setSl f).cores = s.cores := rfl
@[simp] theorem State.setSl_views (f : Slice → Slice) : (s.setSl f).views = s.views := rfl
@[simp] theorem State.setSl_clk (f : Slice → Slice) : (s.setSl f).clk = s.clk := rfl
@[simp] theorem State.setSl_nst (f : Slice → Slice) : (s.setSl f).nst = s.nst := rfl
@[simp] theorem State.setSl_writes (f : Slice → Slice) : (s.setSl f).writes = s.writes := rfl
@[simp] theorem State.setSl_chans (f : Slice → Slice) : (s.setSl f).chans = s.chans := rfl
@[simp] theorem State.setSl_poison (f : Slice → Slice) : (s.setSl f).poison = s.poison := rfl
@[simp] theorem State.setSl_tlb (f : Slice → Slice) : (s.setSl f).tlb = s.tlb := rfl
@[simp] theorem State.setSl_scopes (f : Slice → Slice) : (s.setSl f).scopes = s.scopes := rfl
@[simp] theorem State.setSl_icache (f : Slice → Slice) : (s.setSl f).icache = s.icache := rfl
@[simp] theorem State.setSl_belfry (f : Slice → Slice) : (s.setSl f).belfry = s.belfry := rfl
@[simp] theorem State.setSl_cups (f : Slice → Slice) : (s.setSl f).cups = s.cups := rfl
@[simp] theorem State.setSl_streams (f : Slice → Slice) : (s.setSl f).streams = s.streams := rfl
@[simp] theorem State.setSl_bags (f : Slice → Slice) : (s.setSl f).bags = s.bags := rfl
@[simp] theorem State.setSl_iters (f : Slice → Slice) : (s.setSl f).iters = s.iters := rfl
@[simp] theorem State.setSl_bagUndo (f : Slice → Slice) : (s.setSl f).bagUndo = s.bagUndo := rfl
@[simp] theorem State.setSl_ctxs (f : Slice → Slice) : (s.setSl f).ctxs = s.ctxs := rfl
@[simp] theorem State.setSl_lanterns (f : Slice → Slice) : (s.setSl f).lanterns = s.lanterns := rfl
@[simp] theorem State.setSl_resv (f : Slice → Slice) : (s.setSl f).resv = s.resv := rfl
@[simp] theorem State.setSl_roomAt (f : Slice → Slice) : (s.setSl f).roomAt = s.roomAt := rfl
@[simp] theorem State.setSl_snaps (f : Slice → Slice) : (s.setSl f).snaps = s.snaps := rfl
@[simp] theorem State.setSl_writers (f : Slice → Slice) : (s.setSl f).writers = s.writers := rfl
@[simp] theorem State.setSl_mgmt (f : Slice → Slice) : (s.setSl f).mgmt = s.mgmt := rfl
@[simp] theorem State.setSl_resp (f : Slice → Slice) : (s.setSl f).resp = s.resp := rfl
@[simp] theorem State.setSl_ring (f : Slice → Slice) : (s.setSl f).ring = s.ring := rfl
@[simp] theorem State.setSl_pend (f : Slice → Slice) : (s.setSl f).pend = s.pend := rfl
@[simp] theorem State.setSl_cmds (f : Slice → Slice) : (s.setSl f).cmds = s.cmds := rfl
@[simp] theorem State.setSl_lastCtx (f : Slice → Slice) : (s.setSl f).lastCtx = s.lastCtx := rfl
@[simp] theorem State.setSl_compl (f : Slice → Slice) : (s.setSl f).compl = s.compl := rfl
@[simp] theorem State.setSl_mirrored (f : Slice → Slice) : (s.setSl f).mirrored = s.mirrored := rfl
@[simp] theorem State.setSl_mirrorSent (f : Slice → Slice) : (s.setSl f).mirrorSent = s.mirrorSent := rfl
@[simp] theorem State.setSl_ports (f : Slice → Slice) : (s.setSl f).ports = s.ports := rfl
@[simp] theorem State.setSl_hlink (f : Slice → Slice) : (s.setSl f).hlink = s.hlink := rfl
@[simp] theorem State.setSl_routes (f : Slice → Slice) : (s.setSl f).routes = s.routes := rfl
@[simp] theorem State.setSl_domain (f : Slice → Slice) : (s.setSl f).domain = s.domain := rfl
@[simp] theorem State.setSl_hostSpan (f : Slice → Slice) : (s.setSl f).hostSpan = s.hostSpan := rfl
@[simp] theorem State.setSl_mirror (f : Slice → Slice) : (s.setSl f).mirror = s.mirror := rfl
@[simp] theorem State.setSl_fwver (f : Slice → Slice) : (s.setSl f).fwver = s.fwver := rfl
@[simp] theorem State.setSl_fwdig (f : Slice → Slice) : (s.setSl f).fwdig = s.fwdig := rfl
@[simp] theorem State.setSl_fwpend (f : Slice → Slice) : (s.setSl f).fwpend = s.fwpend := rfl
@[simp] theorem State.setSl_halted (f : Slice → Slice) : (s.setSl f).halted = s.halted := rfl
@[simp] theorem State.setSl_mhz (f : Slice → Slice) : (s.setSl f).mhz = s.mhz := rfl
@[simp] theorem State.setSl_kstate (f : Slice → Slice) : (s.setSl f).kstate = s.kstate := rfl
@[simp] theorem State.setSl_cycle (f : Slice → Slice) : (s.setSl f).cycle = s.cycle := rfl
@[simp] theorem State.setSl_tick (f : Slice → Slice) : (s.setSl f).tick = s.tick := rfl
@[simp] theorem State.setSl_nextId (f : Slice → Slice) : (s.setSl f).nextId = s.nextId := rfl
@[simp] theorem State.setSl_agenda (f : Slice → Slice) : (s.setSl f).agenda = s.agenda := rfl

/-! ## setG -/

@[simp] theorem State.setG_others (f : Group → Group) : (s.setG f).others = s.others := rfl
@[simp] theorem State.setG_teams (f : Group → Group) : (s.setG f).teams = s.teams := rfl
@[simp] theorem State.setG_clusters (f : Group → Group) : (s.setG f).clusters = s.clusters := rfl
@[simp] theorem State.setG_frames (f : Group → Group) : (s.setG f).frames = s.frames := rfl
@[simp] theorem State.setG_tcbs (f : Group → Group) : (s.setG f).tcbs = s.tcbs := rfl
@[simp] theorem State.setG_saved (f : Group → Group) : (s.setG f).saved = s.saved := rfl
@[simp] theorem State.setG_cores (f : Group → Group) : (s.setG f).cores = s.cores := rfl
@[simp] theorem State.setG_views (f : Group → Group) : (s.setG f).views = s.views := rfl
@[simp] theorem State.setG_clk (f : Group → Group) : (s.setG f).clk = s.clk := rfl
@[simp] theorem State.setG_nst (f : Group → Group) : (s.setG f).nst = s.nst := rfl
@[simp] theorem State.setG_writes (f : Group → Group) : (s.setG f).writes = s.writes := rfl
@[simp] theorem State.setG_chans (f : Group → Group) : (s.setG f).chans = s.chans := rfl
@[simp] theorem State.setG_poison (f : Group → Group) : (s.setG f).poison = s.poison := rfl
@[simp] theorem State.setG_tlb (f : Group → Group) : (s.setG f).tlb = s.tlb := rfl
@[simp] theorem State.setG_scopes (f : Group → Group) : (s.setG f).scopes = s.scopes := rfl
@[simp] theorem State.setG_icache (f : Group → Group) : (s.setG f).icache = s.icache := rfl
@[simp] theorem State.setG_belfry (f : Group → Group) : (s.setG f).belfry = s.belfry := rfl
@[simp] theorem State.setG_cups (f : Group → Group) : (s.setG f).cups = s.cups := rfl
@[simp] theorem State.setG_streams (f : Group → Group) : (s.setG f).streams = s.streams := rfl
@[simp] theorem State.setG_bags (f : Group → Group) : (s.setG f).bags = s.bags := rfl
@[simp] theorem State.setG_iters (f : Group → Group) : (s.setG f).iters = s.iters := rfl
@[simp] theorem State.setG_bagUndo (f : Group → Group) : (s.setG f).bagUndo = s.bagUndo := rfl
@[simp] theorem State.setG_ctxs (f : Group → Group) : (s.setG f).ctxs = s.ctxs := rfl
@[simp] theorem State.setG_lanterns (f : Group → Group) : (s.setG f).lanterns = s.lanterns := rfl
@[simp] theorem State.setG_resv (f : Group → Group) : (s.setG f).resv = s.resv := rfl
@[simp] theorem State.setG_roomAt (f : Group → Group) : (s.setG f).roomAt = s.roomAt := rfl
@[simp] theorem State.setG_snaps (f : Group → Group) : (s.setG f).snaps = s.snaps := rfl
@[simp] theorem State.setG_writers (f : Group → Group) : (s.setG f).writers = s.writers := rfl
@[simp] theorem State.setG_mgmt (f : Group → Group) : (s.setG f).mgmt = s.mgmt := rfl
@[simp] theorem State.setG_resp (f : Group → Group) : (s.setG f).resp = s.resp := rfl
@[simp] theorem State.setG_ring (f : Group → Group) : (s.setG f).ring = s.ring := rfl
@[simp] theorem State.setG_pend (f : Group → Group) : (s.setG f).pend = s.pend := rfl
@[simp] theorem State.setG_cmds (f : Group → Group) : (s.setG f).cmds = s.cmds := rfl
@[simp] theorem State.setG_lastCtx (f : Group → Group) : (s.setG f).lastCtx = s.lastCtx := rfl
@[simp] theorem State.setG_compl (f : Group → Group) : (s.setG f).compl = s.compl := rfl
@[simp] theorem State.setG_mirrored (f : Group → Group) : (s.setG f).mirrored = s.mirrored := rfl
@[simp] theorem State.setG_mirrorSent (f : Group → Group) : (s.setG f).mirrorSent = s.mirrorSent := rfl
@[simp] theorem State.setG_ports (f : Group → Group) : (s.setG f).ports = s.ports := rfl
@[simp] theorem State.setG_hlink (f : Group → Group) : (s.setG f).hlink = s.hlink := rfl
@[simp] theorem State.setG_routes (f : Group → Group) : (s.setG f).routes = s.routes := rfl
@[simp] theorem State.setG_domain (f : Group → Group) : (s.setG f).domain = s.domain := rfl
@[simp] theorem State.setG_hostSpan (f : Group → Group) : (s.setG f).hostSpan = s.hostSpan := rfl
@[simp] theorem State.setG_mirror (f : Group → Group) : (s.setG f).mirror = s.mirror := rfl
@[simp] theorem State.setG_fwver (f : Group → Group) : (s.setG f).fwver = s.fwver := rfl
@[simp] theorem State.setG_fwdig (f : Group → Group) : (s.setG f).fwdig = s.fwdig := rfl
@[simp] theorem State.setG_fwpend (f : Group → Group) : (s.setG f).fwpend = s.fwpend := rfl
@[simp] theorem State.setG_halted (f : Group → Group) : (s.setG f).halted = s.halted := rfl
@[simp] theorem State.setG_mhz (f : Group → Group) : (s.setG f).mhz = s.mhz := rfl
@[simp] theorem State.setG_kstate (f : Group → Group) : (s.setG f).kstate = s.kstate := rfl
@[simp] theorem State.setG_cycle (f : Group → Group) : (s.setG f).cycle = s.cycle := rfl
@[simp] theorem State.setG_tick (f : Group → Group) : (s.setG f).tick = s.tick := rfl
@[simp] theorem State.setG_nextId (f : Group → Group) : (s.setG f).nextId = s.nextId := rfl
@[simp] theorem State.setG_agenda (f : Group → Group) : (s.setG f).agenda = s.agenda := rfl

/-! ## advance -/

@[simp] theorem State.advance_others : (s.advance).others = s.others := rfl
@[simp] theorem State.advance_teams : (s.advance).teams = s.teams := rfl
@[simp] theorem State.advance_clusters : (s.advance).clusters = s.clusters := rfl
@[simp] theorem State.advance_frames : (s.advance).frames = s.frames := rfl
@[simp] theorem State.advance_tcbs : (s.advance).tcbs = s.tcbs := rfl
@[simp] theorem State.advance_saved : (s.advance).saved = s.saved := rfl
@[simp] theorem State.advance_cores : (s.advance).cores = s.cores := rfl
@[simp] theorem State.advance_views : (s.advance).views = s.views := rfl
@[simp] theorem State.advance_clk : (s.advance).clk = s.clk := rfl
@[simp] theorem State.advance_nst : (s.advance).nst = s.nst := rfl
@[simp] theorem State.advance_writes : (s.advance).writes = s.writes := rfl
@[simp] theorem State.advance_chans : (s.advance).chans = s.chans := rfl
@[simp] theorem State.advance_poison : (s.advance).poison = s.poison := rfl
@[simp] theorem State.advance_tlb : (s.advance).tlb = s.tlb := rfl
@[simp] theorem State.advance_scopes : (s.advance).scopes = s.scopes := rfl
@[simp] theorem State.advance_icache : (s.advance).icache = s.icache := rfl
@[simp] theorem State.advance_belfry : (s.advance).belfry = s.belfry := rfl
@[simp] theorem State.advance_cups : (s.advance).cups = s.cups := rfl
@[simp] theorem State.advance_streams : (s.advance).streams = s.streams := rfl
@[simp] theorem State.advance_bags : (s.advance).bags = s.bags := rfl
@[simp] theorem State.advance_iters : (s.advance).iters = s.iters := rfl
@[simp] theorem State.advance_bagUndo : (s.advance).bagUndo = s.bagUndo := rfl
@[simp] theorem State.advance_ctxs : (s.advance).ctxs = s.ctxs := rfl
@[simp] theorem State.advance_lanterns : (s.advance).lanterns = s.lanterns := rfl
@[simp] theorem State.advance_resv : (s.advance).resv = s.resv := rfl
@[simp] theorem State.advance_roomAt : (s.advance).roomAt = s.roomAt := rfl
@[simp] theorem State.advance_snaps : (s.advance).snaps = s.snaps := rfl
@[simp] theorem State.advance_writers : (s.advance).writers = s.writers := rfl
@[simp] theorem State.advance_mgmt : (s.advance).mgmt = s.mgmt := rfl
@[simp] theorem State.advance_resp : (s.advance).resp = s.resp := rfl
@[simp] theorem State.advance_ring : (s.advance).ring = s.ring := rfl
@[simp] theorem State.advance_pend : (s.advance).pend = s.pend := rfl
@[simp] theorem State.advance_cmds : (s.advance).cmds = s.cmds := rfl
@[simp] theorem State.advance_lastCtx : (s.advance).lastCtx = s.lastCtx := rfl
@[simp] theorem State.advance_compl : (s.advance).compl = s.compl := rfl
@[simp] theorem State.advance_mirrored : (s.advance).mirrored = s.mirrored := rfl
@[simp] theorem State.advance_mirrorSent : (s.advance).mirrorSent = s.mirrorSent := rfl
@[simp] theorem State.advance_ports : (s.advance).ports = s.ports := rfl
@[simp] theorem State.advance_hlink : (s.advance).hlink = s.hlink := rfl
@[simp] theorem State.advance_routes : (s.advance).routes = s.routes := rfl
@[simp] theorem State.advance_domain : (s.advance).domain = s.domain := rfl
@[simp] theorem State.advance_hostSpan : (s.advance).hostSpan = s.hostSpan := rfl
@[simp] theorem State.advance_mirror : (s.advance).mirror = s.mirror := rfl
@[simp] theorem State.advance_fwver : (s.advance).fwver = s.fwver := rfl
@[simp] theorem State.advance_fwdig : (s.advance).fwdig = s.fwdig := rfl
@[simp] theorem State.advance_fwpend : (s.advance).fwpend = s.fwpend := rfl
@[simp] theorem State.advance_halted : (s.advance).halted = s.halted := rfl
@[simp] theorem State.advance_mhz : (s.advance).mhz = s.mhz := rfl
@[simp] theorem State.advance_kstate : (s.advance).kstate = s.kstate := rfl
@[simp] theorem State.advance_cycle : (s.advance).cycle = s.cycle := rfl
@[simp] theorem State.advance_tick : (s.advance).tick = s.tick := rfl
@[simp] theorem State.advance_nextId : (s.advance).nextId = s.nextId := rfl
@[simp] theorem State.advance_agenda : (s.advance).agenda = s.agenda := rfl

/-! ## branch -/

@[simp] theorem State.branch_others (t : Nat → W64) : (s.branch t).others = s.others := rfl
@[simp] theorem State.branch_teams (t : Nat → W64) : (s.branch t).teams = s.teams := rfl
@[simp] theorem State.branch_clusters (t : Nat → W64) : (s.branch t).clusters = s.clusters := rfl
@[simp] theorem State.branch_frames (t : Nat → W64) : (s.branch t).frames = s.frames := rfl
@[simp] theorem State.branch_tcbs (t : Nat → W64) : (s.branch t).tcbs = s.tcbs := rfl
@[simp] theorem State.branch_saved (t : Nat → W64) : (s.branch t).saved = s.saved := rfl
@[simp] theorem State.branch_cores (t : Nat → W64) : (s.branch t).cores = s.cores := rfl
@[simp] theorem State.branch_views (t : Nat → W64) : (s.branch t).views = s.views := rfl
@[simp] theorem State.branch_clk (t : Nat → W64) : (s.branch t).clk = s.clk := rfl
@[simp] theorem State.branch_nst (t : Nat → W64) : (s.branch t).nst = s.nst := rfl
@[simp] theorem State.branch_writes (t : Nat → W64) : (s.branch t).writes = s.writes := rfl
@[simp] theorem State.branch_chans (t : Nat → W64) : (s.branch t).chans = s.chans := rfl
@[simp] theorem State.branch_poison (t : Nat → W64) : (s.branch t).poison = s.poison := rfl
@[simp] theorem State.branch_tlb (t : Nat → W64) : (s.branch t).tlb = s.tlb := rfl
@[simp] theorem State.branch_scopes (t : Nat → W64) : (s.branch t).scopes = s.scopes := rfl
@[simp] theorem State.branch_icache (t : Nat → W64) : (s.branch t).icache = s.icache := rfl
@[simp] theorem State.branch_belfry (t : Nat → W64) : (s.branch t).belfry = s.belfry := rfl
@[simp] theorem State.branch_cups (t : Nat → W64) : (s.branch t).cups = s.cups := rfl
@[simp] theorem State.branch_streams (t : Nat → W64) : (s.branch t).streams = s.streams := rfl
@[simp] theorem State.branch_bags (t : Nat → W64) : (s.branch t).bags = s.bags := rfl
@[simp] theorem State.branch_iters (t : Nat → W64) : (s.branch t).iters = s.iters := rfl
@[simp] theorem State.branch_bagUndo (t : Nat → W64) : (s.branch t).bagUndo = s.bagUndo := rfl
@[simp] theorem State.branch_ctxs (t : Nat → W64) : (s.branch t).ctxs = s.ctxs := rfl
@[simp] theorem State.branch_lanterns (t : Nat → W64) : (s.branch t).lanterns = s.lanterns := rfl
@[simp] theorem State.branch_resv (t : Nat → W64) : (s.branch t).resv = s.resv := rfl
@[simp] theorem State.branch_roomAt (t : Nat → W64) : (s.branch t).roomAt = s.roomAt := rfl
@[simp] theorem State.branch_snaps (t : Nat → W64) : (s.branch t).snaps = s.snaps := rfl
@[simp] theorem State.branch_writers (t : Nat → W64) : (s.branch t).writers = s.writers := rfl
@[simp] theorem State.branch_mgmt (t : Nat → W64) : (s.branch t).mgmt = s.mgmt := rfl
@[simp] theorem State.branch_resp (t : Nat → W64) : (s.branch t).resp = s.resp := rfl
@[simp] theorem State.branch_ring (t : Nat → W64) : (s.branch t).ring = s.ring := rfl
@[simp] theorem State.branch_pend (t : Nat → W64) : (s.branch t).pend = s.pend := rfl
@[simp] theorem State.branch_cmds (t : Nat → W64) : (s.branch t).cmds = s.cmds := rfl
@[simp] theorem State.branch_lastCtx (t : Nat → W64) : (s.branch t).lastCtx = s.lastCtx := rfl
@[simp] theorem State.branch_compl (t : Nat → W64) : (s.branch t).compl = s.compl := rfl
@[simp] theorem State.branch_mirrored (t : Nat → W64) : (s.branch t).mirrored = s.mirrored := rfl
@[simp] theorem State.branch_mirrorSent (t : Nat → W64) : (s.branch t).mirrorSent = s.mirrorSent := rfl
@[simp] theorem State.branch_ports (t : Nat → W64) : (s.branch t).ports = s.ports := rfl
@[simp] theorem State.branch_hlink (t : Nat → W64) : (s.branch t).hlink = s.hlink := rfl
@[simp] theorem State.branch_routes (t : Nat → W64) : (s.branch t).routes = s.routes := rfl
@[simp] theorem State.branch_domain (t : Nat → W64) : (s.branch t).domain = s.domain := rfl
@[simp] theorem State.branch_hostSpan (t : Nat → W64) : (s.branch t).hostSpan = s.hostSpan := rfl
@[simp] theorem State.branch_mirror (t : Nat → W64) : (s.branch t).mirror = s.mirror := rfl
@[simp] theorem State.branch_fwver (t : Nat → W64) : (s.branch t).fwver = s.fwver := rfl
@[simp] theorem State.branch_fwdig (t : Nat → W64) : (s.branch t).fwdig = s.fwdig := rfl
@[simp] theorem State.branch_fwpend (t : Nat → W64) : (s.branch t).fwpend = s.fwpend := rfl
@[simp] theorem State.branch_halted (t : Nat → W64) : (s.branch t).halted = s.halted := rfl
@[simp] theorem State.branch_mhz (t : Nat → W64) : (s.branch t).mhz = s.mhz := rfl
@[simp] theorem State.branch_kstate (t : Nat → W64) : (s.branch t).kstate = s.kstate := rfl
@[simp] theorem State.branch_cycle (t : Nat → W64) : (s.branch t).cycle = s.cycle := rfl
@[simp] theorem State.branch_tick (t : Nat → W64) : (s.branch t).tick = s.tick := rfl
@[simp] theorem State.branch_nextId (t : Nat → W64) : (s.branch t).nextId = s.nextId := rfl
@[simp] theorem State.branch_agenda (t : Nat → W64) : (s.branch t).agenda = s.agenda := rfl

/-! ## setWait -/

@[simp] theorem State.setWait_others (f : Option Nat) (w : Wait) : (s.setWait f w).others = s.others := rfl
@[simp] theorem State.setWait_teams (f : Option Nat) (w : Wait) : (s.setWait f w).teams = s.teams := rfl
@[simp] theorem State.setWait_clusters (f : Option Nat) (w : Wait) : (s.setWait f w).clusters = s.clusters := rfl
@[simp] theorem State.setWait_frames (f : Option Nat) (w : Wait) : (s.setWait f w).frames = s.frames := rfl
@[simp] theorem State.setWait_tcbs (f : Option Nat) (w : Wait) : (s.setWait f w).tcbs = s.tcbs := rfl
@[simp] theorem State.setWait_saved (f : Option Nat) (w : Wait) : (s.setWait f w).saved = s.saved := rfl
@[simp] theorem State.setWait_cores (f : Option Nat) (w : Wait) : (s.setWait f w).cores = s.cores := rfl
@[simp] theorem State.setWait_views (f : Option Nat) (w : Wait) : (s.setWait f w).views = s.views := rfl
@[simp] theorem State.setWait_clk (f : Option Nat) (w : Wait) : (s.setWait f w).clk = s.clk := rfl
@[simp] theorem State.setWait_nst (f : Option Nat) (w : Wait) : (s.setWait f w).nst = s.nst := rfl
@[simp] theorem State.setWait_writes (f : Option Nat) (w : Wait) : (s.setWait f w).writes = s.writes := rfl
@[simp] theorem State.setWait_chans (f : Option Nat) (w : Wait) : (s.setWait f w).chans = s.chans := rfl
@[simp] theorem State.setWait_poison (f : Option Nat) (w : Wait) : (s.setWait f w).poison = s.poison := rfl
@[simp] theorem State.setWait_tlb (f : Option Nat) (w : Wait) : (s.setWait f w).tlb = s.tlb := rfl
@[simp] theorem State.setWait_scopes (f : Option Nat) (w : Wait) : (s.setWait f w).scopes = s.scopes := rfl
@[simp] theorem State.setWait_icache (f : Option Nat) (w : Wait) : (s.setWait f w).icache = s.icache := rfl
@[simp] theorem State.setWait_belfry (f : Option Nat) (w : Wait) : (s.setWait f w).belfry = s.belfry := rfl
@[simp] theorem State.setWait_cups (f : Option Nat) (w : Wait) : (s.setWait f w).cups = s.cups := rfl
@[simp] theorem State.setWait_streams (f : Option Nat) (w : Wait) : (s.setWait f w).streams = s.streams := rfl
@[simp] theorem State.setWait_bags (f : Option Nat) (w : Wait) : (s.setWait f w).bags = s.bags := rfl
@[simp] theorem State.setWait_iters (f : Option Nat) (w : Wait) : (s.setWait f w).iters = s.iters := rfl
@[simp] theorem State.setWait_bagUndo (f : Option Nat) (w : Wait) : (s.setWait f w).bagUndo = s.bagUndo := rfl
@[simp] theorem State.setWait_ctxs (f : Option Nat) (w : Wait) : (s.setWait f w).ctxs = s.ctxs := rfl
@[simp] theorem State.setWait_lanterns (f : Option Nat) (w : Wait) : (s.setWait f w).lanterns = s.lanterns := rfl
@[simp] theorem State.setWait_resv (f : Option Nat) (w : Wait) : (s.setWait f w).resv = s.resv := rfl
@[simp] theorem State.setWait_roomAt (f : Option Nat) (w : Wait) : (s.setWait f w).roomAt = s.roomAt := rfl
@[simp] theorem State.setWait_snaps (f : Option Nat) (w : Wait) : (s.setWait f w).snaps = s.snaps := rfl
@[simp] theorem State.setWait_writers (f : Option Nat) (w : Wait) : (s.setWait f w).writers = s.writers := rfl
@[simp] theorem State.setWait_mgmt (f : Option Nat) (w : Wait) : (s.setWait f w).mgmt = s.mgmt := rfl
@[simp] theorem State.setWait_resp (f : Option Nat) (w : Wait) : (s.setWait f w).resp = s.resp := rfl
@[simp] theorem State.setWait_ring (f : Option Nat) (w : Wait) : (s.setWait f w).ring = s.ring := rfl
@[simp] theorem State.setWait_pend (f : Option Nat) (w : Wait) : (s.setWait f w).pend = s.pend := rfl
@[simp] theorem State.setWait_cmds (f : Option Nat) (w : Wait) : (s.setWait f w).cmds = s.cmds := rfl
@[simp] theorem State.setWait_lastCtx (f : Option Nat) (w : Wait) : (s.setWait f w).lastCtx = s.lastCtx := rfl
@[simp] theorem State.setWait_compl (f : Option Nat) (w : Wait) : (s.setWait f w).compl = s.compl := rfl
@[simp] theorem State.setWait_mirrored (f : Option Nat) (w : Wait) : (s.setWait f w).mirrored = s.mirrored := rfl
@[simp] theorem State.setWait_mirrorSent (f : Option Nat) (w : Wait) : (s.setWait f w).mirrorSent = s.mirrorSent := rfl
@[simp] theorem State.setWait_ports (f : Option Nat) (w : Wait) : (s.setWait f w).ports = s.ports := rfl
@[simp] theorem State.setWait_hlink (f : Option Nat) (w : Wait) : (s.setWait f w).hlink = s.hlink := rfl
@[simp] theorem State.setWait_routes (f : Option Nat) (w : Wait) : (s.setWait f w).routes = s.routes := rfl
@[simp] theorem State.setWait_domain (f : Option Nat) (w : Wait) : (s.setWait f w).domain = s.domain := rfl
@[simp] theorem State.setWait_hostSpan (f : Option Nat) (w : Wait) : (s.setWait f w).hostSpan = s.hostSpan := rfl
@[simp] theorem State.setWait_mirror (f : Option Nat) (w : Wait) : (s.setWait f w).mirror = s.mirror := rfl
@[simp] theorem State.setWait_fwver (f : Option Nat) (w : Wait) : (s.setWait f w).fwver = s.fwver := rfl
@[simp] theorem State.setWait_fwdig (f : Option Nat) (w : Wait) : (s.setWait f w).fwdig = s.fwdig := rfl
@[simp] theorem State.setWait_fwpend (f : Option Nat) (w : Wait) : (s.setWait f w).fwpend = s.fwpend := rfl
@[simp] theorem State.setWait_halted (f : Option Nat) (w : Wait) : (s.setWait f w).halted = s.halted := rfl
@[simp] theorem State.setWait_mhz (f : Option Nat) (w : Wait) : (s.setWait f w).mhz = s.mhz := rfl
@[simp] theorem State.setWait_kstate (f : Option Nat) (w : Wait) : (s.setWait f w).kstate = s.kstate := rfl
@[simp] theorem State.setWait_cycle (f : Option Nat) (w : Wait) : (s.setWait f w).cycle = s.cycle := rfl
@[simp] theorem State.setWait_tick (f : Option Nat) (w : Wait) : (s.setWait f w).tick = s.tick := rfl
@[simp] theorem State.setWait_nextId (f : Option Nat) (w : Wait) : (s.setWait f w).nextId = s.nextId := rfl
@[simp] theorem State.setWait_agenda (f : Option Nat) (w : Wait) : (s.setWait f w).agenda = s.agenda := rfl

/-! ## clearWait -/

@[simp] theorem State.clearWait_others : (s.clearWait).others = s.others := rfl
@[simp] theorem State.clearWait_teams : (s.clearWait).teams = s.teams := rfl
@[simp] theorem State.clearWait_clusters : (s.clearWait).clusters = s.clusters := rfl
@[simp] theorem State.clearWait_frames : (s.clearWait).frames = s.frames := rfl
@[simp] theorem State.clearWait_tcbs : (s.clearWait).tcbs = s.tcbs := rfl
@[simp] theorem State.clearWait_saved : (s.clearWait).saved = s.saved := rfl
@[simp] theorem State.clearWait_cores : (s.clearWait).cores = s.cores := rfl
@[simp] theorem State.clearWait_views : (s.clearWait).views = s.views := rfl
@[simp] theorem State.clearWait_clk : (s.clearWait).clk = s.clk := rfl
@[simp] theorem State.clearWait_nst : (s.clearWait).nst = s.nst := rfl
@[simp] theorem State.clearWait_writes : (s.clearWait).writes = s.writes := rfl
@[simp] theorem State.clearWait_chans : (s.clearWait).chans = s.chans := rfl
@[simp] theorem State.clearWait_poison : (s.clearWait).poison = s.poison := rfl
@[simp] theorem State.clearWait_tlb : (s.clearWait).tlb = s.tlb := rfl
@[simp] theorem State.clearWait_scopes : (s.clearWait).scopes = s.scopes := rfl
@[simp] theorem State.clearWait_icache : (s.clearWait).icache = s.icache := rfl
@[simp] theorem State.clearWait_belfry : (s.clearWait).belfry = s.belfry := rfl
@[simp] theorem State.clearWait_cups : (s.clearWait).cups = s.cups := rfl
@[simp] theorem State.clearWait_streams : (s.clearWait).streams = s.streams := rfl
@[simp] theorem State.clearWait_bags : (s.clearWait).bags = s.bags := rfl
@[simp] theorem State.clearWait_iters : (s.clearWait).iters = s.iters := rfl
@[simp] theorem State.clearWait_bagUndo : (s.clearWait).bagUndo = s.bagUndo := rfl
@[simp] theorem State.clearWait_ctxs : (s.clearWait).ctxs = s.ctxs := rfl
@[simp] theorem State.clearWait_lanterns : (s.clearWait).lanterns = s.lanterns := rfl
@[simp] theorem State.clearWait_resv : (s.clearWait).resv = s.resv := rfl
@[simp] theorem State.clearWait_roomAt : (s.clearWait).roomAt = s.roomAt := rfl
@[simp] theorem State.clearWait_snaps : (s.clearWait).snaps = s.snaps := rfl
@[simp] theorem State.clearWait_writers : (s.clearWait).writers = s.writers := rfl
@[simp] theorem State.clearWait_mgmt : (s.clearWait).mgmt = s.mgmt := rfl
@[simp] theorem State.clearWait_resp : (s.clearWait).resp = s.resp := rfl
@[simp] theorem State.clearWait_ring : (s.clearWait).ring = s.ring := rfl
@[simp] theorem State.clearWait_pend : (s.clearWait).pend = s.pend := rfl
@[simp] theorem State.clearWait_cmds : (s.clearWait).cmds = s.cmds := rfl
@[simp] theorem State.clearWait_lastCtx : (s.clearWait).lastCtx = s.lastCtx := rfl
@[simp] theorem State.clearWait_compl : (s.clearWait).compl = s.compl := rfl
@[simp] theorem State.clearWait_mirrored : (s.clearWait).mirrored = s.mirrored := rfl
@[simp] theorem State.clearWait_mirrorSent : (s.clearWait).mirrorSent = s.mirrorSent := rfl
@[simp] theorem State.clearWait_ports : (s.clearWait).ports = s.ports := rfl
@[simp] theorem State.clearWait_hlink : (s.clearWait).hlink = s.hlink := rfl
@[simp] theorem State.clearWait_routes : (s.clearWait).routes = s.routes := rfl
@[simp] theorem State.clearWait_domain : (s.clearWait).domain = s.domain := rfl
@[simp] theorem State.clearWait_hostSpan : (s.clearWait).hostSpan = s.hostSpan := rfl
@[simp] theorem State.clearWait_mirror : (s.clearWait).mirror = s.mirror := rfl
@[simp] theorem State.clearWait_fwver : (s.clearWait).fwver = s.fwver := rfl
@[simp] theorem State.clearWait_fwdig : (s.clearWait).fwdig = s.fwdig := rfl
@[simp] theorem State.clearWait_fwpend : (s.clearWait).fwpend = s.fwpend := rfl
@[simp] theorem State.clearWait_halted : (s.clearWait).halted = s.halted := rfl
@[simp] theorem State.clearWait_mhz : (s.clearWait).mhz = s.mhz := rfl
@[simp] theorem State.clearWait_kstate : (s.clearWait).kstate = s.kstate := rfl
@[simp] theorem State.clearWait_cycle : (s.clearWait).cycle = s.cycle := rfl
@[simp] theorem State.clearWait_tick : (s.clearWait).tick = s.tick := rfl
@[simp] theorem State.clearWait_nextId : (s.clearWait).nextId = s.nextId := rfl
@[simp] theorem State.clearWait_agenda : (s.clearWait).agenda = s.agenda := rfl

/-! ## complete' -/

@[simp] theorem State.complete'_others : (s.complete').others = s.others := rfl
@[simp] theorem State.complete'_teams : (s.complete').teams = s.teams := rfl
@[simp] theorem State.complete'_clusters : (s.complete').clusters = s.clusters := rfl
@[simp] theorem State.complete'_frames : (s.complete').frames = s.frames := rfl
@[simp] theorem State.complete'_tcbs : (s.complete').tcbs = s.tcbs := rfl
@[simp] theorem State.complete'_saved : (s.complete').saved = s.saved := rfl
@[simp] theorem State.complete'_cores : (s.complete').cores = s.cores := rfl
@[simp] theorem State.complete'_views : (s.complete').views = s.views := rfl
@[simp] theorem State.complete'_clk : (s.complete').clk = s.clk := rfl
@[simp] theorem State.complete'_nst : (s.complete').nst = s.nst := rfl
@[simp] theorem State.complete'_writes : (s.complete').writes = s.writes := rfl
@[simp] theorem State.complete'_chans : (s.complete').chans = s.chans := rfl
@[simp] theorem State.complete'_poison : (s.complete').poison = s.poison := rfl
@[simp] theorem State.complete'_tlb : (s.complete').tlb = s.tlb := rfl
@[simp] theorem State.complete'_scopes : (s.complete').scopes = s.scopes := rfl
@[simp] theorem State.complete'_icache : (s.complete').icache = s.icache := rfl
@[simp] theorem State.complete'_belfry : (s.complete').belfry = s.belfry := rfl
@[simp] theorem State.complete'_cups : (s.complete').cups = s.cups := rfl
@[simp] theorem State.complete'_streams : (s.complete').streams = s.streams := rfl
@[simp] theorem State.complete'_bags : (s.complete').bags = s.bags := rfl
@[simp] theorem State.complete'_iters : (s.complete').iters = s.iters := rfl
@[simp] theorem State.complete'_bagUndo : (s.complete').bagUndo = s.bagUndo := rfl
@[simp] theorem State.complete'_ctxs : (s.complete').ctxs = s.ctxs := rfl
@[simp] theorem State.complete'_lanterns : (s.complete').lanterns = s.lanterns := rfl
@[simp] theorem State.complete'_resv : (s.complete').resv = s.resv := rfl
@[simp] theorem State.complete'_roomAt : (s.complete').roomAt = s.roomAt := rfl
@[simp] theorem State.complete'_snaps : (s.complete').snaps = s.snaps := rfl
@[simp] theorem State.complete'_writers : (s.complete').writers = s.writers := rfl
@[simp] theorem State.complete'_mgmt : (s.complete').mgmt = s.mgmt := rfl
@[simp] theorem State.complete'_resp : (s.complete').resp = s.resp := rfl
@[simp] theorem State.complete'_ring : (s.complete').ring = s.ring := rfl
@[simp] theorem State.complete'_pend : (s.complete').pend = s.pend := rfl
@[simp] theorem State.complete'_cmds : (s.complete').cmds = s.cmds := rfl
@[simp] theorem State.complete'_lastCtx : (s.complete').lastCtx = s.lastCtx := rfl
@[simp] theorem State.complete'_compl : (s.complete').compl = s.compl := rfl
@[simp] theorem State.complete'_mirrored : (s.complete').mirrored = s.mirrored := rfl
@[simp] theorem State.complete'_mirrorSent : (s.complete').mirrorSent = s.mirrorSent := rfl
@[simp] theorem State.complete'_ports : (s.complete').ports = s.ports := rfl
@[simp] theorem State.complete'_hlink : (s.complete').hlink = s.hlink := rfl
@[simp] theorem State.complete'_routes : (s.complete').routes = s.routes := rfl
@[simp] theorem State.complete'_domain : (s.complete').domain = s.domain := rfl
@[simp] theorem State.complete'_hostSpan : (s.complete').hostSpan = s.hostSpan := rfl
@[simp] theorem State.complete'_mirror : (s.complete').mirror = s.mirror := rfl
@[simp] theorem State.complete'_fwver : (s.complete').fwver = s.fwver := rfl
@[simp] theorem State.complete'_fwdig : (s.complete').fwdig = s.fwdig := rfl
@[simp] theorem State.complete'_fwpend : (s.complete').fwpend = s.fwpend := rfl
@[simp] theorem State.complete'_halted : (s.complete').halted = s.halted := rfl
@[simp] theorem State.complete'_mhz : (s.complete').mhz = s.mhz := rfl
@[simp] theorem State.complete'_kstate : (s.complete').kstate = s.kstate := rfl
@[simp] theorem State.complete'_cycle : (s.complete').cycle = s.cycle := rfl
@[simp] theorem State.complete'_tick : (s.complete').tick = s.tick := rfl
@[simp] theorem State.complete'_nextId : (s.complete').nextId = s.nextId := rfl
@[simp] theorem State.complete'_agenda : (s.complete').agenda = s.agenda := rfl

/-! ## issue -/

@[simp] theorem State.issue_others (k : OpKind) (f : Option Nat) (a : List Access) : (s.issue k f a).others = s.others := rfl
@[simp] theorem State.issue_teams (k : OpKind) (f : Option Nat) (a : List Access) : (s.issue k f a).teams = s.teams := rfl
@[simp] theorem State.issue_clusters (k : OpKind) (f : Option Nat) (a : List Access) : (s.issue k f a).clusters = s.clusters := rfl
@[simp] theorem State.issue_frames (k : OpKind) (f : Option Nat) (a : List Access) : (s.issue k f a).frames = s.frames := rfl
@[simp] theorem State.issue_tcbs (k : OpKind) (f : Option Nat) (a : List Access) : (s.issue k f a).tcbs = s.tcbs := rfl
@[simp] theorem State.issue_saved (k : OpKind) (f : Option Nat) (a : List Access) : (s.issue k f a).saved = s.saved := rfl
@[simp] theorem State.issue_cores (k : OpKind) (f : Option Nat) (a : List Access) : (s.issue k f a).cores = s.cores := rfl
@[simp] theorem State.issue_views (k : OpKind) (f : Option Nat) (a : List Access) : (s.issue k f a).views = s.views := rfl
@[simp] theorem State.issue_clk (k : OpKind) (f : Option Nat) (a : List Access) : (s.issue k f a).clk = s.clk := rfl
@[simp] theorem State.issue_nst (k : OpKind) (f : Option Nat) (a : List Access) : (s.issue k f a).nst = s.nst := rfl
@[simp] theorem State.issue_writes (k : OpKind) (f : Option Nat) (a : List Access) : (s.issue k f a).writes = s.writes := rfl
@[simp] theorem State.issue_chans (k : OpKind) (f : Option Nat) (a : List Access) : (s.issue k f a).chans = s.chans := rfl
@[simp] theorem State.issue_poison (k : OpKind) (f : Option Nat) (a : List Access) : (s.issue k f a).poison = s.poison := rfl
@[simp] theorem State.issue_tlb (k : OpKind) (f : Option Nat) (a : List Access) : (s.issue k f a).tlb = s.tlb := rfl
@[simp] theorem State.issue_scopes (k : OpKind) (f : Option Nat) (a : List Access) : (s.issue k f a).scopes = s.scopes := rfl
@[simp] theorem State.issue_icache (k : OpKind) (f : Option Nat) (a : List Access) : (s.issue k f a).icache = s.icache := rfl
@[simp] theorem State.issue_belfry (k : OpKind) (f : Option Nat) (a : List Access) : (s.issue k f a).belfry = s.belfry := rfl
@[simp] theorem State.issue_cups (k : OpKind) (f : Option Nat) (a : List Access) : (s.issue k f a).cups = s.cups := rfl
@[simp] theorem State.issue_streams (k : OpKind) (f : Option Nat) (a : List Access) : (s.issue k f a).streams = s.streams := rfl
@[simp] theorem State.issue_bags (k : OpKind) (f : Option Nat) (a : List Access) : (s.issue k f a).bags = s.bags := rfl
@[simp] theorem State.issue_iters (k : OpKind) (f : Option Nat) (a : List Access) : (s.issue k f a).iters = s.iters := rfl
@[simp] theorem State.issue_bagUndo (k : OpKind) (f : Option Nat) (a : List Access) : (s.issue k f a).bagUndo = s.bagUndo := rfl
@[simp] theorem State.issue_ctxs (k : OpKind) (f : Option Nat) (a : List Access) : (s.issue k f a).ctxs = s.ctxs := rfl
@[simp] theorem State.issue_lanterns (k : OpKind) (f : Option Nat) (a : List Access) : (s.issue k f a).lanterns = s.lanterns := rfl
@[simp] theorem State.issue_resv (k : OpKind) (f : Option Nat) (a : List Access) : (s.issue k f a).resv = s.resv := rfl
@[simp] theorem State.issue_roomAt (k : OpKind) (f : Option Nat) (a : List Access) : (s.issue k f a).roomAt = s.roomAt := rfl
@[simp] theorem State.issue_snaps (k : OpKind) (f : Option Nat) (a : List Access) : (s.issue k f a).snaps = s.snaps := rfl
@[simp] theorem State.issue_writers (k : OpKind) (f : Option Nat) (a : List Access) : (s.issue k f a).writers = s.writers := rfl
@[simp] theorem State.issue_mgmt (k : OpKind) (f : Option Nat) (a : List Access) : (s.issue k f a).mgmt = s.mgmt := rfl
@[simp] theorem State.issue_resp (k : OpKind) (f : Option Nat) (a : List Access) : (s.issue k f a).resp = s.resp := rfl
@[simp] theorem State.issue_ring (k : OpKind) (f : Option Nat) (a : List Access) : (s.issue k f a).ring = s.ring := rfl
@[simp] theorem State.issue_pend (k : OpKind) (f : Option Nat) (a : List Access) : (s.issue k f a).pend = s.pend := rfl
@[simp] theorem State.issue_cmds (k : OpKind) (f : Option Nat) (a : List Access) : (s.issue k f a).cmds = s.cmds := rfl
@[simp] theorem State.issue_lastCtx (k : OpKind) (f : Option Nat) (a : List Access) : (s.issue k f a).lastCtx = s.lastCtx := rfl
@[simp] theorem State.issue_compl (k : OpKind) (f : Option Nat) (a : List Access) : (s.issue k f a).compl = s.compl := rfl
@[simp] theorem State.issue_mirrored (k : OpKind) (f : Option Nat) (a : List Access) : (s.issue k f a).mirrored = s.mirrored := rfl
@[simp] theorem State.issue_mirrorSent (k : OpKind) (f : Option Nat) (a : List Access) : (s.issue k f a).mirrorSent = s.mirrorSent := rfl
@[simp] theorem State.issue_ports (k : OpKind) (f : Option Nat) (a : List Access) : (s.issue k f a).ports = s.ports := rfl
@[simp] theorem State.issue_hlink (k : OpKind) (f : Option Nat) (a : List Access) : (s.issue k f a).hlink = s.hlink := rfl
@[simp] theorem State.issue_routes (k : OpKind) (f : Option Nat) (a : List Access) : (s.issue k f a).routes = s.routes := rfl
@[simp] theorem State.issue_domain (k : OpKind) (f : Option Nat) (a : List Access) : (s.issue k f a).domain = s.domain := rfl
@[simp] theorem State.issue_hostSpan (k : OpKind) (f : Option Nat) (a : List Access) : (s.issue k f a).hostSpan = s.hostSpan := rfl
@[simp] theorem State.issue_mirror (k : OpKind) (f : Option Nat) (a : List Access) : (s.issue k f a).mirror = s.mirror := rfl
@[simp] theorem State.issue_fwver (k : OpKind) (f : Option Nat) (a : List Access) : (s.issue k f a).fwver = s.fwver := rfl
@[simp] theorem State.issue_fwdig (k : OpKind) (f : Option Nat) (a : List Access) : (s.issue k f a).fwdig = s.fwdig := rfl
@[simp] theorem State.issue_fwpend (k : OpKind) (f : Option Nat) (a : List Access) : (s.issue k f a).fwpend = s.fwpend := rfl
@[simp] theorem State.issue_halted (k : OpKind) (f : Option Nat) (a : List Access) : (s.issue k f a).halted = s.halted := rfl
@[simp] theorem State.issue_mhz (k : OpKind) (f : Option Nat) (a : List Access) : (s.issue k f a).mhz = s.mhz := rfl
@[simp] theorem State.issue_kstate (k : OpKind) (f : Option Nat) (a : List Access) : (s.issue k f a).kstate = s.kstate := rfl
@[simp] theorem State.issue_cycle (k : OpKind) (f : Option Nat) (a : List Access) : (s.issue k f a).cycle = s.cycle := rfl
@[simp] theorem State.issue_tick (k : OpKind) (f : Option Nat) (a : List Access) : (s.issue k f a).tick = s.tick := rfl
@[simp] theorem State.issue_agenda (k : OpKind) (f : Option Nat) (a : List Access) : (s.issue k f a).agenda = s.agenda := rfl

/-! ## acquire -/

@[simp] theorem State.acquire_others : (s.acquire).others = s.others := rfl
@[simp] theorem State.acquire_teams : (s.acquire).teams = s.teams := rfl
@[simp] theorem State.acquire_clusters : (s.acquire).clusters = s.clusters := rfl
@[simp] theorem State.acquire_frames : (s.acquire).frames = s.frames := rfl
@[simp] theorem State.acquire_tcbs : (s.acquire).tcbs = s.tcbs := rfl
@[simp] theorem State.acquire_saved : (s.acquire).saved = s.saved := rfl
@[simp] theorem State.acquire_cores : (s.acquire).cores = s.cores := rfl
@[simp] theorem State.acquire_views : (s.acquire).views = s.views := rfl
@[simp] theorem State.acquire_clk : (s.acquire).clk = s.clk := rfl
@[simp] theorem State.acquire_nst : (s.acquire).nst = s.nst := rfl
@[simp] theorem State.acquire_writes : (s.acquire).writes = s.writes := rfl
@[simp] theorem State.acquire_chans : (s.acquire).chans = s.chans := rfl
@[simp] theorem State.acquire_poison : (s.acquire).poison = s.poison := rfl
@[simp] theorem State.acquire_tlb : (s.acquire).tlb = s.tlb := rfl
@[simp] theorem State.acquire_scopes : (s.acquire).scopes = s.scopes := rfl
@[simp] theorem State.acquire_icache : (s.acquire).icache = s.icache := rfl
@[simp] theorem State.acquire_belfry : (s.acquire).belfry = s.belfry := rfl
@[simp] theorem State.acquire_cups : (s.acquire).cups = s.cups := rfl
@[simp] theorem State.acquire_streams : (s.acquire).streams = s.streams := rfl
@[simp] theorem State.acquire_bags : (s.acquire).bags = s.bags := rfl
@[simp] theorem State.acquire_iters : (s.acquire).iters = s.iters := rfl
@[simp] theorem State.acquire_bagUndo : (s.acquire).bagUndo = s.bagUndo := rfl
@[simp] theorem State.acquire_ctxs : (s.acquire).ctxs = s.ctxs := rfl
@[simp] theorem State.acquire_lanterns : (s.acquire).lanterns = s.lanterns := rfl
@[simp] theorem State.acquire_resv : (s.acquire).resv = s.resv := rfl
@[simp] theorem State.acquire_roomAt : (s.acquire).roomAt = s.roomAt := rfl
@[simp] theorem State.acquire_snaps : (s.acquire).snaps = s.snaps := rfl
@[simp] theorem State.acquire_writers : (s.acquire).writers = s.writers := rfl
@[simp] theorem State.acquire_mgmt : (s.acquire).mgmt = s.mgmt := rfl
@[simp] theorem State.acquire_resp : (s.acquire).resp = s.resp := rfl
@[simp] theorem State.acquire_ring : (s.acquire).ring = s.ring := rfl
@[simp] theorem State.acquire_pend : (s.acquire).pend = s.pend := rfl
@[simp] theorem State.acquire_cmds : (s.acquire).cmds = s.cmds := rfl
@[simp] theorem State.acquire_lastCtx : (s.acquire).lastCtx = s.lastCtx := rfl
@[simp] theorem State.acquire_compl : (s.acquire).compl = s.compl := rfl
@[simp] theorem State.acquire_mirrored : (s.acquire).mirrored = s.mirrored := rfl
@[simp] theorem State.acquire_mirrorSent : (s.acquire).mirrorSent = s.mirrorSent := rfl
@[simp] theorem State.acquire_ports : (s.acquire).ports = s.ports := rfl
@[simp] theorem State.acquire_hlink : (s.acquire).hlink = s.hlink := rfl
@[simp] theorem State.acquire_routes : (s.acquire).routes = s.routes := rfl
@[simp] theorem State.acquire_domain : (s.acquire).domain = s.domain := rfl
@[simp] theorem State.acquire_hostSpan : (s.acquire).hostSpan = s.hostSpan := rfl
@[simp] theorem State.acquire_mirror : (s.acquire).mirror = s.mirror := rfl
@[simp] theorem State.acquire_fwver : (s.acquire).fwver = s.fwver := rfl
@[simp] theorem State.acquire_fwdig : (s.acquire).fwdig = s.fwdig := rfl
@[simp] theorem State.acquire_fwpend : (s.acquire).fwpend = s.fwpend := rfl
@[simp] theorem State.acquire_halted : (s.acquire).halted = s.halted := rfl
@[simp] theorem State.acquire_mhz : (s.acquire).mhz = s.mhz := rfl
@[simp] theorem State.acquire_kstate : (s.acquire).kstate = s.kstate := rfl
@[simp] theorem State.acquire_cycle : (s.acquire).cycle = s.cycle := rfl
@[simp] theorem State.acquire_tick : (s.acquire).tick = s.tick := rfl
@[simp] theorem State.acquire_agenda : (s.acquire).agenda = s.agenda := rfl

/-! ## settle -/

@[simp] theorem State.settle_teams : (s.settle).teams = s.teams := rfl
@[simp] theorem State.settle_clusters : (s.settle).clusters = s.clusters := rfl
@[simp] theorem State.settle_frames : (s.settle).frames = s.frames := rfl
@[simp] theorem State.settle_tcbs : (s.settle).tcbs = s.tcbs := rfl
@[simp] theorem State.settle_saved : (s.settle).saved = s.saved := rfl
@[simp] theorem State.settle_cores : (s.settle).cores = s.cores := rfl
@[simp] theorem State.settle_views : (s.settle).views = s.views := rfl
@[simp] theorem State.settle_clk : (s.settle).clk = s.clk := rfl
@[simp] theorem State.settle_nst : (s.settle).nst = s.nst := rfl
@[simp] theorem State.settle_writes : (s.settle).writes = s.writes := rfl
@[simp] theorem State.settle_chans : (s.settle).chans = s.chans := rfl
@[simp] theorem State.settle_poison : (s.settle).poison = s.poison := rfl
@[simp] theorem State.settle_tlb : (s.settle).tlb = s.tlb := rfl
@[simp] theorem State.settle_scopes : (s.settle).scopes = s.scopes := rfl
@[simp] theorem State.settle_icache : (s.settle).icache = s.icache := rfl
@[simp] theorem State.settle_belfry : (s.settle).belfry = s.belfry := rfl
@[simp] theorem State.settle_cups : (s.settle).cups = s.cups := rfl
@[simp] theorem State.settle_streams : (s.settle).streams = s.streams := rfl
@[simp] theorem State.settle_bags : (s.settle).bags = s.bags := rfl
@[simp] theorem State.settle_iters : (s.settle).iters = s.iters := rfl
@[simp] theorem State.settle_bagUndo : (s.settle).bagUndo = s.bagUndo := rfl
@[simp] theorem State.settle_ctxs : (s.settle).ctxs = s.ctxs := rfl
@[simp] theorem State.settle_lanterns : (s.settle).lanterns = s.lanterns := rfl
@[simp] theorem State.settle_resv : (s.settle).resv = s.resv := rfl
@[simp] theorem State.settle_roomAt : (s.settle).roomAt = s.roomAt := rfl
@[simp] theorem State.settle_snaps : (s.settle).snaps = s.snaps := rfl
@[simp] theorem State.settle_writers : (s.settle).writers = s.writers := rfl
@[simp] theorem State.settle_mgmt : (s.settle).mgmt = s.mgmt := rfl
@[simp] theorem State.settle_resp : (s.settle).resp = s.resp := rfl
@[simp] theorem State.settle_ring : (s.settle).ring = s.ring := rfl
@[simp] theorem State.settle_pend : (s.settle).pend = s.pend := rfl
@[simp] theorem State.settle_cmds : (s.settle).cmds = s.cmds := rfl
@[simp] theorem State.settle_lastCtx : (s.settle).lastCtx = s.lastCtx := rfl
@[simp] theorem State.settle_compl : (s.settle).compl = s.compl := rfl
@[simp] theorem State.settle_mirrored : (s.settle).mirrored = s.mirrored := rfl
@[simp] theorem State.settle_mirrorSent : (s.settle).mirrorSent = s.mirrorSent := rfl
@[simp] theorem State.settle_ports : (s.settle).ports = s.ports := rfl
@[simp] theorem State.settle_hlink : (s.settle).hlink = s.hlink := rfl
@[simp] theorem State.settle_routes : (s.settle).routes = s.routes := rfl
@[simp] theorem State.settle_domain : (s.settle).domain = s.domain := rfl
@[simp] theorem State.settle_hostSpan : (s.settle).hostSpan = s.hostSpan := rfl
@[simp] theorem State.settle_mirror : (s.settle).mirror = s.mirror := rfl
@[simp] theorem State.settle_fwver : (s.settle).fwver = s.fwver := rfl
@[simp] theorem State.settle_fwdig : (s.settle).fwdig = s.fwdig := rfl
@[simp] theorem State.settle_fwpend : (s.settle).fwpend = s.fwpend := rfl
@[simp] theorem State.settle_halted : (s.settle).halted = s.halted := rfl
@[simp] theorem State.settle_mhz : (s.settle).mhz = s.mhz := rfl
@[simp] theorem State.settle_kstate : (s.settle).kstate = s.kstate := rfl
@[simp] theorem State.settle_cycle : (s.settle).cycle = s.cycle := rfl
@[simp] theorem State.settle_tick : (s.settle).tick = s.tick := rfl
@[simp] theorem State.settle_nextId : (s.settle).nextId = s.nextId := rfl
@[simp] theorem State.settle_agenda : (s.settle).agenda = s.agenda := rfl

/-! ## haltLaunch -/

@[simp] theorem State.haltLaunch_teams (t : Nat) : (s.haltLaunch t).teams = s.teams := rfl
@[simp] theorem State.haltLaunch_clusters (t : Nat) : (s.haltLaunch t).clusters = s.clusters := rfl
@[simp] theorem State.haltLaunch_frames (t : Nat) : (s.haltLaunch t).frames = s.frames := rfl
@[simp] theorem State.haltLaunch_tcbs (t : Nat) : (s.haltLaunch t).tcbs = s.tcbs := rfl
@[simp] theorem State.haltLaunch_saved (t : Nat) : (s.haltLaunch t).saved = s.saved := rfl
@[simp] theorem State.haltLaunch_cores (t : Nat) : (s.haltLaunch t).cores = s.cores := rfl
@[simp] theorem State.haltLaunch_views (t : Nat) : (s.haltLaunch t).views = s.views := rfl
@[simp] theorem State.haltLaunch_clk (t : Nat) : (s.haltLaunch t).clk = s.clk := rfl
@[simp] theorem State.haltLaunch_nst (t : Nat) : (s.haltLaunch t).nst = s.nst := rfl
@[simp] theorem State.haltLaunch_writes (t : Nat) : (s.haltLaunch t).writes = s.writes := rfl
@[simp] theorem State.haltLaunch_chans (t : Nat) : (s.haltLaunch t).chans = s.chans := rfl
@[simp] theorem State.haltLaunch_poison (t : Nat) : (s.haltLaunch t).poison = s.poison := rfl
@[simp] theorem State.haltLaunch_tlb (t : Nat) : (s.haltLaunch t).tlb = s.tlb := rfl
@[simp] theorem State.haltLaunch_scopes (t : Nat) : (s.haltLaunch t).scopes = s.scopes := rfl
@[simp] theorem State.haltLaunch_icache (t : Nat) : (s.haltLaunch t).icache = s.icache := rfl
@[simp] theorem State.haltLaunch_belfry (t : Nat) : (s.haltLaunch t).belfry = s.belfry := rfl
@[simp] theorem State.haltLaunch_cups (t : Nat) : (s.haltLaunch t).cups = s.cups := rfl
@[simp] theorem State.haltLaunch_streams (t : Nat) : (s.haltLaunch t).streams = s.streams := rfl
@[simp] theorem State.haltLaunch_bags (t : Nat) : (s.haltLaunch t).bags = s.bags := rfl
@[simp] theorem State.haltLaunch_iters (t : Nat) : (s.haltLaunch t).iters = s.iters := rfl
@[simp] theorem State.haltLaunch_bagUndo (t : Nat) : (s.haltLaunch t).bagUndo = s.bagUndo := rfl
@[simp] theorem State.haltLaunch_ctxs (t : Nat) : (s.haltLaunch t).ctxs = s.ctxs := rfl
@[simp] theorem State.haltLaunch_lanterns (t : Nat) : (s.haltLaunch t).lanterns = s.lanterns := rfl
@[simp] theorem State.haltLaunch_resv (t : Nat) : (s.haltLaunch t).resv = s.resv := rfl
@[simp] theorem State.haltLaunch_roomAt (t : Nat) : (s.haltLaunch t).roomAt = s.roomAt := rfl
@[simp] theorem State.haltLaunch_snaps (t : Nat) : (s.haltLaunch t).snaps = s.snaps := rfl
@[simp] theorem State.haltLaunch_writers (t : Nat) : (s.haltLaunch t).writers = s.writers := rfl
@[simp] theorem State.haltLaunch_mgmt (t : Nat) : (s.haltLaunch t).mgmt = s.mgmt := rfl
@[simp] theorem State.haltLaunch_resp (t : Nat) : (s.haltLaunch t).resp = s.resp := rfl
@[simp] theorem State.haltLaunch_ring (t : Nat) : (s.haltLaunch t).ring = s.ring := rfl
@[simp] theorem State.haltLaunch_pend (t : Nat) : (s.haltLaunch t).pend = s.pend := rfl
@[simp] theorem State.haltLaunch_cmds (t : Nat) : (s.haltLaunch t).cmds = s.cmds := rfl
@[simp] theorem State.haltLaunch_lastCtx (t : Nat) : (s.haltLaunch t).lastCtx = s.lastCtx := rfl
@[simp] theorem State.haltLaunch_compl (t : Nat) : (s.haltLaunch t).compl = s.compl := rfl
@[simp] theorem State.haltLaunch_mirrored (t : Nat) : (s.haltLaunch t).mirrored = s.mirrored := rfl
@[simp] theorem State.haltLaunch_mirrorSent (t : Nat) : (s.haltLaunch t).mirrorSent = s.mirrorSent := rfl
@[simp] theorem State.haltLaunch_ports (t : Nat) : (s.haltLaunch t).ports = s.ports := rfl
@[simp] theorem State.haltLaunch_hlink (t : Nat) : (s.haltLaunch t).hlink = s.hlink := rfl
@[simp] theorem State.haltLaunch_routes (t : Nat) : (s.haltLaunch t).routes = s.routes := rfl
@[simp] theorem State.haltLaunch_domain (t : Nat) : (s.haltLaunch t).domain = s.domain := rfl
@[simp] theorem State.haltLaunch_hostSpan (t : Nat) : (s.haltLaunch t).hostSpan = s.hostSpan := rfl
@[simp] theorem State.haltLaunch_mirror (t : Nat) : (s.haltLaunch t).mirror = s.mirror := rfl
@[simp] theorem State.haltLaunch_fwver (t : Nat) : (s.haltLaunch t).fwver = s.fwver := rfl
@[simp] theorem State.haltLaunch_fwdig (t : Nat) : (s.haltLaunch t).fwdig = s.fwdig := rfl
@[simp] theorem State.haltLaunch_fwpend (t : Nat) : (s.haltLaunch t).fwpend = s.fwpend := rfl
@[simp] theorem State.haltLaunch_halted (t : Nat) : (s.haltLaunch t).halted = s.halted := rfl
@[simp] theorem State.haltLaunch_mhz (t : Nat) : (s.haltLaunch t).mhz = s.mhz := rfl
@[simp] theorem State.haltLaunch_kstate (t : Nat) : (s.haltLaunch t).kstate = s.kstate := rfl
@[simp] theorem State.haltLaunch_cycle (t : Nat) : (s.haltLaunch t).cycle = s.cycle := rfl
@[simp] theorem State.haltLaunch_tick (t : Nat) : (s.haltLaunch t).tick = s.tick := rfl
@[simp] theorem State.haltLaunch_nextId (t : Nat) : (s.haltLaunch t).nextId = s.nextId := rfl
@[simp] theorem State.haltLaunch_agenda (t : Nat) : (s.haltLaunch t).agenda = s.agenda := rfl

/-! ## askRollback -/

@[simp] theorem State.askRollback_teams (t : Nat) (y : Nat × Nat × W64) : (s.askRollback t y).teams = s.teams := rfl
@[simp] theorem State.askRollback_clusters (t : Nat) (y : Nat × Nat × W64) : (s.askRollback t y).clusters = s.clusters := rfl
@[simp] theorem State.askRollback_frames (t : Nat) (y : Nat × Nat × W64) : (s.askRollback t y).frames = s.frames := rfl
@[simp] theorem State.askRollback_saved (t : Nat) (y : Nat × Nat × W64) : (s.askRollback t y).saved = s.saved := rfl
@[simp] theorem State.askRollback_cores (t : Nat) (y : Nat × Nat × W64) : (s.askRollback t y).cores = s.cores := rfl
@[simp] theorem State.askRollback_views (t : Nat) (y : Nat × Nat × W64) : (s.askRollback t y).views = s.views := rfl
@[simp] theorem State.askRollback_clk (t : Nat) (y : Nat × Nat × W64) : (s.askRollback t y).clk = s.clk := rfl
@[simp] theorem State.askRollback_nst (t : Nat) (y : Nat × Nat × W64) : (s.askRollback t y).nst = s.nst := rfl
@[simp] theorem State.askRollback_writes (t : Nat) (y : Nat × Nat × W64) : (s.askRollback t y).writes = s.writes := rfl
@[simp] theorem State.askRollback_chans (t : Nat) (y : Nat × Nat × W64) : (s.askRollback t y).chans = s.chans := rfl
@[simp] theorem State.askRollback_poison (t : Nat) (y : Nat × Nat × W64) : (s.askRollback t y).poison = s.poison := rfl
@[simp] theorem State.askRollback_tlb (t : Nat) (y : Nat × Nat × W64) : (s.askRollback t y).tlb = s.tlb := rfl
@[simp] theorem State.askRollback_scopes (t : Nat) (y : Nat × Nat × W64) : (s.askRollback t y).scopes = s.scopes := rfl
@[simp] theorem State.askRollback_icache (t : Nat) (y : Nat × Nat × W64) : (s.askRollback t y).icache = s.icache := rfl
@[simp] theorem State.askRollback_belfry (t : Nat) (y : Nat × Nat × W64) : (s.askRollback t y).belfry = s.belfry := rfl
@[simp] theorem State.askRollback_cups (t : Nat) (y : Nat × Nat × W64) : (s.askRollback t y).cups = s.cups := rfl
@[simp] theorem State.askRollback_streams (t : Nat) (y : Nat × Nat × W64) : (s.askRollback t y).streams = s.streams := rfl
@[simp] theorem State.askRollback_bags (t : Nat) (y : Nat × Nat × W64) : (s.askRollback t y).bags = s.bags := rfl
@[simp] theorem State.askRollback_iters (t : Nat) (y : Nat × Nat × W64) : (s.askRollback t y).iters = s.iters := rfl
@[simp] theorem State.askRollback_bagUndo (t : Nat) (y : Nat × Nat × W64) : (s.askRollback t y).bagUndo = s.bagUndo := rfl
@[simp] theorem State.askRollback_ctxs (t : Nat) (y : Nat × Nat × W64) : (s.askRollback t y).ctxs = s.ctxs := rfl
@[simp] theorem State.askRollback_lanterns (t : Nat) (y : Nat × Nat × W64) : (s.askRollback t y).lanterns = s.lanterns := rfl
@[simp] theorem State.askRollback_resv (t : Nat) (y : Nat × Nat × W64) : (s.askRollback t y).resv = s.resv := rfl
@[simp] theorem State.askRollback_roomAt (t : Nat) (y : Nat × Nat × W64) : (s.askRollback t y).roomAt = s.roomAt := rfl
@[simp] theorem State.askRollback_snaps (t : Nat) (y : Nat × Nat × W64) : (s.askRollback t y).snaps = s.snaps := rfl
@[simp] theorem State.askRollback_writers (t : Nat) (y : Nat × Nat × W64) : (s.askRollback t y).writers = s.writers := rfl
@[simp] theorem State.askRollback_mgmt (t : Nat) (y : Nat × Nat × W64) : (s.askRollback t y).mgmt = s.mgmt := rfl
@[simp] theorem State.askRollback_resp (t : Nat) (y : Nat × Nat × W64) : (s.askRollback t y).resp = s.resp := rfl
@[simp] theorem State.askRollback_ring (t : Nat) (y : Nat × Nat × W64) : (s.askRollback t y).ring = s.ring := rfl
@[simp] theorem State.askRollback_pend (t : Nat) (y : Nat × Nat × W64) : (s.askRollback t y).pend = s.pend := rfl
@[simp] theorem State.askRollback_cmds (t : Nat) (y : Nat × Nat × W64) : (s.askRollback t y).cmds = s.cmds := rfl
@[simp] theorem State.askRollback_lastCtx (t : Nat) (y : Nat × Nat × W64) : (s.askRollback t y).lastCtx = s.lastCtx := rfl
@[simp] theorem State.askRollback_compl (t : Nat) (y : Nat × Nat × W64) : (s.askRollback t y).compl = s.compl := rfl
@[simp] theorem State.askRollback_mirrored (t : Nat) (y : Nat × Nat × W64) : (s.askRollback t y).mirrored = s.mirrored := rfl
@[simp] theorem State.askRollback_mirrorSent (t : Nat) (y : Nat × Nat × W64) : (s.askRollback t y).mirrorSent = s.mirrorSent := rfl
@[simp] theorem State.askRollback_ports (t : Nat) (y : Nat × Nat × W64) : (s.askRollback t y).ports = s.ports := rfl
@[simp] theorem State.askRollback_hlink (t : Nat) (y : Nat × Nat × W64) : (s.askRollback t y).hlink = s.hlink := rfl
@[simp] theorem State.askRollback_routes (t : Nat) (y : Nat × Nat × W64) : (s.askRollback t y).routes = s.routes := rfl
@[simp] theorem State.askRollback_domain (t : Nat) (y : Nat × Nat × W64) : (s.askRollback t y).domain = s.domain := rfl
@[simp] theorem State.askRollback_hostSpan (t : Nat) (y : Nat × Nat × W64) : (s.askRollback t y).hostSpan = s.hostSpan := rfl
@[simp] theorem State.askRollback_mirror (t : Nat) (y : Nat × Nat × W64) : (s.askRollback t y).mirror = s.mirror := rfl
@[simp] theorem State.askRollback_fwver (t : Nat) (y : Nat × Nat × W64) : (s.askRollback t y).fwver = s.fwver := rfl
@[simp] theorem State.askRollback_fwdig (t : Nat) (y : Nat × Nat × W64) : (s.askRollback t y).fwdig = s.fwdig := rfl
@[simp] theorem State.askRollback_fwpend (t : Nat) (y : Nat × Nat × W64) : (s.askRollback t y).fwpend = s.fwpend := rfl
@[simp] theorem State.askRollback_halted (t : Nat) (y : Nat × Nat × W64) : (s.askRollback t y).halted = s.halted := rfl
@[simp] theorem State.askRollback_mhz (t : Nat) (y : Nat × Nat × W64) : (s.askRollback t y).mhz = s.mhz := rfl
@[simp] theorem State.askRollback_kstate (t : Nat) (y : Nat × Nat × W64) : (s.askRollback t y).kstate = s.kstate := rfl
@[simp] theorem State.askRollback_cycle (t : Nat) (y : Nat × Nat × W64) : (s.askRollback t y).cycle = s.cycle := rfl
@[simp] theorem State.askRollback_tick (t : Nat) (y : Nat × Nat × W64) : (s.askRollback t y).tick = s.tick := rfl
@[simp] theorem State.askRollback_nextId (t : Nat) (y : Nat × Nat × W64) : (s.askRollback t y).nextId = s.nextId := rfl
@[simp] theorem State.askRollback_agenda (t : Nat) (y : Nat × Nat × W64) : (s.askRollback t y).agenda = s.agenda := rfl

/-! ## post -/

@[simp] theorem State.post_cur (l : List (BitVec 256)) : (s.post l).cur = s.cur := rfl
@[simp] theorem State.post_others (l : List (BitVec 256)) : (s.post l).others = s.others := rfl
@[simp] theorem State.post_teams (l : List (BitVec 256)) : (s.post l).teams = s.teams := rfl
@[simp] theorem State.post_clusters (l : List (BitVec 256)) : (s.post l).clusters = s.clusters := rfl
@[simp] theorem State.post_frames (l : List (BitVec 256)) : (s.post l).frames = s.frames := rfl
@[simp] theorem State.post_tcbs (l : List (BitVec 256)) : (s.post l).tcbs = s.tcbs := rfl
@[simp] theorem State.post_saved (l : List (BitVec 256)) : (s.post l).saved = s.saved := rfl
@[simp] theorem State.post_cores (l : List (BitVec 256)) : (s.post l).cores = s.cores := rfl
@[simp] theorem State.post_views (l : List (BitVec 256)) : (s.post l).views = s.views := rfl
@[simp] theorem State.post_clk (l : List (BitVec 256)) : (s.post l).clk = s.clk := rfl
@[simp] theorem State.post_nst (l : List (BitVec 256)) : (s.post l).nst = s.nst := rfl
@[simp] theorem State.post_writes (l : List (BitVec 256)) : (s.post l).writes = s.writes := rfl
@[simp] theorem State.post_chans (l : List (BitVec 256)) : (s.post l).chans = s.chans := rfl
@[simp] theorem State.post_poison (l : List (BitVec 256)) : (s.post l).poison = s.poison := rfl
@[simp] theorem State.post_tlb (l : List (BitVec 256)) : (s.post l).tlb = s.tlb := rfl
@[simp] theorem State.post_scopes (l : List (BitVec 256)) : (s.post l).scopes = s.scopes := rfl
@[simp] theorem State.post_icache (l : List (BitVec 256)) : (s.post l).icache = s.icache := rfl
@[simp] theorem State.post_belfry (l : List (BitVec 256)) : (s.post l).belfry = s.belfry := rfl
@[simp] theorem State.post_cups (l : List (BitVec 256)) : (s.post l).cups = s.cups := rfl
@[simp] theorem State.post_streams (l : List (BitVec 256)) : (s.post l).streams = s.streams := rfl
@[simp] theorem State.post_bags (l : List (BitVec 256)) : (s.post l).bags = s.bags := rfl
@[simp] theorem State.post_iters (l : List (BitVec 256)) : (s.post l).iters = s.iters := rfl
@[simp] theorem State.post_bagUndo (l : List (BitVec 256)) : (s.post l).bagUndo = s.bagUndo := rfl
@[simp] theorem State.post_ctxs (l : List (BitVec 256)) : (s.post l).ctxs = s.ctxs := rfl
@[simp] theorem State.post_lanterns (l : List (BitVec 256)) : (s.post l).lanterns = s.lanterns := rfl
@[simp] theorem State.post_resv (l : List (BitVec 256)) : (s.post l).resv = s.resv := rfl
@[simp] theorem State.post_roomAt (l : List (BitVec 256)) : (s.post l).roomAt = s.roomAt := rfl
@[simp] theorem State.post_snaps (l : List (BitVec 256)) : (s.post l).snaps = s.snaps := rfl
@[simp] theorem State.post_writers (l : List (BitVec 256)) : (s.post l).writers = s.writers := rfl
@[simp] theorem State.post_resp (l : List (BitVec 256)) : (s.post l).resp = s.resp := rfl
@[simp] theorem State.post_ring (l : List (BitVec 256)) : (s.post l).ring = s.ring := rfl
@[simp] theorem State.post_pend (l : List (BitVec 256)) : (s.post l).pend = s.pend := rfl
@[simp] theorem State.post_cmds (l : List (BitVec 256)) : (s.post l).cmds = s.cmds := rfl
@[simp] theorem State.post_lastCtx (l : List (BitVec 256)) : (s.post l).lastCtx = s.lastCtx := rfl
@[simp] theorem State.post_compl (l : List (BitVec 256)) : (s.post l).compl = s.compl := rfl
@[simp] theorem State.post_mirrored (l : List (BitVec 256)) : (s.post l).mirrored = s.mirrored := rfl
@[simp] theorem State.post_mirrorSent (l : List (BitVec 256)) : (s.post l).mirrorSent = s.mirrorSent := rfl
@[simp] theorem State.post_ports (l : List (BitVec 256)) : (s.post l).ports = s.ports := rfl
@[simp] theorem State.post_hlink (l : List (BitVec 256)) : (s.post l).hlink = s.hlink := rfl
@[simp] theorem State.post_routes (l : List (BitVec 256)) : (s.post l).routes = s.routes := rfl
@[simp] theorem State.post_domain (l : List (BitVec 256)) : (s.post l).domain = s.domain := rfl
@[simp] theorem State.post_hostSpan (l : List (BitVec 256)) : (s.post l).hostSpan = s.hostSpan := rfl
@[simp] theorem State.post_mirror (l : List (BitVec 256)) : (s.post l).mirror = s.mirror := rfl
@[simp] theorem State.post_fwver (l : List (BitVec 256)) : (s.post l).fwver = s.fwver := rfl
@[simp] theorem State.post_fwdig (l : List (BitVec 256)) : (s.post l).fwdig = s.fwdig := rfl
@[simp] theorem State.post_fwpend (l : List (BitVec 256)) : (s.post l).fwpend = s.fwpend := rfl
@[simp] theorem State.post_halted (l : List (BitVec 256)) : (s.post l).halted = s.halted := rfl
@[simp] theorem State.post_mhz (l : List (BitVec 256)) : (s.post l).mhz = s.mhz := rfl
@[simp] theorem State.post_kstate (l : List (BitVec 256)) : (s.post l).kstate = s.kstate := rfl
@[simp] theorem State.post_cycle (l : List (BitVec 256)) : (s.post l).cycle = s.cycle := rfl
@[simp] theorem State.post_tick (l : List (BitVec 256)) : (s.post l).tick = s.tick := rfl
@[simp] theorem State.post_nextId (l : List (BitVec 256)) : (s.post l).nextId = s.nextId := rfl
@[simp] theorem State.post_agenda (l : List (BitVec 256)) : (s.post l).agenda = s.agenda := rfl

/-! ## keepWrite -/

@[simp] theorem State.keepWrite_cur (a : Nat) (b : List Byte) : (s.keepWrite a b).cur = s.cur := rfl
@[simp] theorem State.keepWrite_others (a : Nat) (b : List Byte) : (s.keepWrite a b).others = s.others := rfl
@[simp] theorem State.keepWrite_teams (a : Nat) (b : List Byte) : (s.keepWrite a b).teams = s.teams := rfl
@[simp] theorem State.keepWrite_clusters (a : Nat) (b : List Byte) : (s.keepWrite a b).clusters = s.clusters := rfl
@[simp] theorem State.keepWrite_frames (a : Nat) (b : List Byte) : (s.keepWrite a b).frames = s.frames := rfl
@[simp] theorem State.keepWrite_tcbs (a : Nat) (b : List Byte) : (s.keepWrite a b).tcbs = s.tcbs := rfl
@[simp] theorem State.keepWrite_saved (a : Nat) (b : List Byte) : (s.keepWrite a b).saved = s.saved := rfl
@[simp] theorem State.keepWrite_cores (a : Nat) (b : List Byte) : (s.keepWrite a b).cores = s.cores := rfl
@[simp] theorem State.keepWrite_clk (a : Nat) (b : List Byte) : (s.keepWrite a b).clk = s.clk := rfl
@[simp] theorem State.keepWrite_nst (a : Nat) (b : List Byte) : (s.keepWrite a b).nst = s.nst := rfl
@[simp] theorem State.keepWrite_writes (a : Nat) (b : List Byte) : (s.keepWrite a b).writes = s.writes := rfl
@[simp] theorem State.keepWrite_chans (a : Nat) (b : List Byte) : (s.keepWrite a b).chans = s.chans := rfl
@[simp] theorem State.keepWrite_tlb (a : Nat) (b : List Byte) : (s.keepWrite a b).tlb = s.tlb := rfl
@[simp] theorem State.keepWrite_scopes (a : Nat) (b : List Byte) : (s.keepWrite a b).scopes = s.scopes := rfl
@[simp] theorem State.keepWrite_icache (a : Nat) (b : List Byte) : (s.keepWrite a b).icache = s.icache := rfl
@[simp] theorem State.keepWrite_belfry (a : Nat) (b : List Byte) : (s.keepWrite a b).belfry = s.belfry := rfl
@[simp] theorem State.keepWrite_cups (a : Nat) (b : List Byte) : (s.keepWrite a b).cups = s.cups := rfl
@[simp] theorem State.keepWrite_streams (a : Nat) (b : List Byte) : (s.keepWrite a b).streams = s.streams := rfl
@[simp] theorem State.keepWrite_bags (a : Nat) (b : List Byte) : (s.keepWrite a b).bags = s.bags := rfl
@[simp] theorem State.keepWrite_iters (a : Nat) (b : List Byte) : (s.keepWrite a b).iters = s.iters := rfl
@[simp] theorem State.keepWrite_bagUndo (a : Nat) (b : List Byte) : (s.keepWrite a b).bagUndo = s.bagUndo := rfl
@[simp] theorem State.keepWrite_ctxs (a : Nat) (b : List Byte) : (s.keepWrite a b).ctxs = s.ctxs := rfl
@[simp] theorem State.keepWrite_lanterns (a : Nat) (b : List Byte) : (s.keepWrite a b).lanterns = s.lanterns := rfl
@[simp] theorem State.keepWrite_resv (a : Nat) (b : List Byte) : (s.keepWrite a b).resv = s.resv := rfl
@[simp] theorem State.keepWrite_roomAt (a : Nat) (b : List Byte) : (s.keepWrite a b).roomAt = s.roomAt := rfl
@[simp] theorem State.keepWrite_snaps (a : Nat) (b : List Byte) : (s.keepWrite a b).snaps = s.snaps := rfl
@[simp] theorem State.keepWrite_writers (a : Nat) (b : List Byte) : (s.keepWrite a b).writers = s.writers := rfl
@[simp] theorem State.keepWrite_mgmt (a : Nat) (b : List Byte) : (s.keepWrite a b).mgmt = s.mgmt := rfl
@[simp] theorem State.keepWrite_resp (a : Nat) (b : List Byte) : (s.keepWrite a b).resp = s.resp := rfl
@[simp] theorem State.keepWrite_ring (a : Nat) (b : List Byte) : (s.keepWrite a b).ring = s.ring := rfl
@[simp] theorem State.keepWrite_pend (a : Nat) (b : List Byte) : (s.keepWrite a b).pend = s.pend := rfl
@[simp] theorem State.keepWrite_cmds (a : Nat) (b : List Byte) : (s.keepWrite a b).cmds = s.cmds := rfl
@[simp] theorem State.keepWrite_lastCtx (a : Nat) (b : List Byte) : (s.keepWrite a b).lastCtx = s.lastCtx := rfl
@[simp] theorem State.keepWrite_compl (a : Nat) (b : List Byte) : (s.keepWrite a b).compl = s.compl := rfl
@[simp] theorem State.keepWrite_mirrored (a : Nat) (b : List Byte) : (s.keepWrite a b).mirrored = s.mirrored := rfl
@[simp] theorem State.keepWrite_mirrorSent (a : Nat) (b : List Byte) : (s.keepWrite a b).mirrorSent = s.mirrorSent := rfl
@[simp] theorem State.keepWrite_ports (a : Nat) (b : List Byte) : (s.keepWrite a b).ports = s.ports := rfl
@[simp] theorem State.keepWrite_hlink (a : Nat) (b : List Byte) : (s.keepWrite a b).hlink = s.hlink := rfl
@[simp] theorem State.keepWrite_routes (a : Nat) (b : List Byte) : (s.keepWrite a b).routes = s.routes := rfl
@[simp] theorem State.keepWrite_domain (a : Nat) (b : List Byte) : (s.keepWrite a b).domain = s.domain := rfl
@[simp] theorem State.keepWrite_hostSpan (a : Nat) (b : List Byte) : (s.keepWrite a b).hostSpan = s.hostSpan := rfl
@[simp] theorem State.keepWrite_mirror (a : Nat) (b : List Byte) : (s.keepWrite a b).mirror = s.mirror := rfl
@[simp] theorem State.keepWrite_fwver (a : Nat) (b : List Byte) : (s.keepWrite a b).fwver = s.fwver := rfl
@[simp] theorem State.keepWrite_fwdig (a : Nat) (b : List Byte) : (s.keepWrite a b).fwdig = s.fwdig := rfl
@[simp] theorem State.keepWrite_fwpend (a : Nat) (b : List Byte) : (s.keepWrite a b).fwpend = s.fwpend := rfl
@[simp] theorem State.keepWrite_halted (a : Nat) (b : List Byte) : (s.keepWrite a b).halted = s.halted := rfl
@[simp] theorem State.keepWrite_mhz (a : Nat) (b : List Byte) : (s.keepWrite a b).mhz = s.mhz := rfl
@[simp] theorem State.keepWrite_kstate (a : Nat) (b : List Byte) : (s.keepWrite a b).kstate = s.kstate := rfl
@[simp] theorem State.keepWrite_cycle (a : Nat) (b : List Byte) : (s.keepWrite a b).cycle = s.cycle := rfl
@[simp] theorem State.keepWrite_tick (a : Nat) (b : List Byte) : (s.keepWrite a b).tick = s.tick := rfl
@[simp] theorem State.keepWrite_nextId (a : Nat) (b : List Byte) : (s.keepWrite a b).nextId = s.nextId := rfl
@[simp] theorem State.keepWrite_agenda (a : Nat) (b : List Byte) : (s.keepWrite a b).agenda = s.agenda := rfl

/-! ## stampWrite -/

@[simp] theorem State.stampWrite_cur (d x : Nat) (m : BitVec 8) (v : W64) (t : Option Nat) : (s.stampWrite d x m v t).cur = s.cur := rfl
@[simp] theorem State.stampWrite_others (d x : Nat) (m : BitVec 8) (v : W64) (t : Option Nat) : (s.stampWrite d x m v t).others = s.others := rfl
@[simp] theorem State.stampWrite_teams (d x : Nat) (m : BitVec 8) (v : W64) (t : Option Nat) : (s.stampWrite d x m v t).teams = s.teams := rfl
@[simp] theorem State.stampWrite_clusters (d x : Nat) (m : BitVec 8) (v : W64) (t : Option Nat) : (s.stampWrite d x m v t).clusters = s.clusters := rfl
@[simp] theorem State.stampWrite_frames (d x : Nat) (m : BitVec 8) (v : W64) (t : Option Nat) : (s.stampWrite d x m v t).frames = s.frames := rfl
@[simp] theorem State.stampWrite_tcbs (d x : Nat) (m : BitVec 8) (v : W64) (t : Option Nat) : (s.stampWrite d x m v t).tcbs = s.tcbs := rfl
@[simp] theorem State.stampWrite_saved (d x : Nat) (m : BitVec 8) (v : W64) (t : Option Nat) : (s.stampWrite d x m v t).saved = s.saved := rfl
@[simp] theorem State.stampWrite_cores (d x : Nat) (m : BitVec 8) (v : W64) (t : Option Nat) : (s.stampWrite d x m v t).cores = s.cores := rfl
@[simp] theorem State.stampWrite_views (d x : Nat) (m : BitVec 8) (v : W64) (t : Option Nat) : (s.stampWrite d x m v t).views = s.views := rfl
@[simp] theorem State.stampWrite_clk (d x : Nat) (m : BitVec 8) (v : W64) (t : Option Nat) : (s.stampWrite d x m v t).clk = s.clk := rfl
@[simp] theorem State.stampWrite_chans (d x : Nat) (m : BitVec 8) (v : W64) (t : Option Nat) : (s.stampWrite d x m v t).chans = s.chans := rfl
@[simp] theorem State.stampWrite_poison (d x : Nat) (m : BitVec 8) (v : W64) (t : Option Nat) : (s.stampWrite d x m v t).poison = s.poison := rfl
@[simp] theorem State.stampWrite_tlb (d x : Nat) (m : BitVec 8) (v : W64) (t : Option Nat) : (s.stampWrite d x m v t).tlb = s.tlb := rfl
@[simp] theorem State.stampWrite_scopes (d x : Nat) (m : BitVec 8) (v : W64) (t : Option Nat) : (s.stampWrite d x m v t).scopes = s.scopes := rfl
@[simp] theorem State.stampWrite_icache (d x : Nat) (m : BitVec 8) (v : W64) (t : Option Nat) : (s.stampWrite d x m v t).icache = s.icache := rfl
@[simp] theorem State.stampWrite_belfry (d x : Nat) (m : BitVec 8) (v : W64) (t : Option Nat) : (s.stampWrite d x m v t).belfry = s.belfry := rfl
@[simp] theorem State.stampWrite_cups (d x : Nat) (m : BitVec 8) (v : W64) (t : Option Nat) : (s.stampWrite d x m v t).cups = s.cups := rfl
@[simp] theorem State.stampWrite_streams (d x : Nat) (m : BitVec 8) (v : W64) (t : Option Nat) : (s.stampWrite d x m v t).streams = s.streams := rfl
@[simp] theorem State.stampWrite_bags (d x : Nat) (m : BitVec 8) (v : W64) (t : Option Nat) : (s.stampWrite d x m v t).bags = s.bags := rfl
@[simp] theorem State.stampWrite_iters (d x : Nat) (m : BitVec 8) (v : W64) (t : Option Nat) : (s.stampWrite d x m v t).iters = s.iters := rfl
@[simp] theorem State.stampWrite_bagUndo (d x : Nat) (m : BitVec 8) (v : W64) (t : Option Nat) : (s.stampWrite d x m v t).bagUndo = s.bagUndo := rfl
@[simp] theorem State.stampWrite_ctxs (d x : Nat) (m : BitVec 8) (v : W64) (t : Option Nat) : (s.stampWrite d x m v t).ctxs = s.ctxs := rfl
@[simp] theorem State.stampWrite_lanterns (d x : Nat) (m : BitVec 8) (v : W64) (t : Option Nat) : (s.stampWrite d x m v t).lanterns = s.lanterns := rfl
@[simp] theorem State.stampWrite_resv (d x : Nat) (m : BitVec 8) (v : W64) (t : Option Nat) : (s.stampWrite d x m v t).resv = s.resv := rfl
@[simp] theorem State.stampWrite_roomAt (d x : Nat) (m : BitVec 8) (v : W64) (t : Option Nat) : (s.stampWrite d x m v t).roomAt = s.roomAt := rfl
@[simp] theorem State.stampWrite_snaps (d x : Nat) (m : BitVec 8) (v : W64) (t : Option Nat) : (s.stampWrite d x m v t).snaps = s.snaps := rfl
@[simp] theorem State.stampWrite_writers (d x : Nat) (m : BitVec 8) (v : W64) (t : Option Nat) : (s.stampWrite d x m v t).writers = s.writers := rfl
@[simp] theorem State.stampWrite_mgmt (d x : Nat) (m : BitVec 8) (v : W64) (t : Option Nat) : (s.stampWrite d x m v t).mgmt = s.mgmt := rfl
@[simp] theorem State.stampWrite_resp (d x : Nat) (m : BitVec 8) (v : W64) (t : Option Nat) : (s.stampWrite d x m v t).resp = s.resp := rfl
@[simp] theorem State.stampWrite_ring (d x : Nat) (m : BitVec 8) (v : W64) (t : Option Nat) : (s.stampWrite d x m v t).ring = s.ring := rfl
@[simp] theorem State.stampWrite_pend (d x : Nat) (m : BitVec 8) (v : W64) (t : Option Nat) : (s.stampWrite d x m v t).pend = s.pend := rfl
@[simp] theorem State.stampWrite_cmds (d x : Nat) (m : BitVec 8) (v : W64) (t : Option Nat) : (s.stampWrite d x m v t).cmds = s.cmds := rfl
@[simp] theorem State.stampWrite_lastCtx (d x : Nat) (m : BitVec 8) (v : W64) (t : Option Nat) : (s.stampWrite d x m v t).lastCtx = s.lastCtx := rfl
@[simp] theorem State.stampWrite_compl (d x : Nat) (m : BitVec 8) (v : W64) (t : Option Nat) : (s.stampWrite d x m v t).compl = s.compl := rfl
@[simp] theorem State.stampWrite_mirrored (d x : Nat) (m : BitVec 8) (v : W64) (t : Option Nat) : (s.stampWrite d x m v t).mirrored = s.mirrored := rfl
@[simp] theorem State.stampWrite_mirrorSent (d x : Nat) (m : BitVec 8) (v : W64) (t : Option Nat) : (s.stampWrite d x m v t).mirrorSent = s.mirrorSent := rfl
@[simp] theorem State.stampWrite_ports (d x : Nat) (m : BitVec 8) (v : W64) (t : Option Nat) : (s.stampWrite d x m v t).ports = s.ports := rfl
@[simp] theorem State.stampWrite_hlink (d x : Nat) (m : BitVec 8) (v : W64) (t : Option Nat) : (s.stampWrite d x m v t).hlink = s.hlink := rfl
@[simp] theorem State.stampWrite_routes (d x : Nat) (m : BitVec 8) (v : W64) (t : Option Nat) : (s.stampWrite d x m v t).routes = s.routes := rfl
@[simp] theorem State.stampWrite_domain (d x : Nat) (m : BitVec 8) (v : W64) (t : Option Nat) : (s.stampWrite d x m v t).domain = s.domain := rfl
@[simp] theorem State.stampWrite_hostSpan (d x : Nat) (m : BitVec 8) (v : W64) (t : Option Nat) : (s.stampWrite d x m v t).hostSpan = s.hostSpan := rfl
@[simp] theorem State.stampWrite_mirror (d x : Nat) (m : BitVec 8) (v : W64) (t : Option Nat) : (s.stampWrite d x m v t).mirror = s.mirror := rfl
@[simp] theorem State.stampWrite_fwver (d x : Nat) (m : BitVec 8) (v : W64) (t : Option Nat) : (s.stampWrite d x m v t).fwver = s.fwver := rfl
@[simp] theorem State.stampWrite_fwdig (d x : Nat) (m : BitVec 8) (v : W64) (t : Option Nat) : (s.stampWrite d x m v t).fwdig = s.fwdig := rfl
@[simp] theorem State.stampWrite_fwpend (d x : Nat) (m : BitVec 8) (v : W64) (t : Option Nat) : (s.stampWrite d x m v t).fwpend = s.fwpend := rfl
@[simp] theorem State.stampWrite_halted (d x : Nat) (m : BitVec 8) (v : W64) (t : Option Nat) : (s.stampWrite d x m v t).halted = s.halted := rfl
@[simp] theorem State.stampWrite_mhz (d x : Nat) (m : BitVec 8) (v : W64) (t : Option Nat) : (s.stampWrite d x m v t).mhz = s.mhz := rfl
@[simp] theorem State.stampWrite_kstate (d x : Nat) (m : BitVec 8) (v : W64) (t : Option Nat) : (s.stampWrite d x m v t).kstate = s.kstate := rfl
@[simp] theorem State.stampWrite_cycle (d x : Nat) (m : BitVec 8) (v : W64) (t : Option Nat) : (s.stampWrite d x m v t).cycle = s.cycle := rfl
@[simp] theorem State.stampWrite_tick (d x : Nat) (m : BitVec 8) (v : W64) (t : Option Nat) : (s.stampWrite d x m v t).tick = s.tick := rfl
@[simp] theorem State.stampWrite_agenda (d x : Nat) (m : BitVec 8) (v : W64) (t : Option Nat) : (s.stampWrite d x m v t).agenda = s.agenda := rfl

/-! ## stampApply -/

@[simp] theorem State.stampApply_cur (d x : Nat) (m : BitVec 8) (v : W64) (t : Option Nat) : (s.stampApply d x m v t).cur = s.cur := rfl
@[simp] theorem State.stampApply_others (d x : Nat) (m : BitVec 8) (v : W64) (t : Option Nat) : (s.stampApply d x m v t).others = s.others := rfl
@[simp] theorem State.stampApply_teams (d x : Nat) (m : BitVec 8) (v : W64) (t : Option Nat) : (s.stampApply d x m v t).teams = s.teams := rfl
@[simp] theorem State.stampApply_clusters (d x : Nat) (m : BitVec 8) (v : W64) (t : Option Nat) : (s.stampApply d x m v t).clusters = s.clusters := rfl
@[simp] theorem State.stampApply_frames (d x : Nat) (m : BitVec 8) (v : W64) (t : Option Nat) : (s.stampApply d x m v t).frames = s.frames := rfl
@[simp] theorem State.stampApply_tcbs (d x : Nat) (m : BitVec 8) (v : W64) (t : Option Nat) : (s.stampApply d x m v t).tcbs = s.tcbs := rfl
@[simp] theorem State.stampApply_saved (d x : Nat) (m : BitVec 8) (v : W64) (t : Option Nat) : (s.stampApply d x m v t).saved = s.saved := rfl
@[simp] theorem State.stampApply_cores (d x : Nat) (m : BitVec 8) (v : W64) (t : Option Nat) : (s.stampApply d x m v t).cores = s.cores := rfl
@[simp] theorem State.stampApply_chans (d x : Nat) (m : BitVec 8) (v : W64) (t : Option Nat) : (s.stampApply d x m v t).chans = s.chans := rfl
@[simp] theorem State.stampApply_tlb (d x : Nat) (m : BitVec 8) (v : W64) (t : Option Nat) : (s.stampApply d x m v t).tlb = s.tlb := rfl
@[simp] theorem State.stampApply_scopes (d x : Nat) (m : BitVec 8) (v : W64) (t : Option Nat) : (s.stampApply d x m v t).scopes = s.scopes := rfl
@[simp] theorem State.stampApply_icache (d x : Nat) (m : BitVec 8) (v : W64) (t : Option Nat) : (s.stampApply d x m v t).icache = s.icache := rfl
@[simp] theorem State.stampApply_cups (d x : Nat) (m : BitVec 8) (v : W64) (t : Option Nat) : (s.stampApply d x m v t).cups = s.cups := rfl
@[simp] theorem State.stampApply_streams (d x : Nat) (m : BitVec 8) (v : W64) (t : Option Nat) : (s.stampApply d x m v t).streams = s.streams := rfl
@[simp] theorem State.stampApply_bags (d x : Nat) (m : BitVec 8) (v : W64) (t : Option Nat) : (s.stampApply d x m v t).bags = s.bags := rfl
@[simp] theorem State.stampApply_iters (d x : Nat) (m : BitVec 8) (v : W64) (t : Option Nat) : (s.stampApply d x m v t).iters = s.iters := rfl
@[simp] theorem State.stampApply_bagUndo (d x : Nat) (m : BitVec 8) (v : W64) (t : Option Nat) : (s.stampApply d x m v t).bagUndo = s.bagUndo := rfl
@[simp] theorem State.stampApply_ctxs (d x : Nat) (m : BitVec 8) (v : W64) (t : Option Nat) : (s.stampApply d x m v t).ctxs = s.ctxs := rfl
@[simp] theorem State.stampApply_lanterns (d x : Nat) (m : BitVec 8) (v : W64) (t : Option Nat) : (s.stampApply d x m v t).lanterns = s.lanterns := rfl
@[simp] theorem State.stampApply_resv (d x : Nat) (m : BitVec 8) (v : W64) (t : Option Nat) : (s.stampApply d x m v t).resv = s.resv := rfl
@[simp] theorem State.stampApply_roomAt (d x : Nat) (m : BitVec 8) (v : W64) (t : Option Nat) : (s.stampApply d x m v t).roomAt = s.roomAt := rfl
@[simp] theorem State.stampApply_snaps (d x : Nat) (m : BitVec 8) (v : W64) (t : Option Nat) : (s.stampApply d x m v t).snaps = s.snaps := rfl
@[simp] theorem State.stampApply_writers (d x : Nat) (m : BitVec 8) (v : W64) (t : Option Nat) : (s.stampApply d x m v t).writers = s.writers := rfl
@[simp] theorem State.stampApply_mgmt (d x : Nat) (m : BitVec 8) (v : W64) (t : Option Nat) : (s.stampApply d x m v t).mgmt = s.mgmt := rfl
@[simp] theorem State.stampApply_resp (d x : Nat) (m : BitVec 8) (v : W64) (t : Option Nat) : (s.stampApply d x m v t).resp = s.resp := rfl
@[simp] theorem State.stampApply_ring (d x : Nat) (m : BitVec 8) (v : W64) (t : Option Nat) : (s.stampApply d x m v t).ring = s.ring := rfl
@[simp] theorem State.stampApply_pend (d x : Nat) (m : BitVec 8) (v : W64) (t : Option Nat) : (s.stampApply d x m v t).pend = s.pend := rfl
@[simp] theorem State.stampApply_cmds (d x : Nat) (m : BitVec 8) (v : W64) (t : Option Nat) : (s.stampApply d x m v t).cmds = s.cmds := rfl
@[simp] theorem State.stampApply_lastCtx (d x : Nat) (m : BitVec 8) (v : W64) (t : Option Nat) : (s.stampApply d x m v t).lastCtx = s.lastCtx := rfl
@[simp] theorem State.stampApply_compl (d x : Nat) (m : BitVec 8) (v : W64) (t : Option Nat) : (s.stampApply d x m v t).compl = s.compl := rfl
@[simp] theorem State.stampApply_mirrored (d x : Nat) (m : BitVec 8) (v : W64) (t : Option Nat) : (s.stampApply d x m v t).mirrored = s.mirrored := rfl
@[simp] theorem State.stampApply_mirrorSent (d x : Nat) (m : BitVec 8) (v : W64) (t : Option Nat) : (s.stampApply d x m v t).mirrorSent = s.mirrorSent := rfl
@[simp] theorem State.stampApply_ports (d x : Nat) (m : BitVec 8) (v : W64) (t : Option Nat) : (s.stampApply d x m v t).ports = s.ports := rfl
@[simp] theorem State.stampApply_hlink (d x : Nat) (m : BitVec 8) (v : W64) (t : Option Nat) : (s.stampApply d x m v t).hlink = s.hlink := rfl
@[simp] theorem State.stampApply_routes (d x : Nat) (m : BitVec 8) (v : W64) (t : Option Nat) : (s.stampApply d x m v t).routes = s.routes := rfl
@[simp] theorem State.stampApply_domain (d x : Nat) (m : BitVec 8) (v : W64) (t : Option Nat) : (s.stampApply d x m v t).domain = s.domain := rfl
@[simp] theorem State.stampApply_hostSpan (d x : Nat) (m : BitVec 8) (v : W64) (t : Option Nat) : (s.stampApply d x m v t).hostSpan = s.hostSpan := rfl
@[simp] theorem State.stampApply_mirror (d x : Nat) (m : BitVec 8) (v : W64) (t : Option Nat) : (s.stampApply d x m v t).mirror = s.mirror := rfl
@[simp] theorem State.stampApply_fwver (d x : Nat) (m : BitVec 8) (v : W64) (t : Option Nat) : (s.stampApply d x m v t).fwver = s.fwver := rfl
@[simp] theorem State.stampApply_fwdig (d x : Nat) (m : BitVec 8) (v : W64) (t : Option Nat) : (s.stampApply d x m v t).fwdig = s.fwdig := rfl
@[simp] theorem State.stampApply_fwpend (d x : Nat) (m : BitVec 8) (v : W64) (t : Option Nat) : (s.stampApply d x m v t).fwpend = s.fwpend := rfl
@[simp] theorem State.stampApply_halted (d x : Nat) (m : BitVec 8) (v : W64) (t : Option Nat) : (s.stampApply d x m v t).halted = s.halted := rfl
@[simp] theorem State.stampApply_mhz (d x : Nat) (m : BitVec 8) (v : W64) (t : Option Nat) : (s.stampApply d x m v t).mhz = s.mhz := rfl
@[simp] theorem State.stampApply_kstate (d x : Nat) (m : BitVec 8) (v : W64) (t : Option Nat) : (s.stampApply d x m v t).kstate = s.kstate := rfl
@[simp] theorem State.stampApply_cycle (d x : Nat) (m : BitVec 8) (v : W64) (t : Option Nat) : (s.stampApply d x m v t).cycle = s.cycle := rfl
@[simp] theorem State.stampApply_tick (d x : Nat) (m : BitVec 8) (v : W64) (t : Option Nat) : (s.stampApply d x m v t).tick = s.tick := rfl
@[simp] theorem State.stampApply_agenda (d x : Nat) (m : BitVec 8) (v : W64) (t : Option Nat) : (s.stampApply d x m v t).agenda = s.agenda := rfl

/-! ## modTeam -/

@[simp] theorem State.modTeam_cur (f : Team → Team) : (s.modTeam f).cur = s.cur := rfl
@[simp] theorem State.modTeam_others (f : Team → Team) : (s.modTeam f).others = s.others := rfl
@[simp] theorem State.modTeam_clusters (f : Team → Team) : (s.modTeam f).clusters = s.clusters := rfl
@[simp] theorem State.modTeam_frames (f : Team → Team) : (s.modTeam f).frames = s.frames := rfl
@[simp] theorem State.modTeam_tcbs (f : Team → Team) : (s.modTeam f).tcbs = s.tcbs := rfl
@[simp] theorem State.modTeam_saved (f : Team → Team) : (s.modTeam f).saved = s.saved := rfl
@[simp] theorem State.modTeam_cores (f : Team → Team) : (s.modTeam f).cores = s.cores := rfl
@[simp] theorem State.modTeam_views (f : Team → Team) : (s.modTeam f).views = s.views := rfl
@[simp] theorem State.modTeam_clk (f : Team → Team) : (s.modTeam f).clk = s.clk := rfl
@[simp] theorem State.modTeam_nst (f : Team → Team) : (s.modTeam f).nst = s.nst := rfl
@[simp] theorem State.modTeam_writes (f : Team → Team) : (s.modTeam f).writes = s.writes := rfl
@[simp] theorem State.modTeam_chans (f : Team → Team) : (s.modTeam f).chans = s.chans := rfl
@[simp] theorem State.modTeam_poison (f : Team → Team) : (s.modTeam f).poison = s.poison := rfl
@[simp] theorem State.modTeam_tlb (f : Team → Team) : (s.modTeam f).tlb = s.tlb := rfl
@[simp] theorem State.modTeam_scopes (f : Team → Team) : (s.modTeam f).scopes = s.scopes := rfl
@[simp] theorem State.modTeam_icache (f : Team → Team) : (s.modTeam f).icache = s.icache := rfl
@[simp] theorem State.modTeam_belfry (f : Team → Team) : (s.modTeam f).belfry = s.belfry := rfl
@[simp] theorem State.modTeam_cups (f : Team → Team) : (s.modTeam f).cups = s.cups := rfl
@[simp] theorem State.modTeam_streams (f : Team → Team) : (s.modTeam f).streams = s.streams := rfl
@[simp] theorem State.modTeam_bags (f : Team → Team) : (s.modTeam f).bags = s.bags := rfl
@[simp] theorem State.modTeam_iters (f : Team → Team) : (s.modTeam f).iters = s.iters := rfl
@[simp] theorem State.modTeam_bagUndo (f : Team → Team) : (s.modTeam f).bagUndo = s.bagUndo := rfl
@[simp] theorem State.modTeam_ctxs (f : Team → Team) : (s.modTeam f).ctxs = s.ctxs := rfl
@[simp] theorem State.modTeam_lanterns (f : Team → Team) : (s.modTeam f).lanterns = s.lanterns := rfl
@[simp] theorem State.modTeam_resv (f : Team → Team) : (s.modTeam f).resv = s.resv := rfl
@[simp] theorem State.modTeam_roomAt (f : Team → Team) : (s.modTeam f).roomAt = s.roomAt := rfl
@[simp] theorem State.modTeam_snaps (f : Team → Team) : (s.modTeam f).snaps = s.snaps := rfl
@[simp] theorem State.modTeam_writers (f : Team → Team) : (s.modTeam f).writers = s.writers := rfl
@[simp] theorem State.modTeam_mgmt (f : Team → Team) : (s.modTeam f).mgmt = s.mgmt := rfl
@[simp] theorem State.modTeam_resp (f : Team → Team) : (s.modTeam f).resp = s.resp := rfl
@[simp] theorem State.modTeam_ring (f : Team → Team) : (s.modTeam f).ring = s.ring := rfl
@[simp] theorem State.modTeam_pend (f : Team → Team) : (s.modTeam f).pend = s.pend := rfl
@[simp] theorem State.modTeam_cmds (f : Team → Team) : (s.modTeam f).cmds = s.cmds := rfl
@[simp] theorem State.modTeam_lastCtx (f : Team → Team) : (s.modTeam f).lastCtx = s.lastCtx := rfl
@[simp] theorem State.modTeam_compl (f : Team → Team) : (s.modTeam f).compl = s.compl := rfl
@[simp] theorem State.modTeam_mirrored (f : Team → Team) : (s.modTeam f).mirrored = s.mirrored := rfl
@[simp] theorem State.modTeam_mirrorSent (f : Team → Team) : (s.modTeam f).mirrorSent = s.mirrorSent := rfl
@[simp] theorem State.modTeam_ports (f : Team → Team) : (s.modTeam f).ports = s.ports := rfl
@[simp] theorem State.modTeam_hlink (f : Team → Team) : (s.modTeam f).hlink = s.hlink := rfl
@[simp] theorem State.modTeam_routes (f : Team → Team) : (s.modTeam f).routes = s.routes := rfl
@[simp] theorem State.modTeam_domain (f : Team → Team) : (s.modTeam f).domain = s.domain := rfl
@[simp] theorem State.modTeam_hostSpan (f : Team → Team) : (s.modTeam f).hostSpan = s.hostSpan := rfl
@[simp] theorem State.modTeam_mirror (f : Team → Team) : (s.modTeam f).mirror = s.mirror := rfl
@[simp] theorem State.modTeam_fwver (f : Team → Team) : (s.modTeam f).fwver = s.fwver := rfl
@[simp] theorem State.modTeam_fwdig (f : Team → Team) : (s.modTeam f).fwdig = s.fwdig := rfl
@[simp] theorem State.modTeam_fwpend (f : Team → Team) : (s.modTeam f).fwpend = s.fwpend := rfl
@[simp] theorem State.modTeam_halted (f : Team → Team) : (s.modTeam f).halted = s.halted := rfl
@[simp] theorem State.modTeam_mhz (f : Team → Team) : (s.modTeam f).mhz = s.mhz := rfl
@[simp] theorem State.modTeam_kstate (f : Team → Team) : (s.modTeam f).kstate = s.kstate := rfl
@[simp] theorem State.modTeam_cycle (f : Team → Team) : (s.modTeam f).cycle = s.cycle := rfl
@[simp] theorem State.modTeam_tick (f : Team → Team) : (s.modTeam f).tick = s.tick := rfl
@[simp] theorem State.modTeam_nextId (f : Team → Team) : (s.modTeam f).nextId = s.nextId := rfl
@[simp] theorem State.modTeam_agenda (f : Team → Team) : (s.modTeam f).agenda = s.agenda := rfl

/-! ## modFrame -/

@[simp] theorem State.modFrame_cur (k : Nat) (f : Frame → Frame) : (s.modFrame k f).cur = s.cur := rfl
@[simp] theorem State.modFrame_others (k : Nat) (f : Frame → Frame) : (s.modFrame k f).others = s.others := rfl
@[simp] theorem State.modFrame_teams (k : Nat) (f : Frame → Frame) : (s.modFrame k f).teams = s.teams := rfl
@[simp] theorem State.modFrame_clusters (k : Nat) (f : Frame → Frame) : (s.modFrame k f).clusters = s.clusters := rfl
@[simp] theorem State.modFrame_tcbs (k : Nat) (f : Frame → Frame) : (s.modFrame k f).tcbs = s.tcbs := rfl
@[simp] theorem State.modFrame_saved (k : Nat) (f : Frame → Frame) : (s.modFrame k f).saved = s.saved := rfl
@[simp] theorem State.modFrame_cores (k : Nat) (f : Frame → Frame) : (s.modFrame k f).cores = s.cores := rfl
@[simp] theorem State.modFrame_views (k : Nat) (f : Frame → Frame) : (s.modFrame k f).views = s.views := rfl
@[simp] theorem State.modFrame_clk (k : Nat) (f : Frame → Frame) : (s.modFrame k f).clk = s.clk := rfl
@[simp] theorem State.modFrame_nst (k : Nat) (f : Frame → Frame) : (s.modFrame k f).nst = s.nst := rfl
@[simp] theorem State.modFrame_writes (k : Nat) (f : Frame → Frame) : (s.modFrame k f).writes = s.writes := rfl
@[simp] theorem State.modFrame_chans (k : Nat) (f : Frame → Frame) : (s.modFrame k f).chans = s.chans := rfl
@[simp] theorem State.modFrame_poison (k : Nat) (f : Frame → Frame) : (s.modFrame k f).poison = s.poison := rfl
@[simp] theorem State.modFrame_tlb (k : Nat) (f : Frame → Frame) : (s.modFrame k f).tlb = s.tlb := rfl
@[simp] theorem State.modFrame_scopes (k : Nat) (f : Frame → Frame) : (s.modFrame k f).scopes = s.scopes := rfl
@[simp] theorem State.modFrame_icache (k : Nat) (f : Frame → Frame) : (s.modFrame k f).icache = s.icache := rfl
@[simp] theorem State.modFrame_belfry (k : Nat) (f : Frame → Frame) : (s.modFrame k f).belfry = s.belfry := rfl
@[simp] theorem State.modFrame_cups (k : Nat) (f : Frame → Frame) : (s.modFrame k f).cups = s.cups := rfl
@[simp] theorem State.modFrame_streams (k : Nat) (f : Frame → Frame) : (s.modFrame k f).streams = s.streams := rfl
@[simp] theorem State.modFrame_bags (k : Nat) (f : Frame → Frame) : (s.modFrame k f).bags = s.bags := rfl
@[simp] theorem State.modFrame_iters (k : Nat) (f : Frame → Frame) : (s.modFrame k f).iters = s.iters := rfl
@[simp] theorem State.modFrame_bagUndo (k : Nat) (f : Frame → Frame) : (s.modFrame k f).bagUndo = s.bagUndo := rfl
@[simp] theorem State.modFrame_ctxs (k : Nat) (f : Frame → Frame) : (s.modFrame k f).ctxs = s.ctxs := rfl
@[simp] theorem State.modFrame_lanterns (k : Nat) (f : Frame → Frame) : (s.modFrame k f).lanterns = s.lanterns := rfl
@[simp] theorem State.modFrame_resv (k : Nat) (f : Frame → Frame) : (s.modFrame k f).resv = s.resv := rfl
@[simp] theorem State.modFrame_roomAt (k : Nat) (f : Frame → Frame) : (s.modFrame k f).roomAt = s.roomAt := rfl
@[simp] theorem State.modFrame_snaps (k : Nat) (f : Frame → Frame) : (s.modFrame k f).snaps = s.snaps := rfl
@[simp] theorem State.modFrame_writers (k : Nat) (f : Frame → Frame) : (s.modFrame k f).writers = s.writers := rfl
@[simp] theorem State.modFrame_mgmt (k : Nat) (f : Frame → Frame) : (s.modFrame k f).mgmt = s.mgmt := rfl
@[simp] theorem State.modFrame_resp (k : Nat) (f : Frame → Frame) : (s.modFrame k f).resp = s.resp := rfl
@[simp] theorem State.modFrame_ring (k : Nat) (f : Frame → Frame) : (s.modFrame k f).ring = s.ring := rfl
@[simp] theorem State.modFrame_pend (k : Nat) (f : Frame → Frame) : (s.modFrame k f).pend = s.pend := rfl
@[simp] theorem State.modFrame_cmds (k : Nat) (f : Frame → Frame) : (s.modFrame k f).cmds = s.cmds := rfl
@[simp] theorem State.modFrame_lastCtx (k : Nat) (f : Frame → Frame) : (s.modFrame k f).lastCtx = s.lastCtx := rfl
@[simp] theorem State.modFrame_compl (k : Nat) (f : Frame → Frame) : (s.modFrame k f).compl = s.compl := rfl
@[simp] theorem State.modFrame_mirrored (k : Nat) (f : Frame → Frame) : (s.modFrame k f).mirrored = s.mirrored := rfl
@[simp] theorem State.modFrame_mirrorSent (k : Nat) (f : Frame → Frame) : (s.modFrame k f).mirrorSent = s.mirrorSent := rfl
@[simp] theorem State.modFrame_ports (k : Nat) (f : Frame → Frame) : (s.modFrame k f).ports = s.ports := rfl
@[simp] theorem State.modFrame_hlink (k : Nat) (f : Frame → Frame) : (s.modFrame k f).hlink = s.hlink := rfl
@[simp] theorem State.modFrame_routes (k : Nat) (f : Frame → Frame) : (s.modFrame k f).routes = s.routes := rfl
@[simp] theorem State.modFrame_domain (k : Nat) (f : Frame → Frame) : (s.modFrame k f).domain = s.domain := rfl
@[simp] theorem State.modFrame_hostSpan (k : Nat) (f : Frame → Frame) : (s.modFrame k f).hostSpan = s.hostSpan := rfl
@[simp] theorem State.modFrame_mirror (k : Nat) (f : Frame → Frame) : (s.modFrame k f).mirror = s.mirror := rfl
@[simp] theorem State.modFrame_fwver (k : Nat) (f : Frame → Frame) : (s.modFrame k f).fwver = s.fwver := rfl
@[simp] theorem State.modFrame_fwdig (k : Nat) (f : Frame → Frame) : (s.modFrame k f).fwdig = s.fwdig := rfl
@[simp] theorem State.modFrame_fwpend (k : Nat) (f : Frame → Frame) : (s.modFrame k f).fwpend = s.fwpend := rfl
@[simp] theorem State.modFrame_halted (k : Nat) (f : Frame → Frame) : (s.modFrame k f).halted = s.halted := rfl
@[simp] theorem State.modFrame_mhz (k : Nat) (f : Frame → Frame) : (s.modFrame k f).mhz = s.mhz := rfl
@[simp] theorem State.modFrame_kstate (k : Nat) (f : Frame → Frame) : (s.modFrame k f).kstate = s.kstate := rfl
@[simp] theorem State.modFrame_cycle (k : Nat) (f : Frame → Frame) : (s.modFrame k f).cycle = s.cycle := rfl
@[simp] theorem State.modFrame_tick (k : Nat) (f : Frame → Frame) : (s.modFrame k f).tick = s.tick := rfl
@[simp] theorem State.modFrame_nextId (k : Nat) (f : Frame → Frame) : (s.modFrame k f).nextId = s.nextId := rfl
@[simp] theorem State.modFrame_agenda (k : Nat) (f : Frame → Frame) : (s.modFrame k f).agenda = s.agenda := rfl

/-! ## modCtx -/

@[simp] theorem State.modCtx_cur (f : CtxState → CtxState) : (s.modCtx f).cur = s.cur := rfl
@[simp] theorem State.modCtx_others (f : CtxState → CtxState) : (s.modCtx f).others = s.others := rfl
@[simp] theorem State.modCtx_teams (f : CtxState → CtxState) : (s.modCtx f).teams = s.teams := rfl
@[simp] theorem State.modCtx_clusters (f : CtxState → CtxState) : (s.modCtx f).clusters = s.clusters := rfl
@[simp] theorem State.modCtx_frames (f : CtxState → CtxState) : (s.modCtx f).frames = s.frames := rfl
@[simp] theorem State.modCtx_tcbs (f : CtxState → CtxState) : (s.modCtx f).tcbs = s.tcbs := rfl
@[simp] theorem State.modCtx_saved (f : CtxState → CtxState) : (s.modCtx f).saved = s.saved := rfl
@[simp] theorem State.modCtx_cores (f : CtxState → CtxState) : (s.modCtx f).cores = s.cores := rfl
@[simp] theorem State.modCtx_views (f : CtxState → CtxState) : (s.modCtx f).views = s.views := rfl
@[simp] theorem State.modCtx_clk (f : CtxState → CtxState) : (s.modCtx f).clk = s.clk := rfl
@[simp] theorem State.modCtx_nst (f : CtxState → CtxState) : (s.modCtx f).nst = s.nst := rfl
@[simp] theorem State.modCtx_writes (f : CtxState → CtxState) : (s.modCtx f).writes = s.writes := rfl
@[simp] theorem State.modCtx_chans (f : CtxState → CtxState) : (s.modCtx f).chans = s.chans := rfl
@[simp] theorem State.modCtx_poison (f : CtxState → CtxState) : (s.modCtx f).poison = s.poison := rfl
@[simp] theorem State.modCtx_tlb (f : CtxState → CtxState) : (s.modCtx f).tlb = s.tlb := rfl
@[simp] theorem State.modCtx_scopes (f : CtxState → CtxState) : (s.modCtx f).scopes = s.scopes := rfl
@[simp] theorem State.modCtx_icache (f : CtxState → CtxState) : (s.modCtx f).icache = s.icache := rfl
@[simp] theorem State.modCtx_belfry (f : CtxState → CtxState) : (s.modCtx f).belfry = s.belfry := rfl
@[simp] theorem State.modCtx_cups (f : CtxState → CtxState) : (s.modCtx f).cups = s.cups := rfl
@[simp] theorem State.modCtx_streams (f : CtxState → CtxState) : (s.modCtx f).streams = s.streams := rfl
@[simp] theorem State.modCtx_bags (f : CtxState → CtxState) : (s.modCtx f).bags = s.bags := rfl
@[simp] theorem State.modCtx_iters (f : CtxState → CtxState) : (s.modCtx f).iters = s.iters := rfl
@[simp] theorem State.modCtx_bagUndo (f : CtxState → CtxState) : (s.modCtx f).bagUndo = s.bagUndo := rfl
@[simp] theorem State.modCtx_lanterns (f : CtxState → CtxState) : (s.modCtx f).lanterns = s.lanterns := rfl
@[simp] theorem State.modCtx_resv (f : CtxState → CtxState) : (s.modCtx f).resv = s.resv := rfl
@[simp] theorem State.modCtx_roomAt (f : CtxState → CtxState) : (s.modCtx f).roomAt = s.roomAt := rfl
@[simp] theorem State.modCtx_snaps (f : CtxState → CtxState) : (s.modCtx f).snaps = s.snaps := rfl
@[simp] theorem State.modCtx_writers (f : CtxState → CtxState) : (s.modCtx f).writers = s.writers := rfl
@[simp] theorem State.modCtx_mgmt (f : CtxState → CtxState) : (s.modCtx f).mgmt = s.mgmt := rfl
@[simp] theorem State.modCtx_resp (f : CtxState → CtxState) : (s.modCtx f).resp = s.resp := rfl
@[simp] theorem State.modCtx_ring (f : CtxState → CtxState) : (s.modCtx f).ring = s.ring := rfl
@[simp] theorem State.modCtx_pend (f : CtxState → CtxState) : (s.modCtx f).pend = s.pend := rfl
@[simp] theorem State.modCtx_cmds (f : CtxState → CtxState) : (s.modCtx f).cmds = s.cmds := rfl
@[simp] theorem State.modCtx_lastCtx (f : CtxState → CtxState) : (s.modCtx f).lastCtx = s.lastCtx := rfl
@[simp] theorem State.modCtx_compl (f : CtxState → CtxState) : (s.modCtx f).compl = s.compl := rfl
@[simp] theorem State.modCtx_mirrored (f : CtxState → CtxState) : (s.modCtx f).mirrored = s.mirrored := rfl
@[simp] theorem State.modCtx_mirrorSent (f : CtxState → CtxState) : (s.modCtx f).mirrorSent = s.mirrorSent := rfl
@[simp] theorem State.modCtx_ports (f : CtxState → CtxState) : (s.modCtx f).ports = s.ports := rfl
@[simp] theorem State.modCtx_hlink (f : CtxState → CtxState) : (s.modCtx f).hlink = s.hlink := rfl
@[simp] theorem State.modCtx_routes (f : CtxState → CtxState) : (s.modCtx f).routes = s.routes := rfl
@[simp] theorem State.modCtx_domain (f : CtxState → CtxState) : (s.modCtx f).domain = s.domain := rfl
@[simp] theorem State.modCtx_hostSpan (f : CtxState → CtxState) : (s.modCtx f).hostSpan = s.hostSpan := rfl
@[simp] theorem State.modCtx_mirror (f : CtxState → CtxState) : (s.modCtx f).mirror = s.mirror := rfl
@[simp] theorem State.modCtx_fwver (f : CtxState → CtxState) : (s.modCtx f).fwver = s.fwver := rfl
@[simp] theorem State.modCtx_fwdig (f : CtxState → CtxState) : (s.modCtx f).fwdig = s.fwdig := rfl
@[simp] theorem State.modCtx_fwpend (f : CtxState → CtxState) : (s.modCtx f).fwpend = s.fwpend := rfl
@[simp] theorem State.modCtx_halted (f : CtxState → CtxState) : (s.modCtx f).halted = s.halted := rfl
@[simp] theorem State.modCtx_mhz (f : CtxState → CtxState) : (s.modCtx f).mhz = s.mhz := rfl
@[simp] theorem State.modCtx_kstate (f : CtxState → CtxState) : (s.modCtx f).kstate = s.kstate := rfl
@[simp] theorem State.modCtx_cycle (f : CtxState → CtxState) : (s.modCtx f).cycle = s.cycle := rfl
@[simp] theorem State.modCtx_tick (f : CtxState → CtxState) : (s.modCtx f).tick = s.tick := rfl
@[simp] theorem State.modCtx_nextId (f : CtxState → CtxState) : (s.modCtx f).nextId = s.nextId := rfl
@[simp] theorem State.modCtx_agenda (f : CtxState → CtxState) : (s.modCtx f).agenda = s.agenda := rfl

/-! ## modTcb -/

@[simp] theorem State.modTcb_cur (i : Nat) (f : Tcb → Tcb) : (s.modTcb i f).cur = s.cur := rfl
@[simp] theorem State.modTcb_others (i : Nat) (f : Tcb → Tcb) : (s.modTcb i f).others = s.others := rfl
@[simp] theorem State.modTcb_teams (i : Nat) (f : Tcb → Tcb) : (s.modTcb i f).teams = s.teams := rfl
@[simp] theorem State.modTcb_clusters (i : Nat) (f : Tcb → Tcb) : (s.modTcb i f).clusters = s.clusters := rfl
@[simp] theorem State.modTcb_frames (i : Nat) (f : Tcb → Tcb) : (s.modTcb i f).frames = s.frames := rfl
@[simp] theorem State.modTcb_saved (i : Nat) (f : Tcb → Tcb) : (s.modTcb i f).saved = s.saved := rfl
@[simp] theorem State.modTcb_cores (i : Nat) (f : Tcb → Tcb) : (s.modTcb i f).cores = s.cores := rfl
@[simp] theorem State.modTcb_views (i : Nat) (f : Tcb → Tcb) : (s.modTcb i f).views = s.views := rfl
@[simp] theorem State.modTcb_clk (i : Nat) (f : Tcb → Tcb) : (s.modTcb i f).clk = s.clk := rfl
@[simp] theorem State.modTcb_nst (i : Nat) (f : Tcb → Tcb) : (s.modTcb i f).nst = s.nst := rfl
@[simp] theorem State.modTcb_writes (i : Nat) (f : Tcb → Tcb) : (s.modTcb i f).writes = s.writes := rfl
@[simp] theorem State.modTcb_chans (i : Nat) (f : Tcb → Tcb) : (s.modTcb i f).chans = s.chans := rfl
@[simp] theorem State.modTcb_poison (i : Nat) (f : Tcb → Tcb) : (s.modTcb i f).poison = s.poison := rfl
@[simp] theorem State.modTcb_tlb (i : Nat) (f : Tcb → Tcb) : (s.modTcb i f).tlb = s.tlb := rfl
@[simp] theorem State.modTcb_scopes (i : Nat) (f : Tcb → Tcb) : (s.modTcb i f).scopes = s.scopes := rfl
@[simp] theorem State.modTcb_icache (i : Nat) (f : Tcb → Tcb) : (s.modTcb i f).icache = s.icache := rfl
@[simp] theorem State.modTcb_belfry (i : Nat) (f : Tcb → Tcb) : (s.modTcb i f).belfry = s.belfry := rfl
@[simp] theorem State.modTcb_cups (i : Nat) (f : Tcb → Tcb) : (s.modTcb i f).cups = s.cups := rfl
@[simp] theorem State.modTcb_streams (i : Nat) (f : Tcb → Tcb) : (s.modTcb i f).streams = s.streams := rfl
@[simp] theorem State.modTcb_bags (i : Nat) (f : Tcb → Tcb) : (s.modTcb i f).bags = s.bags := rfl
@[simp] theorem State.modTcb_iters (i : Nat) (f : Tcb → Tcb) : (s.modTcb i f).iters = s.iters := rfl
@[simp] theorem State.modTcb_bagUndo (i : Nat) (f : Tcb → Tcb) : (s.modTcb i f).bagUndo = s.bagUndo := rfl
@[simp] theorem State.modTcb_ctxs (i : Nat) (f : Tcb → Tcb) : (s.modTcb i f).ctxs = s.ctxs := rfl
@[simp] theorem State.modTcb_lanterns (i : Nat) (f : Tcb → Tcb) : (s.modTcb i f).lanterns = s.lanterns := rfl
@[simp] theorem State.modTcb_resv (i : Nat) (f : Tcb → Tcb) : (s.modTcb i f).resv = s.resv := rfl
@[simp] theorem State.modTcb_roomAt (i : Nat) (f : Tcb → Tcb) : (s.modTcb i f).roomAt = s.roomAt := rfl
@[simp] theorem State.modTcb_snaps (i : Nat) (f : Tcb → Tcb) : (s.modTcb i f).snaps = s.snaps := rfl
@[simp] theorem State.modTcb_writers (i : Nat) (f : Tcb → Tcb) : (s.modTcb i f).writers = s.writers := rfl
@[simp] theorem State.modTcb_mgmt (i : Nat) (f : Tcb → Tcb) : (s.modTcb i f).mgmt = s.mgmt := rfl
@[simp] theorem State.modTcb_resp (i : Nat) (f : Tcb → Tcb) : (s.modTcb i f).resp = s.resp := rfl
@[simp] theorem State.modTcb_ring (i : Nat) (f : Tcb → Tcb) : (s.modTcb i f).ring = s.ring := rfl
@[simp] theorem State.modTcb_pend (i : Nat) (f : Tcb → Tcb) : (s.modTcb i f).pend = s.pend := rfl
@[simp] theorem State.modTcb_cmds (i : Nat) (f : Tcb → Tcb) : (s.modTcb i f).cmds = s.cmds := rfl
@[simp] theorem State.modTcb_lastCtx (i : Nat) (f : Tcb → Tcb) : (s.modTcb i f).lastCtx = s.lastCtx := rfl
@[simp] theorem State.modTcb_compl (i : Nat) (f : Tcb → Tcb) : (s.modTcb i f).compl = s.compl := rfl
@[simp] theorem State.modTcb_mirrored (i : Nat) (f : Tcb → Tcb) : (s.modTcb i f).mirrored = s.mirrored := rfl
@[simp] theorem State.modTcb_mirrorSent (i : Nat) (f : Tcb → Tcb) : (s.modTcb i f).mirrorSent = s.mirrorSent := rfl
@[simp] theorem State.modTcb_ports (i : Nat) (f : Tcb → Tcb) : (s.modTcb i f).ports = s.ports := rfl
@[simp] theorem State.modTcb_hlink (i : Nat) (f : Tcb → Tcb) : (s.modTcb i f).hlink = s.hlink := rfl
@[simp] theorem State.modTcb_routes (i : Nat) (f : Tcb → Tcb) : (s.modTcb i f).routes = s.routes := rfl
@[simp] theorem State.modTcb_domain (i : Nat) (f : Tcb → Tcb) : (s.modTcb i f).domain = s.domain := rfl
@[simp] theorem State.modTcb_hostSpan (i : Nat) (f : Tcb → Tcb) : (s.modTcb i f).hostSpan = s.hostSpan := rfl
@[simp] theorem State.modTcb_mirror (i : Nat) (f : Tcb → Tcb) : (s.modTcb i f).mirror = s.mirror := rfl
@[simp] theorem State.modTcb_fwver (i : Nat) (f : Tcb → Tcb) : (s.modTcb i f).fwver = s.fwver := rfl
@[simp] theorem State.modTcb_fwdig (i : Nat) (f : Tcb → Tcb) : (s.modTcb i f).fwdig = s.fwdig := rfl
@[simp] theorem State.modTcb_fwpend (i : Nat) (f : Tcb → Tcb) : (s.modTcb i f).fwpend = s.fwpend := rfl
@[simp] theorem State.modTcb_halted (i : Nat) (f : Tcb → Tcb) : (s.modTcb i f).halted = s.halted := rfl
@[simp] theorem State.modTcb_mhz (i : Nat) (f : Tcb → Tcb) : (s.modTcb i f).mhz = s.mhz := rfl
@[simp] theorem State.modTcb_kstate (i : Nat) (f : Tcb → Tcb) : (s.modTcb i f).kstate = s.kstate := rfl
@[simp] theorem State.modTcb_cycle (i : Nat) (f : Tcb → Tcb) : (s.modTcb i f).cycle = s.cycle := rfl
@[simp] theorem State.modTcb_tick (i : Nat) (f : Tcb → Tcb) : (s.modTcb i f).tick = s.tick := rfl
@[simp] theorem State.modTcb_agenda (i : Nat) (f : Tcb → Tcb) : (s.modTcb i f).agenda = s.agenda := rfl

/-! ## modCore -/

@[simp] theorem State.modCore_cur (i : Nat) (f : Core → Core) : (s.modCore i f).cur = s.cur := rfl
@[simp] theorem State.modCore_others (i : Nat) (f : Core → Core) : (s.modCore i f).others = s.others := rfl
@[simp] theorem State.modCore_teams (i : Nat) (f : Core → Core) : (s.modCore i f).teams = s.teams := rfl
@[simp] theorem State.modCore_clusters (i : Nat) (f : Core → Core) : (s.modCore i f).clusters = s.clusters := rfl
@[simp] theorem State.modCore_frames (i : Nat) (f : Core → Core) : (s.modCore i f).frames = s.frames := rfl
@[simp] theorem State.modCore_tcbs (i : Nat) (f : Core → Core) : (s.modCore i f).tcbs = s.tcbs := rfl
@[simp] theorem State.modCore_saved (i : Nat) (f : Core → Core) : (s.modCore i f).saved = s.saved := rfl
@[simp] theorem State.modCore_views (i : Nat) (f : Core → Core) : (s.modCore i f).views = s.views := rfl
@[simp] theorem State.modCore_clk (i : Nat) (f : Core → Core) : (s.modCore i f).clk = s.clk := rfl
@[simp] theorem State.modCore_nst (i : Nat) (f : Core → Core) : (s.modCore i f).nst = s.nst := rfl
@[simp] theorem State.modCore_writes (i : Nat) (f : Core → Core) : (s.modCore i f).writes = s.writes := rfl
@[simp] theorem State.modCore_chans (i : Nat) (f : Core → Core) : (s.modCore i f).chans = s.chans := rfl
@[simp] theorem State.modCore_poison (i : Nat) (f : Core → Core) : (s.modCore i f).poison = s.poison := rfl
@[simp] theorem State.modCore_tlb (i : Nat) (f : Core → Core) : (s.modCore i f).tlb = s.tlb := rfl
@[simp] theorem State.modCore_scopes (i : Nat) (f : Core → Core) : (s.modCore i f).scopes = s.scopes := rfl
@[simp] theorem State.modCore_icache (i : Nat) (f : Core → Core) : (s.modCore i f).icache = s.icache := rfl
@[simp] theorem State.modCore_belfry (i : Nat) (f : Core → Core) : (s.modCore i f).belfry = s.belfry := rfl
@[simp] theorem State.modCore_cups (i : Nat) (f : Core → Core) : (s.modCore i f).cups = s.cups := rfl
@[simp] theorem State.modCore_streams (i : Nat) (f : Core → Core) : (s.modCore i f).streams = s.streams := rfl
@[simp] theorem State.modCore_bags (i : Nat) (f : Core → Core) : (s.modCore i f).bags = s.bags := rfl
@[simp] theorem State.modCore_iters (i : Nat) (f : Core → Core) : (s.modCore i f).iters = s.iters := rfl
@[simp] theorem State.modCore_bagUndo (i : Nat) (f : Core → Core) : (s.modCore i f).bagUndo = s.bagUndo := rfl
@[simp] theorem State.modCore_ctxs (i : Nat) (f : Core → Core) : (s.modCore i f).ctxs = s.ctxs := rfl
@[simp] theorem State.modCore_lanterns (i : Nat) (f : Core → Core) : (s.modCore i f).lanterns = s.lanterns := rfl
@[simp] theorem State.modCore_resv (i : Nat) (f : Core → Core) : (s.modCore i f).resv = s.resv := rfl
@[simp] theorem State.modCore_roomAt (i : Nat) (f : Core → Core) : (s.modCore i f).roomAt = s.roomAt := rfl
@[simp] theorem State.modCore_snaps (i : Nat) (f : Core → Core) : (s.modCore i f).snaps = s.snaps := rfl
@[simp] theorem State.modCore_writers (i : Nat) (f : Core → Core) : (s.modCore i f).writers = s.writers := rfl
@[simp] theorem State.modCore_mgmt (i : Nat) (f : Core → Core) : (s.modCore i f).mgmt = s.mgmt := rfl
@[simp] theorem State.modCore_resp (i : Nat) (f : Core → Core) : (s.modCore i f).resp = s.resp := rfl
@[simp] theorem State.modCore_ring (i : Nat) (f : Core → Core) : (s.modCore i f).ring = s.ring := rfl
@[simp] theorem State.modCore_pend (i : Nat) (f : Core → Core) : (s.modCore i f).pend = s.pend := rfl
@[simp] theorem State.modCore_cmds (i : Nat) (f : Core → Core) : (s.modCore i f).cmds = s.cmds := rfl
@[simp] theorem State.modCore_lastCtx (i : Nat) (f : Core → Core) : (s.modCore i f).lastCtx = s.lastCtx := rfl
@[simp] theorem State.modCore_compl (i : Nat) (f : Core → Core) : (s.modCore i f).compl = s.compl := rfl
@[simp] theorem State.modCore_mirrored (i : Nat) (f : Core → Core) : (s.modCore i f).mirrored = s.mirrored := rfl
@[simp] theorem State.modCore_mirrorSent (i : Nat) (f : Core → Core) : (s.modCore i f).mirrorSent = s.mirrorSent := rfl
@[simp] theorem State.modCore_ports (i : Nat) (f : Core → Core) : (s.modCore i f).ports = s.ports := rfl
@[simp] theorem State.modCore_hlink (i : Nat) (f : Core → Core) : (s.modCore i f).hlink = s.hlink := rfl
@[simp] theorem State.modCore_routes (i : Nat) (f : Core → Core) : (s.modCore i f).routes = s.routes := rfl
@[simp] theorem State.modCore_domain (i : Nat) (f : Core → Core) : (s.modCore i f).domain = s.domain := rfl
@[simp] theorem State.modCore_hostSpan (i : Nat) (f : Core → Core) : (s.modCore i f).hostSpan = s.hostSpan := rfl
@[simp] theorem State.modCore_mirror (i : Nat) (f : Core → Core) : (s.modCore i f).mirror = s.mirror := rfl
@[simp] theorem State.modCore_fwver (i : Nat) (f : Core → Core) : (s.modCore i f).fwver = s.fwver := rfl
@[simp] theorem State.modCore_fwdig (i : Nat) (f : Core → Core) : (s.modCore i f).fwdig = s.fwdig := rfl
@[simp] theorem State.modCore_fwpend (i : Nat) (f : Core → Core) : (s.modCore i f).fwpend = s.fwpend := rfl
@[simp] theorem State.modCore_halted (i : Nat) (f : Core → Core) : (s.modCore i f).halted = s.halted := rfl
@[simp] theorem State.modCore_mhz (i : Nat) (f : Core → Core) : (s.modCore i f).mhz = s.mhz := rfl
@[simp] theorem State.modCore_kstate (i : Nat) (f : Core → Core) : (s.modCore i f).kstate = s.kstate := rfl
@[simp] theorem State.modCore_cycle (i : Nat) (f : Core → Core) : (s.modCore i f).cycle = s.cycle := rfl
@[simp] theorem State.modCore_tick (i : Nat) (f : Core → Core) : (s.modCore i f).tick = s.tick := rfl
@[simp] theorem State.modCore_nextId (i : Nat) (f : Core → Core) : (s.modCore i f).nextId = s.nextId := rfl
@[simp] theorem State.modCore_agenda (i : Nat) (f : Core → Core) : (s.modCore i f).agenda = s.agenda := rfl

/-! ## modCup -/

@[simp] theorem State.modCup_cur (i : Nat) (f : Cupola → Cupola) : (s.modCup i f).cur = s.cur := rfl
@[simp] theorem State.modCup_others (i : Nat) (f : Cupola → Cupola) : (s.modCup i f).others = s.others := rfl
@[simp] theorem State.modCup_teams (i : Nat) (f : Cupola → Cupola) : (s.modCup i f).teams = s.teams := rfl
@[simp] theorem State.modCup_clusters (i : Nat) (f : Cupola → Cupola) : (s.modCup i f).clusters = s.clusters := rfl
@[simp] theorem State.modCup_frames (i : Nat) (f : Cupola → Cupola) : (s.modCup i f).frames = s.frames := rfl
@[simp] theorem State.modCup_tcbs (i : Nat) (f : Cupola → Cupola) : (s.modCup i f).tcbs = s.tcbs := rfl
@[simp] theorem State.modCup_saved (i : Nat) (f : Cupola → Cupola) : (s.modCup i f).saved = s.saved := rfl
@[simp] theorem State.modCup_cores (i : Nat) (f : Cupola → Cupola) : (s.modCup i f).cores = s.cores := rfl
@[simp] theorem State.modCup_views (i : Nat) (f : Cupola → Cupola) : (s.modCup i f).views = s.views := rfl
@[simp] theorem State.modCup_clk (i : Nat) (f : Cupola → Cupola) : (s.modCup i f).clk = s.clk := rfl
@[simp] theorem State.modCup_nst (i : Nat) (f : Cupola → Cupola) : (s.modCup i f).nst = s.nst := rfl
@[simp] theorem State.modCup_writes (i : Nat) (f : Cupola → Cupola) : (s.modCup i f).writes = s.writes := rfl
@[simp] theorem State.modCup_chans (i : Nat) (f : Cupola → Cupola) : (s.modCup i f).chans = s.chans := rfl
@[simp] theorem State.modCup_poison (i : Nat) (f : Cupola → Cupola) : (s.modCup i f).poison = s.poison := rfl
@[simp] theorem State.modCup_tlb (i : Nat) (f : Cupola → Cupola) : (s.modCup i f).tlb = s.tlb := rfl
@[simp] theorem State.modCup_scopes (i : Nat) (f : Cupola → Cupola) : (s.modCup i f).scopes = s.scopes := rfl
@[simp] theorem State.modCup_icache (i : Nat) (f : Cupola → Cupola) : (s.modCup i f).icache = s.icache := rfl
@[simp] theorem State.modCup_belfry (i : Nat) (f : Cupola → Cupola) : (s.modCup i f).belfry = s.belfry := rfl
@[simp] theorem State.modCup_streams (i : Nat) (f : Cupola → Cupola) : (s.modCup i f).streams = s.streams := rfl
@[simp] theorem State.modCup_bags (i : Nat) (f : Cupola → Cupola) : (s.modCup i f).bags = s.bags := rfl
@[simp] theorem State.modCup_iters (i : Nat) (f : Cupola → Cupola) : (s.modCup i f).iters = s.iters := rfl
@[simp] theorem State.modCup_bagUndo (i : Nat) (f : Cupola → Cupola) : (s.modCup i f).bagUndo = s.bagUndo := rfl
@[simp] theorem State.modCup_ctxs (i : Nat) (f : Cupola → Cupola) : (s.modCup i f).ctxs = s.ctxs := rfl
@[simp] theorem State.modCup_lanterns (i : Nat) (f : Cupola → Cupola) : (s.modCup i f).lanterns = s.lanterns := rfl
@[simp] theorem State.modCup_resv (i : Nat) (f : Cupola → Cupola) : (s.modCup i f).resv = s.resv := rfl
@[simp] theorem State.modCup_roomAt (i : Nat) (f : Cupola → Cupola) : (s.modCup i f).roomAt = s.roomAt := rfl
@[simp] theorem State.modCup_snaps (i : Nat) (f : Cupola → Cupola) : (s.modCup i f).snaps = s.snaps := rfl
@[simp] theorem State.modCup_writers (i : Nat) (f : Cupola → Cupola) : (s.modCup i f).writers = s.writers := rfl
@[simp] theorem State.modCup_mgmt (i : Nat) (f : Cupola → Cupola) : (s.modCup i f).mgmt = s.mgmt := rfl
@[simp] theorem State.modCup_resp (i : Nat) (f : Cupola → Cupola) : (s.modCup i f).resp = s.resp := rfl
@[simp] theorem State.modCup_ring (i : Nat) (f : Cupola → Cupola) : (s.modCup i f).ring = s.ring := rfl
@[simp] theorem State.modCup_pend (i : Nat) (f : Cupola → Cupola) : (s.modCup i f).pend = s.pend := rfl
@[simp] theorem State.modCup_cmds (i : Nat) (f : Cupola → Cupola) : (s.modCup i f).cmds = s.cmds := rfl
@[simp] theorem State.modCup_lastCtx (i : Nat) (f : Cupola → Cupola) : (s.modCup i f).lastCtx = s.lastCtx := rfl
@[simp] theorem State.modCup_compl (i : Nat) (f : Cupola → Cupola) : (s.modCup i f).compl = s.compl := rfl
@[simp] theorem State.modCup_mirrored (i : Nat) (f : Cupola → Cupola) : (s.modCup i f).mirrored = s.mirrored := rfl
@[simp] theorem State.modCup_mirrorSent (i : Nat) (f : Cupola → Cupola) : (s.modCup i f).mirrorSent = s.mirrorSent := rfl
@[simp] theorem State.modCup_ports (i : Nat) (f : Cupola → Cupola) : (s.modCup i f).ports = s.ports := rfl
@[simp] theorem State.modCup_hlink (i : Nat) (f : Cupola → Cupola) : (s.modCup i f).hlink = s.hlink := rfl
@[simp] theorem State.modCup_routes (i : Nat) (f : Cupola → Cupola) : (s.modCup i f).routes = s.routes := rfl
@[simp] theorem State.modCup_domain (i : Nat) (f : Cupola → Cupola) : (s.modCup i f).domain = s.domain := rfl
@[simp] theorem State.modCup_hostSpan (i : Nat) (f : Cupola → Cupola) : (s.modCup i f).hostSpan = s.hostSpan := rfl
@[simp] theorem State.modCup_mirror (i : Nat) (f : Cupola → Cupola) : (s.modCup i f).mirror = s.mirror := rfl
@[simp] theorem State.modCup_fwver (i : Nat) (f : Cupola → Cupola) : (s.modCup i f).fwver = s.fwver := rfl
@[simp] theorem State.modCup_fwdig (i : Nat) (f : Cupola → Cupola) : (s.modCup i f).fwdig = s.fwdig := rfl
@[simp] theorem State.modCup_fwpend (i : Nat) (f : Cupola → Cupola) : (s.modCup i f).fwpend = s.fwpend := rfl
@[simp] theorem State.modCup_halted (i : Nat) (f : Cupola → Cupola) : (s.modCup i f).halted = s.halted := rfl
@[simp] theorem State.modCup_mhz (i : Nat) (f : Cupola → Cupola) : (s.modCup i f).mhz = s.mhz := rfl
@[simp] theorem State.modCup_kstate (i : Nat) (f : Cupola → Cupola) : (s.modCup i f).kstate = s.kstate := rfl
@[simp] theorem State.modCup_cycle (i : Nat) (f : Cupola → Cupola) : (s.modCup i f).cycle = s.cycle := rfl
@[simp] theorem State.modCup_tick (i : Nat) (f : Cupola → Cupola) : (s.modCup i f).tick = s.tick := rfl
@[simp] theorem State.modCup_nextId (i : Nat) (f : Cupola → Cupola) : (s.modCup i f).nextId = s.nextId := rfl
@[simp] theorem State.modCup_agenda (i : Nat) (f : Cupola → Cupola) : (s.modCup i f).agenda = s.agenda := rfl

/-! ## spadWrite -/

@[simp] theorem State.spadWrite_cur (t o : Nat) (b : List Byte) : (s.spadWrite t o b).cur = s.cur := rfl
@[simp] theorem State.spadWrite_others (t o : Nat) (b : List Byte) : (s.spadWrite t o b).others = s.others := rfl
@[simp] theorem State.spadWrite_clusters (t o : Nat) (b : List Byte) : (s.spadWrite t o b).clusters = s.clusters := rfl
@[simp] theorem State.spadWrite_frames (t o : Nat) (b : List Byte) : (s.spadWrite t o b).frames = s.frames := rfl
@[simp] theorem State.spadWrite_tcbs (t o : Nat) (b : List Byte) : (s.spadWrite t o b).tcbs = s.tcbs := rfl
@[simp] theorem State.spadWrite_saved (t o : Nat) (b : List Byte) : (s.spadWrite t o b).saved = s.saved := rfl
@[simp] theorem State.spadWrite_views (t o : Nat) (b : List Byte) : (s.spadWrite t o b).views = s.views := rfl
@[simp] theorem State.spadWrite_clk (t o : Nat) (b : List Byte) : (s.spadWrite t o b).clk = s.clk := rfl
@[simp] theorem State.spadWrite_nst (t o : Nat) (b : List Byte) : (s.spadWrite t o b).nst = s.nst := rfl
@[simp] theorem State.spadWrite_writes (t o : Nat) (b : List Byte) : (s.spadWrite t o b).writes = s.writes := rfl
@[simp] theorem State.spadWrite_chans (t o : Nat) (b : List Byte) : (s.spadWrite t o b).chans = s.chans := rfl
@[simp] theorem State.spadWrite_poison (t o : Nat) (b : List Byte) : (s.spadWrite t o b).poison = s.poison := rfl
@[simp] theorem State.spadWrite_tlb (t o : Nat) (b : List Byte) : (s.spadWrite t o b).tlb = s.tlb := rfl
@[simp] theorem State.spadWrite_scopes (t o : Nat) (b : List Byte) : (s.spadWrite t o b).scopes = s.scopes := rfl
@[simp] theorem State.spadWrite_icache (t o : Nat) (b : List Byte) : (s.spadWrite t o b).icache = s.icache := rfl
@[simp] theorem State.spadWrite_belfry (t o : Nat) (b : List Byte) : (s.spadWrite t o b).belfry = s.belfry := rfl
@[simp] theorem State.spadWrite_cups (t o : Nat) (b : List Byte) : (s.spadWrite t o b).cups = s.cups := rfl
@[simp] theorem State.spadWrite_streams (t o : Nat) (b : List Byte) : (s.spadWrite t o b).streams = s.streams := rfl
@[simp] theorem State.spadWrite_bags (t o : Nat) (b : List Byte) : (s.spadWrite t o b).bags = s.bags := rfl
@[simp] theorem State.spadWrite_iters (t o : Nat) (b : List Byte) : (s.spadWrite t o b).iters = s.iters := rfl
@[simp] theorem State.spadWrite_bagUndo (t o : Nat) (b : List Byte) : (s.spadWrite t o b).bagUndo = s.bagUndo := rfl
@[simp] theorem State.spadWrite_ctxs (t o : Nat) (b : List Byte) : (s.spadWrite t o b).ctxs = s.ctxs := rfl
@[simp] theorem State.spadWrite_lanterns (t o : Nat) (b : List Byte) : (s.spadWrite t o b).lanterns = s.lanterns := rfl
@[simp] theorem State.spadWrite_resv (t o : Nat) (b : List Byte) : (s.spadWrite t o b).resv = s.resv := rfl
@[simp] theorem State.spadWrite_roomAt (t o : Nat) (b : List Byte) : (s.spadWrite t o b).roomAt = s.roomAt := rfl
@[simp] theorem State.spadWrite_snaps (t o : Nat) (b : List Byte) : (s.spadWrite t o b).snaps = s.snaps := rfl
@[simp] theorem State.spadWrite_writers (t o : Nat) (b : List Byte) : (s.spadWrite t o b).writers = s.writers := rfl
@[simp] theorem State.spadWrite_mgmt (t o : Nat) (b : List Byte) : (s.spadWrite t o b).mgmt = s.mgmt := rfl
@[simp] theorem State.spadWrite_resp (t o : Nat) (b : List Byte) : (s.spadWrite t o b).resp = s.resp := rfl
@[simp] theorem State.spadWrite_ring (t o : Nat) (b : List Byte) : (s.spadWrite t o b).ring = s.ring := rfl
@[simp] theorem State.spadWrite_pend (t o : Nat) (b : List Byte) : (s.spadWrite t o b).pend = s.pend := rfl
@[simp] theorem State.spadWrite_cmds (t o : Nat) (b : List Byte) : (s.spadWrite t o b).cmds = s.cmds := rfl
@[simp] theorem State.spadWrite_lastCtx (t o : Nat) (b : List Byte) : (s.spadWrite t o b).lastCtx = s.lastCtx := rfl
@[simp] theorem State.spadWrite_compl (t o : Nat) (b : List Byte) : (s.spadWrite t o b).compl = s.compl := rfl
@[simp] theorem State.spadWrite_mirrored (t o : Nat) (b : List Byte) : (s.spadWrite t o b).mirrored = s.mirrored := rfl
@[simp] theorem State.spadWrite_mirrorSent (t o : Nat) (b : List Byte) : (s.spadWrite t o b).mirrorSent = s.mirrorSent := rfl
@[simp] theorem State.spadWrite_ports (t o : Nat) (b : List Byte) : (s.spadWrite t o b).ports = s.ports := rfl
@[simp] theorem State.spadWrite_hlink (t o : Nat) (b : List Byte) : (s.spadWrite t o b).hlink = s.hlink := rfl
@[simp] theorem State.spadWrite_routes (t o : Nat) (b : List Byte) : (s.spadWrite t o b).routes = s.routes := rfl
@[simp] theorem State.spadWrite_domain (t o : Nat) (b : List Byte) : (s.spadWrite t o b).domain = s.domain := rfl
@[simp] theorem State.spadWrite_hostSpan (t o : Nat) (b : List Byte) : (s.spadWrite t o b).hostSpan = s.hostSpan := rfl
@[simp] theorem State.spadWrite_mirror (t o : Nat) (b : List Byte) : (s.spadWrite t o b).mirror = s.mirror := rfl
@[simp] theorem State.spadWrite_fwver (t o : Nat) (b : List Byte) : (s.spadWrite t o b).fwver = s.fwver := rfl
@[simp] theorem State.spadWrite_fwdig (t o : Nat) (b : List Byte) : (s.spadWrite t o b).fwdig = s.fwdig := rfl
@[simp] theorem State.spadWrite_fwpend (t o : Nat) (b : List Byte) : (s.spadWrite t o b).fwpend = s.fwpend := rfl
@[simp] theorem State.spadWrite_halted (t o : Nat) (b : List Byte) : (s.spadWrite t o b).halted = s.halted := rfl
@[simp] theorem State.spadWrite_mhz (t o : Nat) (b : List Byte) : (s.spadWrite t o b).mhz = s.mhz := rfl
@[simp] theorem State.spadWrite_kstate (t o : Nat) (b : List Byte) : (s.spadWrite t o b).kstate = s.kstate := rfl
@[simp] theorem State.spadWrite_cycle (t o : Nat) (b : List Byte) : (s.spadWrite t o b).cycle = s.cycle := rfl
@[simp] theorem State.spadWrite_tick (t o : Nat) (b : List Byte) : (s.spadWrite t o b).tick = s.tick := rfl
@[simp] theorem State.spadWrite_nextId (t o : Nat) (b : List Byte) : (s.spadWrite t o b).nextId = s.nextId := rfl
@[simp] theorem State.spadWrite_agenda (t o : Nat) (b : List Byte) : (s.spadWrite t o b).agenda = s.agenda := rfl

/-! ## tagLine -/

@[simp] theorem State.tagLine_cur (t o : Nat) (f : W64 → W64) : (s.tagLine t o f).cur = s.cur := rfl
@[simp] theorem State.tagLine_others (t o : Nat) (f : W64 → W64) : (s.tagLine t o f).others = s.others := rfl
@[simp] theorem State.tagLine_clusters (t o : Nat) (f : W64 → W64) : (s.tagLine t o f).clusters = s.clusters := rfl
@[simp] theorem State.tagLine_frames (t o : Nat) (f : W64 → W64) : (s.tagLine t o f).frames = s.frames := rfl
@[simp] theorem State.tagLine_tcbs (t o : Nat) (f : W64 → W64) : (s.tagLine t o f).tcbs = s.tcbs := rfl
@[simp] theorem State.tagLine_saved (t o : Nat) (f : W64 → W64) : (s.tagLine t o f).saved = s.saved := rfl
@[simp] theorem State.tagLine_cores (t o : Nat) (f : W64 → W64) : (s.tagLine t o f).cores = s.cores := rfl
@[simp] theorem State.tagLine_views (t o : Nat) (f : W64 → W64) : (s.tagLine t o f).views = s.views := rfl
@[simp] theorem State.tagLine_clk (t o : Nat) (f : W64 → W64) : (s.tagLine t o f).clk = s.clk := rfl
@[simp] theorem State.tagLine_nst (t o : Nat) (f : W64 → W64) : (s.tagLine t o f).nst = s.nst := rfl
@[simp] theorem State.tagLine_writes (t o : Nat) (f : W64 → W64) : (s.tagLine t o f).writes = s.writes := rfl
@[simp] theorem State.tagLine_chans (t o : Nat) (f : W64 → W64) : (s.tagLine t o f).chans = s.chans := rfl
@[simp] theorem State.tagLine_poison (t o : Nat) (f : W64 → W64) : (s.tagLine t o f).poison = s.poison := rfl
@[simp] theorem State.tagLine_tlb (t o : Nat) (f : W64 → W64) : (s.tagLine t o f).tlb = s.tlb := rfl
@[simp] theorem State.tagLine_scopes (t o : Nat) (f : W64 → W64) : (s.tagLine t o f).scopes = s.scopes := rfl
@[simp] theorem State.tagLine_icache (t o : Nat) (f : W64 → W64) : (s.tagLine t o f).icache = s.icache := rfl
@[simp] theorem State.tagLine_belfry (t o : Nat) (f : W64 → W64) : (s.tagLine t o f).belfry = s.belfry := rfl
@[simp] theorem State.tagLine_cups (t o : Nat) (f : W64 → W64) : (s.tagLine t o f).cups = s.cups := rfl
@[simp] theorem State.tagLine_streams (t o : Nat) (f : W64 → W64) : (s.tagLine t o f).streams = s.streams := rfl
@[simp] theorem State.tagLine_bags (t o : Nat) (f : W64 → W64) : (s.tagLine t o f).bags = s.bags := rfl
@[simp] theorem State.tagLine_iters (t o : Nat) (f : W64 → W64) : (s.tagLine t o f).iters = s.iters := rfl
@[simp] theorem State.tagLine_bagUndo (t o : Nat) (f : W64 → W64) : (s.tagLine t o f).bagUndo = s.bagUndo := rfl
@[simp] theorem State.tagLine_ctxs (t o : Nat) (f : W64 → W64) : (s.tagLine t o f).ctxs = s.ctxs := rfl
@[simp] theorem State.tagLine_lanterns (t o : Nat) (f : W64 → W64) : (s.tagLine t o f).lanterns = s.lanterns := rfl
@[simp] theorem State.tagLine_resv (t o : Nat) (f : W64 → W64) : (s.tagLine t o f).resv = s.resv := rfl
@[simp] theorem State.tagLine_roomAt (t o : Nat) (f : W64 → W64) : (s.tagLine t o f).roomAt = s.roomAt := rfl
@[simp] theorem State.tagLine_snaps (t o : Nat) (f : W64 → W64) : (s.tagLine t o f).snaps = s.snaps := rfl
@[simp] theorem State.tagLine_writers (t o : Nat) (f : W64 → W64) : (s.tagLine t o f).writers = s.writers := rfl
@[simp] theorem State.tagLine_mgmt (t o : Nat) (f : W64 → W64) : (s.tagLine t o f).mgmt = s.mgmt := rfl
@[simp] theorem State.tagLine_resp (t o : Nat) (f : W64 → W64) : (s.tagLine t o f).resp = s.resp := rfl
@[simp] theorem State.tagLine_ring (t o : Nat) (f : W64 → W64) : (s.tagLine t o f).ring = s.ring := rfl
@[simp] theorem State.tagLine_pend (t o : Nat) (f : W64 → W64) : (s.tagLine t o f).pend = s.pend := rfl
@[simp] theorem State.tagLine_cmds (t o : Nat) (f : W64 → W64) : (s.tagLine t o f).cmds = s.cmds := rfl
@[simp] theorem State.tagLine_lastCtx (t o : Nat) (f : W64 → W64) : (s.tagLine t o f).lastCtx = s.lastCtx := rfl
@[simp] theorem State.tagLine_compl (t o : Nat) (f : W64 → W64) : (s.tagLine t o f).compl = s.compl := rfl
@[simp] theorem State.tagLine_mirrored (t o : Nat) (f : W64 → W64) : (s.tagLine t o f).mirrored = s.mirrored := rfl
@[simp] theorem State.tagLine_mirrorSent (t o : Nat) (f : W64 → W64) : (s.tagLine t o f).mirrorSent = s.mirrorSent := rfl
@[simp] theorem State.tagLine_ports (t o : Nat) (f : W64 → W64) : (s.tagLine t o f).ports = s.ports := rfl
@[simp] theorem State.tagLine_hlink (t o : Nat) (f : W64 → W64) : (s.tagLine t o f).hlink = s.hlink := rfl
@[simp] theorem State.tagLine_routes (t o : Nat) (f : W64 → W64) : (s.tagLine t o f).routes = s.routes := rfl
@[simp] theorem State.tagLine_domain (t o : Nat) (f : W64 → W64) : (s.tagLine t o f).domain = s.domain := rfl
@[simp] theorem State.tagLine_hostSpan (t o : Nat) (f : W64 → W64) : (s.tagLine t o f).hostSpan = s.hostSpan := rfl
@[simp] theorem State.tagLine_mirror (t o : Nat) (f : W64 → W64) : (s.tagLine t o f).mirror = s.mirror := rfl
@[simp] theorem State.tagLine_fwver (t o : Nat) (f : W64 → W64) : (s.tagLine t o f).fwver = s.fwver := rfl
@[simp] theorem State.tagLine_fwdig (t o : Nat) (f : W64 → W64) : (s.tagLine t o f).fwdig = s.fwdig := rfl
@[simp] theorem State.tagLine_fwpend (t o : Nat) (f : W64 → W64) : (s.tagLine t o f).fwpend = s.fwpend := rfl
@[simp] theorem State.tagLine_halted (t o : Nat) (f : W64 → W64) : (s.tagLine t o f).halted = s.halted := rfl
@[simp] theorem State.tagLine_mhz (t o : Nat) (f : W64 → W64) : (s.tagLine t o f).mhz = s.mhz := rfl
@[simp] theorem State.tagLine_kstate (t o : Nat) (f : W64 → W64) : (s.tagLine t o f).kstate = s.kstate := rfl
@[simp] theorem State.tagLine_cycle (t o : Nat) (f : W64 → W64) : (s.tagLine t o f).cycle = s.cycle := rfl
@[simp] theorem State.tagLine_tick (t o : Nat) (f : W64 → W64) : (s.tagLine t o f).tick = s.tick := rfl
@[simp] theorem State.tagLine_nextId (t o : Nat) (f : W64 → W64) : (s.tagLine t o f).nextId = s.nextId := rfl
@[simp] theorem State.tagLine_agenda (t o : Nat) (f : W64 → W64) : (s.tagLine t o f).agenda = s.agenda := rfl

/-! ## setRing -/

@[simp] theorem State.setRing_cur (n : Nat) (r : Ring) : (s.setRing n r).cur = s.cur := rfl
@[simp] theorem State.setRing_others (n : Nat) (r : Ring) : (s.setRing n r).others = s.others := rfl
@[simp] theorem State.setRing_clusters (n : Nat) (r : Ring) : (s.setRing n r).clusters = s.clusters := rfl
@[simp] theorem State.setRing_frames (n : Nat) (r : Ring) : (s.setRing n r).frames = s.frames := rfl
@[simp] theorem State.setRing_tcbs (n : Nat) (r : Ring) : (s.setRing n r).tcbs = s.tcbs := rfl
@[simp] theorem State.setRing_saved (n : Nat) (r : Ring) : (s.setRing n r).saved = s.saved := rfl
@[simp] theorem State.setRing_cores (n : Nat) (r : Ring) : (s.setRing n r).cores = s.cores := rfl
@[simp] theorem State.setRing_views (n : Nat) (r : Ring) : (s.setRing n r).views = s.views := rfl
@[simp] theorem State.setRing_clk (n : Nat) (r : Ring) : (s.setRing n r).clk = s.clk := rfl
@[simp] theorem State.setRing_nst (n : Nat) (r : Ring) : (s.setRing n r).nst = s.nst := rfl
@[simp] theorem State.setRing_writes (n : Nat) (r : Ring) : (s.setRing n r).writes = s.writes := rfl
@[simp] theorem State.setRing_chans (n : Nat) (r : Ring) : (s.setRing n r).chans = s.chans := rfl
@[simp] theorem State.setRing_poison (n : Nat) (r : Ring) : (s.setRing n r).poison = s.poison := rfl
@[simp] theorem State.setRing_tlb (n : Nat) (r : Ring) : (s.setRing n r).tlb = s.tlb := rfl
@[simp] theorem State.setRing_scopes (n : Nat) (r : Ring) : (s.setRing n r).scopes = s.scopes := rfl
@[simp] theorem State.setRing_icache (n : Nat) (r : Ring) : (s.setRing n r).icache = s.icache := rfl
@[simp] theorem State.setRing_belfry (n : Nat) (r : Ring) : (s.setRing n r).belfry = s.belfry := rfl
@[simp] theorem State.setRing_cups (n : Nat) (r : Ring) : (s.setRing n r).cups = s.cups := rfl
@[simp] theorem State.setRing_streams (n : Nat) (r : Ring) : (s.setRing n r).streams = s.streams := rfl
@[simp] theorem State.setRing_bags (n : Nat) (r : Ring) : (s.setRing n r).bags = s.bags := rfl
@[simp] theorem State.setRing_iters (n : Nat) (r : Ring) : (s.setRing n r).iters = s.iters := rfl
@[simp] theorem State.setRing_bagUndo (n : Nat) (r : Ring) : (s.setRing n r).bagUndo = s.bagUndo := rfl
@[simp] theorem State.setRing_ctxs (n : Nat) (r : Ring) : (s.setRing n r).ctxs = s.ctxs := rfl
@[simp] theorem State.setRing_lanterns (n : Nat) (r : Ring) : (s.setRing n r).lanterns = s.lanterns := rfl
@[simp] theorem State.setRing_resv (n : Nat) (r : Ring) : (s.setRing n r).resv = s.resv := rfl
@[simp] theorem State.setRing_roomAt (n : Nat) (r : Ring) : (s.setRing n r).roomAt = s.roomAt := rfl
@[simp] theorem State.setRing_snaps (n : Nat) (r : Ring) : (s.setRing n r).snaps = s.snaps := rfl
@[simp] theorem State.setRing_writers (n : Nat) (r : Ring) : (s.setRing n r).writers = s.writers := rfl
@[simp] theorem State.setRing_mgmt (n : Nat) (r : Ring) : (s.setRing n r).mgmt = s.mgmt := rfl
@[simp] theorem State.setRing_resp (n : Nat) (r : Ring) : (s.setRing n r).resp = s.resp := rfl
@[simp] theorem State.setRing_ring (n : Nat) (r : Ring) : (s.setRing n r).ring = s.ring := rfl
@[simp] theorem State.setRing_pend (n : Nat) (r : Ring) : (s.setRing n r).pend = s.pend := rfl
@[simp] theorem State.setRing_cmds (n : Nat) (r : Ring) : (s.setRing n r).cmds = s.cmds := rfl
@[simp] theorem State.setRing_lastCtx (n : Nat) (r : Ring) : (s.setRing n r).lastCtx = s.lastCtx := rfl
@[simp] theorem State.setRing_compl (n : Nat) (r : Ring) : (s.setRing n r).compl = s.compl := rfl
@[simp] theorem State.setRing_mirrored (n : Nat) (r : Ring) : (s.setRing n r).mirrored = s.mirrored := rfl
@[simp] theorem State.setRing_mirrorSent (n : Nat) (r : Ring) : (s.setRing n r).mirrorSent = s.mirrorSent := rfl
@[simp] theorem State.setRing_ports (n : Nat) (r : Ring) : (s.setRing n r).ports = s.ports := rfl
@[simp] theorem State.setRing_hlink (n : Nat) (r : Ring) : (s.setRing n r).hlink = s.hlink := rfl
@[simp] theorem State.setRing_routes (n : Nat) (r : Ring) : (s.setRing n r).routes = s.routes := rfl
@[simp] theorem State.setRing_domain (n : Nat) (r : Ring) : (s.setRing n r).domain = s.domain := rfl
@[simp] theorem State.setRing_hostSpan (n : Nat) (r : Ring) : (s.setRing n r).hostSpan = s.hostSpan := rfl
@[simp] theorem State.setRing_mirror (n : Nat) (r : Ring) : (s.setRing n r).mirror = s.mirror := rfl
@[simp] theorem State.setRing_fwver (n : Nat) (r : Ring) : (s.setRing n r).fwver = s.fwver := rfl
@[simp] theorem State.setRing_fwdig (n : Nat) (r : Ring) : (s.setRing n r).fwdig = s.fwdig := rfl
@[simp] theorem State.setRing_fwpend (n : Nat) (r : Ring) : (s.setRing n r).fwpend = s.fwpend := rfl
@[simp] theorem State.setRing_halted (n : Nat) (r : Ring) : (s.setRing n r).halted = s.halted := rfl
@[simp] theorem State.setRing_mhz (n : Nat) (r : Ring) : (s.setRing n r).mhz = s.mhz := rfl
@[simp] theorem State.setRing_kstate (n : Nat) (r : Ring) : (s.setRing n r).kstate = s.kstate := rfl
@[simp] theorem State.setRing_cycle (n : Nat) (r : Ring) : (s.setRing n r).cycle = s.cycle := rfl
@[simp] theorem State.setRing_tick (n : Nat) (r : Ring) : (s.setRing n r).tick = s.tick := rfl
@[simp] theorem State.setRing_nextId (n : Nat) (r : Ring) : (s.setRing n r).nextId = s.nextId := rfl
@[simp] theorem State.setRing_agenda (n : Nat) (r : Ring) : (s.setRing n r).agenda = s.agenda := rfl

/-! ## past -/

@[simp] theorem State.past_teams : (s.past).teams = s.teams := rfl
@[simp] theorem State.past_clusters : (s.past).clusters = s.clusters := rfl
@[simp] theorem State.past_frames : (s.past).frames = s.frames := rfl
@[simp] theorem State.past_tcbs : (s.past).tcbs = s.tcbs := rfl
@[simp] theorem State.past_saved : (s.past).saved = s.saved := rfl
@[simp] theorem State.past_cores : (s.past).cores = s.cores := rfl
@[simp] theorem State.past_views : (s.past).views = s.views := rfl
@[simp] theorem State.past_clk : (s.past).clk = s.clk := rfl
@[simp] theorem State.past_nst : (s.past).nst = s.nst := rfl
@[simp] theorem State.past_writes : (s.past).writes = s.writes := rfl
@[simp] theorem State.past_chans : (s.past).chans = s.chans := rfl
@[simp] theorem State.past_poison : (s.past).poison = s.poison := rfl
@[simp] theorem State.past_tlb : (s.past).tlb = s.tlb := rfl
@[simp] theorem State.past_scopes : (s.past).scopes = s.scopes := rfl
@[simp] theorem State.past_icache : (s.past).icache = s.icache := rfl
@[simp] theorem State.past_belfry : (s.past).belfry = s.belfry := rfl
@[simp] theorem State.past_cups : (s.past).cups = s.cups := rfl
@[simp] theorem State.past_streams : (s.past).streams = s.streams := rfl
@[simp] theorem State.past_bags : (s.past).bags = s.bags := rfl
@[simp] theorem State.past_iters : (s.past).iters = s.iters := rfl
@[simp] theorem State.past_bagUndo : (s.past).bagUndo = s.bagUndo := rfl
@[simp] theorem State.past_ctxs : (s.past).ctxs = s.ctxs := rfl
@[simp] theorem State.past_lanterns : (s.past).lanterns = s.lanterns := rfl
@[simp] theorem State.past_resv : (s.past).resv = s.resv := rfl
@[simp] theorem State.past_roomAt : (s.past).roomAt = s.roomAt := rfl
@[simp] theorem State.past_snaps : (s.past).snaps = s.snaps := rfl
@[simp] theorem State.past_writers : (s.past).writers = s.writers := rfl
@[simp] theorem State.past_mgmt : (s.past).mgmt = s.mgmt := rfl
@[simp] theorem State.past_resp : (s.past).resp = s.resp := rfl
@[simp] theorem State.past_ring : (s.past).ring = s.ring := rfl
@[simp] theorem State.past_pend : (s.past).pend = s.pend := rfl
@[simp] theorem State.past_cmds : (s.past).cmds = s.cmds := rfl
@[simp] theorem State.past_lastCtx : (s.past).lastCtx = s.lastCtx := rfl
@[simp] theorem State.past_compl : (s.past).compl = s.compl := rfl
@[simp] theorem State.past_mirrored : (s.past).mirrored = s.mirrored := rfl
@[simp] theorem State.past_mirrorSent : (s.past).mirrorSent = s.mirrorSent := rfl
@[simp] theorem State.past_ports : (s.past).ports = s.ports := rfl
@[simp] theorem State.past_hlink : (s.past).hlink = s.hlink := rfl
@[simp] theorem State.past_routes : (s.past).routes = s.routes := rfl
@[simp] theorem State.past_domain : (s.past).domain = s.domain := rfl
@[simp] theorem State.past_hostSpan : (s.past).hostSpan = s.hostSpan := rfl
@[simp] theorem State.past_mirror : (s.past).mirror = s.mirror := rfl
@[simp] theorem State.past_fwver : (s.past).fwver = s.fwver := rfl
@[simp] theorem State.past_fwdig : (s.past).fwdig = s.fwdig := rfl
@[simp] theorem State.past_fwpend : (s.past).fwpend = s.fwpend := rfl
@[simp] theorem State.past_halted : (s.past).halted = s.halted := rfl
@[simp] theorem State.past_mhz : (s.past).mhz = s.mhz := rfl
@[simp] theorem State.past_kstate : (s.past).kstate = s.kstate := rfl
@[simp] theorem State.past_nextId : (s.past).nextId = s.nextId := rfl
@[simp] theorem State.past_agenda : (s.past).agenda = s.agenda := rfl

/-! ## markWalk -/

@[simp] theorem State.markWalk_cur (p : List Nat) (n : Need) : (s.markWalk p n).cur = s.cur := rfl
@[simp] theorem State.markWalk_others (p : List Nat) (n : Need) : (s.markWalk p n).others = s.others := rfl
@[simp] theorem State.markWalk_teams (p : List Nat) (n : Need) : (s.markWalk p n).teams = s.teams := rfl
@[simp] theorem State.markWalk_clusters (p : List Nat) (n : Need) : (s.markWalk p n).clusters = s.clusters := rfl
@[simp] theorem State.markWalk_frames (p : List Nat) (n : Need) : (s.markWalk p n).frames = s.frames := rfl
@[simp] theorem State.markWalk_tcbs (p : List Nat) (n : Need) : (s.markWalk p n).tcbs = s.tcbs := rfl
@[simp] theorem State.markWalk_saved (p : List Nat) (n : Need) : (s.markWalk p n).saved = s.saved := rfl
@[simp] theorem State.markWalk_cores (p : List Nat) (n : Need) : (s.markWalk p n).cores = s.cores := rfl
@[simp] theorem State.markWalk_clk (p : List Nat) (n : Need) : (s.markWalk p n).clk = s.clk := rfl
@[simp] theorem State.markWalk_nst (p : List Nat) (n : Need) : (s.markWalk p n).nst = s.nst := rfl
@[simp] theorem State.markWalk_writes (p : List Nat) (n : Need) : (s.markWalk p n).writes = s.writes := rfl
@[simp] theorem State.markWalk_chans (p : List Nat) (n : Need) : (s.markWalk p n).chans = s.chans := rfl
@[simp] theorem State.markWalk_poison (p : List Nat) (n : Need) : (s.markWalk p n).poison = s.poison := rfl
@[simp] theorem State.markWalk_tlb (p : List Nat) (n : Need) : (s.markWalk p n).tlb = s.tlb := rfl
@[simp] theorem State.markWalk_scopes (p : List Nat) (n : Need) : (s.markWalk p n).scopes = s.scopes := rfl
@[simp] theorem State.markWalk_icache (p : List Nat) (n : Need) : (s.markWalk p n).icache = s.icache := rfl
@[simp] theorem State.markWalk_belfry (p : List Nat) (n : Need) : (s.markWalk p n).belfry = s.belfry := rfl
@[simp] theorem State.markWalk_cups (p : List Nat) (n : Need) : (s.markWalk p n).cups = s.cups := rfl
@[simp] theorem State.markWalk_streams (p : List Nat) (n : Need) : (s.markWalk p n).streams = s.streams := rfl
@[simp] theorem State.markWalk_bags (p : List Nat) (n : Need) : (s.markWalk p n).bags = s.bags := rfl
@[simp] theorem State.markWalk_iters (p : List Nat) (n : Need) : (s.markWalk p n).iters = s.iters := rfl
@[simp] theorem State.markWalk_bagUndo (p : List Nat) (n : Need) : (s.markWalk p n).bagUndo = s.bagUndo := rfl
@[simp] theorem State.markWalk_ctxs (p : List Nat) (n : Need) : (s.markWalk p n).ctxs = s.ctxs := rfl
@[simp] theorem State.markWalk_lanterns (p : List Nat) (n : Need) : (s.markWalk p n).lanterns = s.lanterns := rfl
@[simp] theorem State.markWalk_resv (p : List Nat) (n : Need) : (s.markWalk p n).resv = s.resv := rfl
@[simp] theorem State.markWalk_roomAt (p : List Nat) (n : Need) : (s.markWalk p n).roomAt = s.roomAt := rfl
@[simp] theorem State.markWalk_snaps (p : List Nat) (n : Need) : (s.markWalk p n).snaps = s.snaps := rfl
@[simp] theorem State.markWalk_writers (p : List Nat) (n : Need) : (s.markWalk p n).writers = s.writers := rfl
@[simp] theorem State.markWalk_mgmt (p : List Nat) (n : Need) : (s.markWalk p n).mgmt = s.mgmt := rfl
@[simp] theorem State.markWalk_resp (p : List Nat) (n : Need) : (s.markWalk p n).resp = s.resp := rfl
@[simp] theorem State.markWalk_ring (p : List Nat) (n : Need) : (s.markWalk p n).ring = s.ring := rfl
@[simp] theorem State.markWalk_pend (p : List Nat) (n : Need) : (s.markWalk p n).pend = s.pend := rfl
@[simp] theorem State.markWalk_cmds (p : List Nat) (n : Need) : (s.markWalk p n).cmds = s.cmds := rfl
@[simp] theorem State.markWalk_lastCtx (p : List Nat) (n : Need) : (s.markWalk p n).lastCtx = s.lastCtx := rfl
@[simp] theorem State.markWalk_compl (p : List Nat) (n : Need) : (s.markWalk p n).compl = s.compl := rfl
@[simp] theorem State.markWalk_mirrored (p : List Nat) (n : Need) : (s.markWalk p n).mirrored = s.mirrored := rfl
@[simp] theorem State.markWalk_mirrorSent (p : List Nat) (n : Need) : (s.markWalk p n).mirrorSent = s.mirrorSent := rfl
@[simp] theorem State.markWalk_ports (p : List Nat) (n : Need) : (s.markWalk p n).ports = s.ports := rfl
@[simp] theorem State.markWalk_hlink (p : List Nat) (n : Need) : (s.markWalk p n).hlink = s.hlink := rfl
@[simp] theorem State.markWalk_routes (p : List Nat) (n : Need) : (s.markWalk p n).routes = s.routes := rfl
@[simp] theorem State.markWalk_domain (p : List Nat) (n : Need) : (s.markWalk p n).domain = s.domain := rfl
@[simp] theorem State.markWalk_hostSpan (p : List Nat) (n : Need) : (s.markWalk p n).hostSpan = s.hostSpan := rfl
@[simp] theorem State.markWalk_mirror (p : List Nat) (n : Need) : (s.markWalk p n).mirror = s.mirror := rfl
@[simp] theorem State.markWalk_fwver (p : List Nat) (n : Need) : (s.markWalk p n).fwver = s.fwver := rfl
@[simp] theorem State.markWalk_fwdig (p : List Nat) (n : Need) : (s.markWalk p n).fwdig = s.fwdig := rfl
@[simp] theorem State.markWalk_fwpend (p : List Nat) (n : Need) : (s.markWalk p n).fwpend = s.fwpend := rfl
@[simp] theorem State.markWalk_halted (p : List Nat) (n : Need) : (s.markWalk p n).halted = s.halted := rfl
@[simp] theorem State.markWalk_mhz (p : List Nat) (n : Need) : (s.markWalk p n).mhz = s.mhz := rfl
@[simp] theorem State.markWalk_kstate (p : List Nat) (n : Need) : (s.markWalk p n).kstate = s.kstate := rfl
@[simp] theorem State.markWalk_cycle (p : List Nat) (n : Need) : (s.markWalk p n).cycle = s.cycle := rfl
@[simp] theorem State.markWalk_tick (p : List Nat) (n : Need) : (s.markWalk p n).tick = s.tick := rfl
@[simp] theorem State.markWalk_nextId (p : List Nat) (n : Need) : (s.markWalk p n).nextId = s.nextId := rfl
@[simp] theorem State.markWalk_agenda (p : List Nat) (n : Need) : (s.markWalk p n).agenda = s.agenda := rfl

/-! ## The values that the updates write -/

@[simp] theorem State.setSl_cur (f : Slice → Slice) : (s.setSl f).cur = { s.cur with sl := f s.cur.sl } := rfl

@[simp] theorem State.setG_cur (f : Group → Group) : (s.setG f).cur = { s.cur with g := f s.cur.g } := rfl

@[simp] theorem State.advance_cur : s.advance.cur = s.cur.advance := rfl

@[simp] theorem State.branch_cur (t : Nat → W64) : (s.branch t).cur = s.cur.endClause t 0 := rfl

theorem State.wr_cur (n : Nat) (v : W64) : (s.wr n v).cur = { s.cur with sl := s.cur.sl.wr n v } := rfl

end Sys2Proof.Machine
end

