-- ==== Sys2Proof/Laws/Words.lean ====
section
/-! SUPPORT. The shared operations of a word: outcomes, registers, the end of a clause, operands; one lemma each that says
what it does. -/

namespace Sys2Proof.Machine

variable {α β : Type}

/-! ## Outcomes -/

@[simp] theorem Res.bind_ok (a : α) (f : α → Res β) : (Res.ok a).bind f = f a := rfl
@[simp] theorem Res.bind_trap (c : Nat) (m : Mask) (x : W64) (f : α → Res β) : (Res.trap c m x).bind f = .trap c m x := rfl
@[simp] theorem Res.bind_denied (c : Nat) (m : Mask) (x : W64) (n : Need) (f : α → Res β) :
    (Res.denied c m x n).bind f = .denied c m x n := rfl
@[simp] theorem Res.bind_stall (f : α → Res β) : (Res.stall).bind f = .stall := rfl

@[simp] theorem State.run_ok (s t : State) : s.run (.ok t) = .next t.advance := rfl
@[simp] theorem State.run_trap (s : State) (c : Nat) (m : Mask) (a : W64) : s.run (.trap c m a) = .next (s.trap c m a) := rfl
@[simp] theorem State.run_stall (s : State) : s.run .stall = .next s := rfl
@[simp] theorem State.runCur_ok (s : State) (x : Resident) : s.runCur (.ok x) = .next { s with cur := x.advance } := rfl
@[simp] theorem State.runCur_trap (s : State) (c : Nat) (m : Mask) (a : W64) :
    s.runCur (.trap c m a) = .next (s.trap c m a) := rfl
@[simp] theorem State.runCur_stall (s : State) : s.runCur .stall = .next s := rfl
@[simp] theorem State.runBranch_ok (s t : State) : s.runBranch (.ok t) = .next t := rfl
@[simp] theorem State.runBranch_trap (s : State) (c : Nat) (m : Mask) (a : W64) :
    s.runBranch (.trap c m a) = .next (s.trap c m a) := rfl

/-- A word's outcome is a next state. -/
theorem State.run_goesOn (s : State) (r : Res State) : ∃ t, s.run r = .next t := by cases r <;> exact ⟨_, rfl⟩
theorem State.runCur_goesOn (s : State) (r : Res Resident) : ∃ t, s.runCur r = .next t := by cases r <;> exact ⟨_, rfl⟩
theorem State.runBranch_goesOn (s : State) (r : Res State) : ∃ t, s.runBranch r = .next t := by cases r <;> exact ⟨_, rfl⟩

/-! ## Scalar registers -/

theorem Slice.rd_wr (x : Slice) (n k : Nat) (v : W64) :
    (x.wr n v).rd k = if k = n then (if n = 0 then 0 else v) else x.rd k := by
  unfold Slice.rd Slice.wr
  by_cases h0 : n = 0
  · subst h0; by_cases hk : k = 0 <;> simp [hk]
  · by_cases hk : k = n
    · subst hk; simp [h0]
    · simp [h0, hk, kvGet_kvPut]

@[simp] theorem Slice.rd_zero (x : Slice) : x.rd 0 = 0 := rfl

@[simp] theorem State.rd_zero (s : State) : s.rd 0 = 0 := rfl

/-- A scalar register after a write: s0 discards it. -/
theorem State.rd_wr (s : State) (n k : Nat) (v : W64) :
    (s.wr n v).rd k = if k = n then (if n = 0 then 0 else v) else s.rd k := Slice.rd_wr ..

theorem Slice.wr_eq (x : Slice) (n : Nat) (v : W64) : x.wr n v = { x with s := (x.wr n v).s } := by
  unfold Slice.wr; split <;> rfl

theorem Slice.rd_of_s {x y : Slice} (h : x.s = y.s) (n : Nat) : x.rd n = y.rd n := by simp [Slice.rd, h]

/-! ## The end of a clause and the position -/

/-- A clause that ends leaves the slice but its place in the code. -/
theorem Resident.clauseEnds_eq (r : Resident) :
    r.clauseEnds = { r.sl with clause := none, rep := none, only := none, yielded := r.clauseEnds.yielded } := by
  unfold Resident.clauseEnds
  split <;> simp_all

/-- The end of a clause moves the place in the code and nothing else of the slice. -/
theorem Resident.endClause_sl (r : Resident) (t : Nat → W64) (p : Mask) :
    (r.endClause t p).sl = { r.sl with pc := (r.endClause t p).sl.pc, clause := none, rep := none, only := none,
                                       handler := (r.endClause t p).sl.handler, yielded := (r.endClause t p).sl.yielded } := by
  unfold Resident.endClause
  split
  · simp only; rw [Resident.clauseEnds_eq]
  · split <;> · simp only; rw [Resident.clauseEnds_eq]

/-- Of the group it moves the lane PCs and the park bits. -/
theorem Resident.endClause_g (r : Resident) (t : Nat → W64) (p : Mask) :
    (r.endClause t p).g = { r.g with pcv := (r.endClause t p).g.pcv, park := (r.endClause t p).g.park } := by
  unfold Resident.endClause
  split
  · rfl
  · split <;> rfl

theorem Resident.endClause_handler (r : Resident) (t : Nat → W64) (p : Mask) :
    ((r.endClause t p).sl.handler.map fun h => { h with pc := 0 }) = r.sl.handler.map fun h => { h with pc := 0 } := by
  unfold Resident.endClause
  split
  · next h => simp [h]
  · next h => split <;> · rw [Resident.clauseEnds_eq]

theorem Resident.advance_sl (r : Resident) :
    r.advance.sl = { r.sl with pc := r.advance.sl.pc, clause := r.advance.sl.clause, rep := r.advance.sl.rep,
                               only := r.advance.sl.only, handler := r.advance.sl.handler, yielded := r.advance.sl.yielded } := by
  unfold Resident.advance
  split
  · rfl
  · split
    · split
      · rfl
      · split
        · rfl
        · rw [Resident.endClause_sl]
    · split
      · rfl
      · rw [Resident.endClause_sl]

theorem Resident.advance_g (r : Resident) : r.advance.g = { r.g with pcv := r.advance.g.pcv, park := r.advance.g.park } := by
  unfold Resident.advance
  split
  · rfl
  · split
    · split
      · rfl
      · split
        · rfl
        · exact Resident.endClause_g ..
    · split
      · rfl
      · exact Resident.endClause_g ..

theorem Resident.advance_handler (r : Resident) :
    (r.advance.sl.handler.map fun h => { h with pc := 0 }) = r.sl.handler.map fun h => { h with pc := 0 } := by
  unfold Resident.advance
  split
  · rfl
  · split
    · split
      · rfl
      · split
        · rfl
        · exact Resident.endClause_handler ..
    · split
      · rfl
      · exact Resident.endClause_handler ..

@[simp] theorem Resident.advance_s (r : Resident) : r.advance.sl.s = r.sl.s := by rw [Resident.advance_sl]

@[simp] theorem Resident.endClause_s (r : Resident) (t : Nat → W64) (p : Mask) : (r.endClause t p).sl.s = r.sl.s := by
  rw [Resident.endClause_sl]

@[simp] theorem Resident.advance_v (r : Resident) : r.advance.g.v = r.g.v := by rw [Resident.advance_g]

@[simp] theorem Resident.endClause_v (r : Resident) (t : Nat → W64) (p : Mask) : (r.endClause t p).g.v = r.g.v := by
  rw [Resident.endClause_g]

@[simp] theorem Resident.advance_fflg (r : Resident) : r.advance.g.fflg = r.g.fflg := by rw [Resident.advance_g]

@[simp] theorem State.rd_advance (s : State) (n : Nat) : s.advance.rd n = s.rd n := Slice.rd_of_s (Resident.advance_s _) n

@[simp] theorem State.rd_branch (s : State) (t : Nat → W64) (n : Nat) : (s.branch t).rd n = s.rd n :=
  Slice.rd_of_s (Resident.endClause_s ..) n

/-! ## Destinations -/

theorem State.destOk_pos (s : State) (n : Nat) (r : Res α) (h : s.reservedDest n = false) : s.destOk n r = r := by
  simp [State.destOk, h]

theorem State.destOk_neg (s : State) (n : Nat) (r : Res α) (h : s.reservedDest n = true) :
    s.destOk n r = .trap 0x03 s.exec' (BitVec.ofNat 64 n) := by
  simp [State.destOk, h]

/-- A word that writes one scalar register: the register and the position, or cause 0x03. -/
theorem State.run_setReg (s : State) (n : Nat) (v : W64) (h : s.reservedDest n = false) :
    s.run (s.setReg n v) = .next (s.wr n v).advance := by
  simp [State.setReg, State.destOk, h]

theorem State.run_setReg_reserved (s : State) (n : Nat) (v : W64) (h : s.reservedDest n = true) :
    s.run (s.setReg n v) = .next (s.trap 0x03 s.exec' (BitVec.ofNat 64 n)) := by
  simp [State.setReg, State.destOk, h]

/-! ## Vector names -/

theorem Group.name_setName (g : Group) (n k : Nat) (x : VName) : (g.setName n x).name k = if k = n then x else g.name k :=
  kvGet_kvPut ..

@[simp] theorem Group.name_touch (g : Group) (n k : Nat) : (g.touch n).name k = g.name k := rfl

theorem Group.touch_eq (g : Group) (n : Nat) : g.touch n = { g with latchA := (g.touch n).latchA, latchB := (g.touch n).latchB, alatch := (g.touch n).alatch } := rfl

/-- What a write of a name leaves: the named group, its other names, and its own value. -/
theorem State.writeName_name {s : State} {g g' : Group} {n : Nat} {m : Mask} {x : Lanes} (h : s.writeName g n m x = .ok g') :
    g'.name n = (match g.name n with
      | .mapped _ => .mapped (merge m x (g.kept n))
      | .unmapped => .mapped (merge m x zeroLanes)
      | .queue d es => .queue d (es ++ [merge m x zeroLanes])) ∧
    (∀ k, k ≠ n → g'.name k = g.name k) ∧
    g' = { g with v := g'.v, latchA := g'.latchA, latchB := g'.latchB, alatch := g'.alatch } := by
  unfold State.writeName at h
  split at h
  · next old he =>
    cases h
    refine ⟨by simp [Group.name_setName, he], fun k hk => by simp [Group.name_setName, hk], rfl⟩
  · next he =>
    cases ha : s.alloc g n with
    | ok u =>
      rw [ha] at h; cases h
      refine ⟨by simp [Group.name_setName, he], fun k hk => by simp [Group.name_setName, hk], rfl⟩
    | trap c m' a => rw [ha] at h; cases h
    | denied c m' a d => rw [ha] at h; cases h
    | stall => rw [ha] at h; cases h
  · next d es he =>
    split at h
    · cases h
    · cases ha : s.alloc g n with
      | ok u =>
        rw [ha] at h; cases h
        refine ⟨by simp [Group.name_setName, he], fun k hk => by simp [Group.name_setName, hk], rfl⟩
      | trap c m' a => rw [ha] at h; cases h
      | denied c m' a d => rw [ha] at h; cases h
      | stall => rw [ha] at h; cases h

@[simp] theorem Group.name_owe (g : Group) (n k : Nat) : (g.owe n).name k = g.name k := rfl

theorem Group.lastRead_eq (g : Group) (d : Option Nat) (x : Src) :
    g.lastRead d x = { g with v := (g.lastRead d x).v, latchA := (g.lastRead d x).latchA, latchB := (g.lastRead d x).latchB } := by
  unfold Group.lastRead
  split
  · rfl
  · split
    · split <;> rfl
    · rfl

theorem Group.lastRead_other (g : Group) (d : Option Nat) (x : Src) (k : Nat) (h : k ≠ x.n) :
    (g.lastRead d x).name k = g.name k := by
  unfold Group.lastRead
  split
  · rfl
  · split
    · split
      · rfl
      · simp [Group.name_setName, h]
    · rfl

/-- Letting a latch go leaves every name but the one it holds. -/
theorem Group.letGo_other (g : Group) (l : Option Latch) (k : Nat) (h : l.map (·.name) ≠ some k) :
    (g.letGo l).name k = g.name k := by
  unfold Group.letGo
  split
  · next x =>
    have hk : k ≠ x.name := fun e => h (by simp [e])
    split
    · rfl
    · split
      · rfl
      · simp [Group.name_setName, hk]
  · rfl

end Sys2Proof.Machine
end

