-- ==== Sys2Proof/Tests/Slice0.lean ====
section
/-! SUPPORT. Tests: ill-formed terms, words of the encoding tables, single words, and a witness for the hypotheses of every
statement. -/

set_option Elab.async false
set_option maxRecDepth 40000
set_option exponentiation.threshold 600

namespace Sys2Proof.Tests

open Sys2Proof.Machine

/-! ## Ill-formed terms (one for each check of WellFormed) -/

theorem test_wf_class : (Instr.clauseHeader 14 1 0 15 15 0).wf = false := rfl
theorem test_wf_no_words : (Instr.clauseHeader 1 0 0 15 15 0).wf = false := rfl
theorem test_wf_flag_a : (Instr.clauseHeader 1 1 0 12 15 0).wf = false := rfl
theorem test_wf_flag_b : (Instr.clauseHeader 1 1 0 15 14 0).wf = false := rfl
theorem test_wf_header : (Instr.clauseHeader 13 15 0xFFF 11 15 1).wf = true := rfl
theorem test_wf_sysrd : (Instr.sysrd 1 0).wf = false ∧ (Instr.sysrd 1 0x0E).wf = false ∧ (Instr.sysrd 1 0x20).wf = false := ⟨rfl, rfl, rfl⟩
theorem test_wf_syswr : (Instr.syswr 1 0x0F).wf = false ∧ (Instr.syswr 1 0x1F).wf = true := ⟨rfl, rfl⟩
theorem test_wf_vwiden : (Instr.vwiden 1 2 0 0).wf = false := rfl
theorem test_wf_vnarrow : (Instr.vnarrow 1 2 0 3).wf = false := rfl
theorem test_wf_sli : [Instr.sladd 1 2 3 0 0 0, .slsub 1 2 3 0 0 3, .slmul 1 2 3 0 0 0, .sldiv 1 2 3 0 0 3, .slrcp 1 2 0 0,
    .slneg 1 2 0 3, .slabs 1 2 0 0, .slexp 1 2 0 3, .sllog 1 2 0 0, .slmin 1 2 3 0 0 3, .slmax 1 2 3 0 0 0, .slceq 1 2 3 0 0 3,
    .slclt 1 2 3 0 0 0, .slsqrt 1 2 0 3, .sllvl 1 2 0 0].map Instr.wf = List.replicate 15 false := rfl
theorem test_wf_h3 : (Instr.mma 0 1 2 6 0).wf = false ∧ (Instr.mmaz 0 1 2 7 0).wf = false := ⟨rfl, rfl⟩
theorem test_wf_aop : (Instr.bar 0 1 5 0).wf = false := rfl
theorem test_wf_kind : (Instr.fence 0 3 0).wf = false ∧ (Instr.qfence 0 3 0 0).wf = false := ⟨rfl, rfl⟩

/-! ## Words of the encoding tables (02, R25, R31) -/

/-- A word of every instruction of class CTRL: opcode and fields laid out by hand from the opcode table. -/
noncomputable def ctrlWords : List (W32 × Instr) :=
  List.flatten [
  [(0x0202D5AA, .bra 0x2d5aa),
   (0x05AA6ADA, .bz 0x1aa 0x6ada),
   (0x07AA6ADA, .bnz 0x1aa 0x6ada),
   (0x09AA6ADA, .bneg 0x1aa 0x6ada),
   (0x0BAA6ADA, .bnneg 0x1aa 0x6ada),
   (0x0CA8B573, .bvz 0x2a 0 0xb573),
   (0x0EA8B573, .bvnz 0x2a 0 0xb573),
   (0x1002D5AA, .call 0x2d5aa),
   (0x13AA0000, .callr 0x1aa),
   (0x15AA6ADA, .jmpr 0x1aa 0x6ada),
   (0x16000000, .ret),
   (0x18000000, .exit),
   (0x1A000000, .vpark),
   (0x1C000000, .yield),
   (0x1E00D55A, .trap 0x1aa 0x5a),
   (0x20000000, .rfe),
   (0x22000000, .brk),
   (0x25AA0012, .sysrd 0x1aa 0x12),
   (0x2600D512, .syswr 0x1aa 0x12),
   (0x295B5730, .fent 2 0x2da 0x173)],
  [(0x2B000DA0, .fexit 2 0xda),
   (0x2D000DA0, .fdisp 2 0xda),
   (0x2F000000, .fpub 2),
   (0x30A80003, .pcvrd 0x2a),
   (0x32015003, .pcvwr 0x2a 0),
   (0x34AAD00B, .trpv 0x2a 0x5a 1)]]

theorem test_decode_ctrl : ctrlWords.map (fun p => decodeWord 0 p.1) = ctrlWords.map (fun p => .ok p.2) := rfl

/-- A word of every instruction of class SALU: opcode and fields laid out by hand from the opcode table. -/
noncomputable def saluWords : List (W32 × Instr) :=
  List.flatten [
  [(0x0EA9B573, .add 0x1aa 0xda 0x173),
   (0x16A9B573, .sub 0x1aa 0xda 0x173),
   (0x1EA9B573, .mul 0x1aa 0xda 0x173),
   (0x26A9B573, .mulh 0x1aa 0xda 0x173),
   (0x2EA9B573, .mulhu 0x1aa 0xda 0x173),
   (0x36A9B573, .div 0x1aa 0xda 0x173),
   (0x3EA9B573, .divu 0x1aa 0xda 0x173),
   (0x46A9B573, .rem 0x1aa 0xda 0x173),
   (0x4EA9B573, .remu 0x1aa 0xda 0x173),
   (0x56A9B573, .and 0x1aa 0xda 0x173),
   (0x5EA9B573, .or 0x1aa 0xda 0x173),
   (0x66A9B573, .xor 0x1aa 0xda 0x173),
   (0x6EA9B573, .andn 0x1aa 0xda 0x173),
   (0x76A9B573, .shl 0x1aa 0xda 0x173),
   (0x7EA9B573, .shr 0x1aa 0xda 0x173),
   (0x86A9B573, .sar 0x1aa 0xda 0x173),
   (0x8EA9B573, .rot 0x1aa 0xda 0x173),
   (0x96A9B573, .min 0x1aa 0xda 0x173),
   (0x9EA9B573, .max 0x1aa 0xda 0x173),
   (0xA6A9B573, .minu 0x1aa 0xda 0x173)],
  [(0xAEA9B573, .maxu 0x1aa 0xda 0x173),
   (0xB6A9B573, .slt 0x1aa 0xda 0x173),
   (0xBEA9B573, .sltu 0x1aa 0xda 0x173),
   (0xC6A9B573, .seq 0x1aa 0xda 0x173),
   (0xCEA9B573, .sel 0x1aa 0xda 0x173),
   (0xD6A9B400, .clz 0x1aa 0xda),
   (0xDEA9B400, .ctz 0x1aa 0xda),
   (0xE6A9B400, .popc 0x1aa 0xda)]]

theorem test_decode_salu : saluWords.map (fun p => decodeWord 1 p.1) = saluWords.map (fun p => .ok p.2) := rfl

/-- A word of every instruction of class SIMM: opcode and fields laid out by hand from the opcode table. -/
noncomputable def simmWords : List (W32 × Instr) :=
    [(0x0EA9B573, .addi 0x1aa 0xda 0x173),
   (0x16A9B573, .andi 0x1aa 0xda 0x173),
   (0x1EA9B573, .ori 0x1aa 0xda 0x173),
   (0x26A9B573, .xori 0x1aa 0xda 0x173),
   (0x2EA9B573, .shli 0x1aa 0xda 0x173),
   (0x36A9B573, .shri 0x1aa 0xda 0x173),
   (0x3EA9B573, .sari 0x1aa 0xda 0x173),
   (0x46A9B573, .slti 0x1aa 0xda 0x173),
   (0x4EA9B573, .sltui 0x1aa 0xda 0x173),
   (0x56A9B573, .seqi 0x1aa 0xda 0x173),
   (0x5EA9B573, .muli 0x1aa 0xda 0x173),
   (0x66A96ADA, .movi 0x1aa 0x16ada),
   (0x6EA96ADA, .movhi 0x1aa 0x16ada),
   (0x76A96ADA, .ldpc 0x1aa 0x16ada)]

theorem test_decode_simm : simmWords.map (fun p => decodeWord 2 p.1) = simmWords.map (fun p => .ok p.2) := rfl

/-- A word of every instruction of class VALU: opcode and fields laid out by hand from the opcode table. -/
noncomputable def valuWords : List (W32 × Instr) :=
  List.flatten [
  [(0x02AAD737, .vadd 0x2a 0x5a 0x73 0 1 3),
   (0x04AAD737, .vsub 0x2a 0x5a 0x73 0 1 3),
   (0x06AAD737, .vaddss 0x2a 0x5a 0x73 0 1 3),
   (0x08AAD737, .vaddsu 0x2a 0x5a 0x73 0 1 3),
   (0x0AAAD737, .vsubss 0x2a 0x5a 0x73 0 1 3),
   (0x0CAAD737, .vsubsu 0x2a 0x5a 0x73 0 1 3),
   (0x0EAAD737, .vmul 0x2a 0x5a 0x73 0 1 3),
   (0x10AAD737, .vmulh 0x2a 0x5a 0x73 0 1 3),
   (0x12AAD737, .vmulhu 0x2a 0x5a 0x73 0 1 3),
   (0x14AAD737, .vmad 0x2a 0x5a 0x73 0 1 3),
   (0x16AAD737, .vmin 0x2a 0x5a 0x73 0 1 3),
   (0x18AAD737, .vmax 0x2a 0x5a 0x73 0 1 3),
   (0x1AAAD737, .vminu 0x2a 0x5a 0x73 0 1 3),
   (0x1CAAD737, .vmaxu 0x2a 0x5a 0x73 0 1 3),
   (0x1EAAD737, .vand 0x2a 0x5a 0x73 0 1 3),
   (0x20AAD737, .vor 0x2a 0x5a 0x73 0 1 3),
   (0x22AAD737, .vxor 0x2a 0x5a 0x73 0 1 3),
   (0x24AAD737, .vandn 0x2a 0x5a 0x73 0 1 3),
   (0x26AAD737, .vshl 0x2a 0x5a 0x73 0 1 3),
   (0x28AAD737, .vshr 0x2a 0x5a 0x73 0 1 3)],
  [(0x2AAAD737, .vsar 0x2a 0x5a 0x73 0 1 3),
   (0x2CAAD737, .vrot 0x2a 0x5a 0x73 0 1 3),
   (0x2EAAD737, .vceq 0x2a 0x5a 0x73 0 1 3),
   (0x30AAD737, .vclt 0x2a 0x5a 0x73 0 1 3),
   (0x32AAD737, .vcltu 0x2a 0x5a 0x73 0 1 3),
   (0x34AAD737, .vsel 0x2a 0x5a 0x73 0 1 3),
   (0x36AAD009, .vclz 0x2a 0x5a 1 1),
   (0x38AAD009, .vpopc 0x2a 0x5a 1 1),
   (0x3AAAD009, .vabs 0x2a 0x5a 1 1),
   (0x3CAAD734, .vdot4 0x2a 0x5a 0x73 0 1),
   (0x3EAAD009, .vmov 0x2a 0x5a 1 1),
   (0x40AAD00A, .vwiden 0x2a 0x5a 1 2),
   (0x42AAD00A, .vnarrow 0x2a 0x5a 1 2),
   (0x44A80002, .vlid 0x2a 2),
   (0x60AAD399, .vaddi 0x2a 0x5a 0x73 0 1),
   (0x62AAD399, .vshli 0x2a 0x5a 0x73 0 1),
   (0x64AAD399, .vshri 0x2a 0x5a 0x73 0 1),
   (0x66AAD399, .vsari 0x2a 0x5a 0x73 0 1),
   (0x68AAD399, .vandi 0x2a 0x5a 0x73 0 1),
   (0x6AA806D3, .vmovi 0x2a 0xda 3)],
  [(0x6CAAD399, .vceqi 0x2a 0x5a 0x73 0 1),
   (0x80AAD399, .vaddS 0x2a 0x5a 0x73 0 1),
   (0x82AAD399, .vsubS 0x2a 0x5a 0x73 0 1),
   (0x84AAD399, .vmulS 0x2a 0x5a 0x73 0 1),
   (0x86AAD399, .vminS 0x2a 0x5a 0x73 0 1),
   (0x88AAD399, .vmaxS 0x2a 0x5a 0x73 0 1),
   (0x8AAAD399, .vandS 0x2a 0x5a 0x73 0 1),
   (0x8CA806D3, .vmovS 0x2a 0xda 3),
   (0x8EAAD399, .vceqS 0x2a 0x5a 0x73 0 1),
   (0x90AAD399, .vcltS 0x2a 0x5a 0x73 0 1)]]

theorem test_decode_valu : valuWords.map (fun p => decodeWord 3 p.1) = valuWords.map (fun p => .ok p.2) := rfl

/-- A word of every instruction of class VFPU: opcode and fields laid out by hand from the opcode table. -/
noncomputable def vfpuWords : List (W32 × Instr) :=
  List.flatten [
  [(0x02AAD735, .faddF32 0x2a 0x5a 0x73 0 1 0 1),
   (0x04AAD735, .fsubF32 0x2a 0x5a 0x73 0 1 0 1),
   (0x06AAD735, .fmulF32 0x2a 0x5a 0x73 0 1 0 1),
   (0x08AAD735, .ffmaF32 0x2a 0x5a 0x73 0 1 0 1),
   (0x0AAAD735, .ffmsF32 0x2a 0x5a 0x73 0 1 0 1),
   (0x0CAAD735, .fminF32 0x2a 0x5a 0x73 0 1 0 1),
   (0x0EAAD735, .fmaxF32 0x2a 0x5a 0x73 0 1 0 1),
   (0x10AAD008, .fabsF32 0x2a 0x5a 1 0),
   (0x12AAD008, .fnegF32 0x2a 0x5a 1 0),
   (0x14AAD735, .fceqF32 0x2a 0x5a 0x73 0 1 0 1),
   (0x16AAD735, .fcltF32 0x2a 0x5a 0x73 0 1 0 1),
   (0x18AAD735, .fcleF32 0x2a 0x5a 0x73 0 1 0 1),
   (0x20AAD735, .faddBf16 0x2a 0x5a 0x73 0 1 0 1),
   (0x22AAD735, .fmulBf16 0x2a 0x5a 0x73 0 1 0 1),
   (0x24AAD735, .ffmaBf16 0x2a 0x5a 0x73 0 1 0 1),
   (0x26AAD735, .fdot2Bf16 0x2a 0x5a 0x73 0 1 0 1),
   (0x28AAD735, .faddF16 0x2a 0x5a 0x73 0 1 0 1),
   (0x2AAAD735, .fmulF16 0x2a 0x5a 0x73 0 1 0 1),
   (0x2CAAD735, .ffmaF16 0x2a 0x5a 0x73 0 1 0 1),
   (0x2EAAD735, .fdot2F16 0x2a 0x5a 0x73 0 1 0 1)],
  [(0x30AAD735, .faddF64 0x2a 0x5a 0x73 0 1 0 1),
   (0x32AAD735, .fmulF64 0x2a 0x5a 0x73 0 1 0 1),
   (0x34AAD735, .ffmaF64 0x2a 0x5a 0x73 0 1 0 1),
   (0x40AAD008, .fcvtF32Bf16 0x2a 0x5a 1 0),
   (0x42AAD008, .fcvtBf16F32 0x2a 0x5a 1 0),
   (0x44AAD008, .fcvtF32F16 0x2a 0x5a 1 0),
   (0x46AAD008, .fcvtF16F32 0x2a 0x5a 1 0),
   (0x48AAD008, .fcvtF32E4m3 0x2a 0x5a 1 0),
   (0x4AAAD008, .fcvtE4m3F32 0x2a 0x5a 1 0),
   (0x4CAAD008, .fcvtF32E5m2 0x2a 0x5a 1 0),
   (0x4EAAD008, .fcvtE5m2F32 0x2a 0x5a 1 0),
   (0x50AAD008, .fcvtF32I32 0x2a 0x5a 1 0),
   (0x52AAD008, .fcvtI32F32 0x2a 0x5a 1 0),
   (0x54AAD008, .fcvtI32F32z 0x2a 0x5a 1 0),
   (0x56AAD008, .fcvtF64F32 0x2a 0x5a 1 0),
   (0x58AAD008, .fcvtF32F64 0x2a 0x5a 1 0)]]

theorem test_decode_vfpu : vfpuWords.map (fun p => decodeWord 4 p.1) = vfpuWords.map (fun p => .ok p.2) := rfl

/-- A word of every instruction of class VSLI: opcode and fields laid out by hand from the opcode table. -/
noncomputable def vsliWords : List (W32 × Instr) :=
  List.flatten [
  [(0x02AAD735, .sladd 0x2a 0x5a 0x73 0 1 1),
   (0x04AAD735, .slsub 0x2a 0x5a 0x73 0 1 1),
   (0x06AAD735, .slmul 0x2a 0x5a 0x73 0 1 1),
   (0x08AAD735, .sldiv 0x2a 0x5a 0x73 0 1 1),
   (0x0AAAD009, .slrcp 0x2a 0x5a 1 1),
   (0x0CAAD009, .slneg 0x2a 0x5a 1 1),
   (0x0EAAD009, .slabs 0x2a 0x5a 1 1),
   (0x10AAD009, .slexp 0x2a 0x5a 1 1),
   (0x12AAD009, .sllog 0x2a 0x5a 1 1),
   (0x14AAD735, .slmin 0x2a 0x5a 0x73 0 1 1),
   (0x16AAD735, .slmax 0x2a 0x5a 0x73 0 1 1),
   (0x18AAD735, .slceq 0x2a 0x5a 0x73 0 1 1),
   (0x1AAAD735, .slclt 0x2a 0x5a 0x73 0 1 1),
   (0x1CAAD009, .slsqrt 0x2a 0x5a 1 1),
   (0x20AAD00A, .slcvtSlF32 0x2a 0x5a 1),
   (0x22AAD00A, .slcvtF32Sl 0x2a 0x5a 1),
   (0x24AAD00A, .slcvtSlF64 0x2a 0x5a 1),
   (0x26AAD00A, .slcvtF64Sl 0x2a 0x5a 1),
   (0x28AAD00A, .slcvtSl16Sl32 0x2a 0x5a 1),
   (0x2AAAD00A, .slcvtSl32Sl16 0x2a 0x5a 1)],
  [(0x2CAAD009, .sllvl 0x2a 0x5a 1 1)]]

theorem test_decode_vsli : vsliWords.map (fun p => decodeWord 5 p.1) = vsliWords.map (fun p => .ok p.2) := rfl

/-- A word of every instruction of class XLANE: opcode and fields laid out by hand from the opcode table. -/
noncomputable def xlaneWords : List (W32 × Instr) :=
  List.flatten [
  [(0x02AAD737, .xshfl 0x2a 0x5a 0x73 0 1 3),
   (0x04AAD399, .xswz 0x2a 0x5a 0x73 0 1),
   (0x06AAD399, .xrot 0x2a 0x5a 0x73 0 1),
   (0x08AAD399, .xbcast 0x2a 0x5a 0x73 0 1),
   (0x0AAAD009, .xredadd 0x2a 0x5a 1 1),
   (0x0CAAD009, .xredmin 0x2a 0x5a 1 1),
   (0x0EAAD009, .xredmax 0x2a 0x5a 1 1),
   (0x10AAD00A, .xfredaddF32 0x2a 0x5a 1),
   (0x12AAD00A, .xfredmaxF32 0x2a 0x5a 1),
   (0x14AAD009, .xscan 0x2a 0x5a 1 1),
   (0x16AAD00A, .xfscanF32 0x2a 0x5a 1),
   (0x18AAD737, .xzip 0x2a 0x5a 0x73 0 1 3),
   (0x1AAAD737, .xunzip 0x2a 0x5a 0x73 0 1 3),
   (0x21AAB533, .xgetW8 0x1aa 0x5a 0x13 1 1),
   (0x23AAB533, .xgetW16 0x1aa 0x5a 0x13 1 1),
   (0x25AAB533, .xgetW32 0x1aa 0x5a 0x13 1 1),
   (0x27AAB533, .xgetW64 0x1aa 0x5a 0x13 1 1),
   (0x28A9B532, .xputW8 0x2a 0xda 0x13 1),
   (0x2AA9B532, .xputW16 0x2a 0xda 0x13 1),
   (0x2CA9B532, .xputW32 0x2a 0xda 0x13 1)],
  [(0x2EA9B532, .xputW64 0x2a 0xda 0x13 1),
   (0x31AAB401, .xballot 0x1aa 0x5a 1)]]

theorem test_decode_xlane : xlaneWords.map (fun p => decodeWord 6 p.1) = xlaneWords.map (fun p => .ok p.2) := rfl

/-- A word of every instruction of class SFU: opcode and fields laid out by hand from the opcode table. -/
noncomputable def sfuWords : List (W32 × Instr) :=
    [(0x02AAD008, .srcp 0x2a 0x5a 1 0),
   (0x04AAD008, .srsqrt 0x2a 0x5a 1 0),
   (0x06AAD008, .ssqrt 0x2a 0x5a 1 0),
   (0x08AAD008, .sexp2 0x2a 0x5a 1 0),
   (0x0AAAD008, .slog2 0x2a 0x5a 1 0),
   (0x0CAAD008, .sexp 0x2a 0x5a 1 0),
   (0x0EAAD008, .ssinpi 0x2a 0x5a 1 0),
   (0x10AAD008, .scospi 0x2a 0x5a 1 0),
   (0x12AAD008, .stanh 0x2a 0x5a 1 0),
   (0x14AAD008, .ssigm 0x2a 0x5a 1 0)]

theorem test_decode_sfu : sfuWords.map (fun p => decodeWord 7 p.1) = sfuWords.map (fun p => .ok p.2) := rfl

/-- A word of every instruction of class MEM: opcode and fields laid out by hand from the opcode table. -/
noncomputable def memWords : List (W32 × Instr) :=
    [(0x02A9B5CD, .vld 0x2a 0xda 0x73 0 1),
   (0x04A9B5CD, .vst 0x2a 0xda 0x73 0 1),
   (0x06A9B4E6, .vldu 0x2a 0xda 0x73 0),
   (0x08A9B4E6, .vstu 0x2a 0xda 0x73 0),
   (0x0AA9B5CD, .vlds 0x2a 0xda 0x73 0 1),
   (0x0CA9B5CD, .vsts 0x2a 0xda 0x73 0 1),
   (0x0EA9B4E6, .vldsu 0x2a 0xda 0x73 0),
   (0x10A9B4E6, .vstsu 0x2a 0xda 0x73 0),
   (0x13AA6D66, .sld 0x1aa 0xda 0x33 0),
   (0x15AA6D66, .sst 0x1aa 0xda 0x33 0),
   (0x17AA6D66, .sldw 0x1aa 0xda 0x33 0),
   (0x18AA0001, .vpop 0x2a 2 1),
   (0x1B5B5730, .fld 2 0x2da 0x173 0),
   (0x1D5B5730, .fst 2 0x2da 0x173 0),
   (0x1F5B5730, .fldb 2 0x2da 0x173 0),
   (0x215B5730, .flda 2 0x2da 0x173 0),
   (0x235B5730, .famo 2 0x2da 0x173 0),
   (0x24A9B598, .vstb 0x2a 0xda 0x33 0)]

theorem test_decode_mem : memWords.map (fun p => decodeWord 8 p.1) = memWords.map (fun p => .ok p.2) := rfl

/-- A word of every instruction of class SYNC: opcode and fields laid out by hand from the opcode table. -/
noncomputable def syncWords : List (W32 × Instr) :=
  List.flatten [
  [(0x02A9B4C0, .bar 0x2a 0xda 3 0),
   (0x05AA6D01, .barinit 0x1aa 0xda 1),
   (0x0600D500, .barsig 0x1aa 0),
   (0x0800D500, .barwait 0x1aa 0),
   (0x0BAA6D01, .gbar 0x1aa 0xda 1),
   (0x0DAA6801, .qpush 0x1aa 0x1a 1),
   (0x0FAA6801, .qpop 0x1aa 0x1a 1),
   (0x11AA6801, .qtry 0x1aa 0x1a 1),
   (0x13AA6801, .qallow 0x1aa 0x1a 1),
   (0x1400A6D1, .ringpub 0xa 0xda 1),
   (0x17AAAB98, .ringwait 0x1aa 0xa 0x173 0),
   (0x19AAAB98, .ringadv 0x1aa 0xa 0x173 0),
   (0x20AAD4D0, .aadd 0x2a 0x5a 0x13 0 1 0),
   (0x22AAD4D0, .aand 0x2a 0x5a 0x13 0 1 0),
   (0x24AAD4D0, .aor 0x2a 0x5a 0x13 0 1 0),
   (0x26AAD4D0, .axor 0x2a 0x5a 0x13 0 1 0),
   (0x28AAD4D0, .amin 0x2a 0x5a 0x13 0 1 0),
   (0x2AAAD4D0, .amax 0x2a 0x5a 0x13 0 1 0),
   (0x2CAAD4D0, .aswap 0x2a 0x5a 0x13 0 1 0),
   (0x2EAAD4D0, .acas 0x2a 0x5a 0x13 0 1 0)],
  [(0x30AAD4D0, .redadd 0x2a 0x5a 0x13 0 1 0),
   (0x32AAD4D0, .redmin 0x2a 0x5a 0x13 0 1 0),
   (0x34AAD4D0, .redmax 0x2a 0x5a 0x13 0 1 0),
   (0x36AAD4D0, .fredadd 0x2a 0x5a 0x13 0 1 0),
   (0x40A80001, .fence 0xa 2 1),
   (0x42A9CC00, .qfence 0xa 2 0x73 0),
   (0x45AAA001, .mbrd 0x1aa 0xa 1),
   (0x47AAA001, .mbwr 0x1aa 0xa 1),
   (0x49AAA001, .mbtry 0x1aa 0xa 1)]]

theorem test_decode_sync : syncWords.map (fun p => decodeWord 9 p.1) = syncWords.map (fun p => .ok p.2) := rfl

/-- A word of every instruction of class MTX: opcode and fields laid out by hand from the opcode table. -/
noncomputable def mtxWords : List (W32 × Instr) :=
    [(0x02AAD73B, .mma 0x2a 0x5a 0x73 5 1),
   (0x04AAD73B, .mmaz 0x2a 0x5a 0x73 5 1),
   (0x06A80000, .mset 0x2a),
   (0x09AA005A, .mzero 0x1aa 0x5a),
   (0x0BAA0000, .mpar 0x1aa),
   (0x0DAA6D73, .mdrain 0x1aa 0xda 0x73),
   (0x0FAA005A, .mdrainv 0x1aa 0x5a),
   (0x11AA6D73, .msoft 0x1aa 0xda 0x73),
   (0x13AA6D73, .mside 0x1aa 0xda 0x73),
   (0x15AA6D73, .macq 0x1aa 0xda 0x73),
   (0x17AA005A, .mrel 0x1aa 0x5a),
   (0x19AA005A, .mrelf 0x1aa 0x5a),
   (0x1BAA6D73, .mred 0x1aa 0xda 0x73)]

theorem test_decode_mtx : mtxWords.map (fun p => decodeWord 10 p.1) = mtxWords.map (fun p => .ok p.2) := rfl

/-- A word of every instruction of class ASYNC: opcode and fields laid out by hand from the opcode table. -/
noncomputable def asyncWords : List (W32 × Instr) :=
    [(0x03AA6D73, .cpy 0x1aa 0xda 0x73),
   (0x05AA6D73, .gath 0x1aa 0xda 0x73),
   (0x07AA6D73, .scat 0x1aa 0xda 0x73),
   (0x09AA6D73, .chain 0x1aa 0xda 0x73),
   (0x0BAA6D73, .ringsub 0x1aa 0xda 0x73),
   (0x0DAA6D00, .unsub 0x1aa 0xda),
   (0x0FAA6D73, .pull 0x1aa 0xda 0x73),
   (0x11AA6D00, .tlook 0x1aa 0xda),
   (0x13AA6D73, .tfill 0x1aa 0xda 0x73),
   (0x15AA005A, .tevict 0x1aa 0x5a),
   (0x17AA005A, .tinval 0x1aa 0x5a),
   (0x19AA6D73, .coll 0x1aa 0xda 0x73),
   (0x1BAA6D73, .oldu 0x1aa 0xda 0x73),
   (0x1DAA6D73, .oldg 0x1aa 0xda 0x73)]

theorem test_decode_async : asyncWords.map (fun p => decodeWord 11 p.1) = asyncWords.map (fun p => .ok p.2) := rfl

/-- A word of every instruction of class BAG: opcode and fields laid out by hand from the opcode table. -/
noncomputable def bagWords : List (W32 × Instr) :=
    [(0x02AAD5CD, .bput 0x2a 0x5a 0x173 0 1),
   (0x04A80369, .bputl 0x2a 0xda 1),
   (0x07AA6D00, .bcount 0x1aa 0xda),
   (0x09AA6D73, .bcounts 0x1aa 0xda 0x73),
   (0x0BAA6D73, .bnew 0x1aa 0xda 0x73),
   (0x0DAA6D73, .bgrow 0x1aa 0xda 0x73),
   (0x0FAA6D00, .bfree 0x1aa 0xda),
   (0x11AA6D00, .bseal 0x1aa 0xda),
   (0x13AA6D73, .biter 0x1aa 0xda 0x73),
   (0x14AAD5CC, .bnext 0x2a 0x5a 0x173 0),
   (0x16AAD5CD, .bwrite 0x2a 0x5a 0x173 0 1),
   (0x19AA6D73, .bdrain 0x1aa 0xda 0x73)]

theorem test_decode_bag : bagWords.map (fun p => decodeWord 12 p.1) = bagWords.map (fun p => .ok p.2) := rfl

/-- A word of every instruction of class TASK: opcode and fields laid out by hand from the opcode table. -/
noncomputable def taskWords : List (W32 × Instr) :=
    [(0x03AA6D73, .spawn 0x1aa 0xda 0x73),
   (0x05AA6D73, .spawnr 0x1aa 0xda 0x73),
   (0x07AA6D00, .rtake 0x1aa 0xda),
   (0x09AA6D73, .launch 0x1aa 0xda 0x73),
   (0x0BAA6D00, .tcbdec 0x1aa 0xda),
   (0x0DAA6D00, .eplan 0x1aa 0xda),
   (0x0FAA0000, .wphase 0x1aa),
   (0x11AA6D00, .tself 0x1aa 0xda),
   (0x13AA6D73, .fcont 0x1aa 0xda 0x73)]

theorem test_decode_task : taskWords.map (fun p => decodeWord 13 p.1) = taskWords.map (fun p => .ok p.2) := rfl

/-- Words of the manual's own examples, by class. -/
noncomputable def exampleWords : List (Nat × W32 × Instr) :=
  List.flatten [
  [(1, 0x10140C07, .sub 5 6 7), (1, 0x08A4501D, .add 41 40 29), (2, 0x38100803, .sari 4 4 3), (0, 0x03FFFFEF, .bra 0x1FFFFEF),
   (3, 0x0650A965, .vaddss 20 21 22 0 1 1), (3, 0x640C1943, .vshri 3 3 40 0 3), (3, 0x801C404A, .vaddS 7 8 9 0 2),
   (3, 0x8C1000A3, .vmovS 4 20 3), (4, 0x26201030, .fdot2Bf16 8 2 3 0 0 0 0), (6, 0x04142042, .xswz 5 4 8 0 2),
   (6, 0x240C0E32, .xgetW32 12 7 3 1 0), (6, 0x261E0E00, .xgetW64 30 7 0 0 0), (7, 0x08284808, .sexp2 10 9 1 0)],
  [(5, 0x063050B6, .slmul 12 10 11 0 1 2), (5, 0x20101802, .slcvtSlF32 4 3 0), (8, 0x02101416, .vld 4 10 5 1 0),
   (8, 0x06181605, .vldu 6 11 2 1), (8, 0x24501C18, .vstb 20 14 3 0), (8, 0x120C0185, .sld 12 3 2 1), (8, 0x181D0000, .vpop 7 1 0),
   (8, 0x141E0680, .sst 30 13 0 0), (8, 0x10282802, .vstsu 10 20 1 0)],
  [(9, 0x202858F0, .aadd 10 11 3 1 1 0), (9, 0x2E102880, .acas 4 5 2 0 0 0), (9, 0x40340000, .fence 3 1 0),
   (9, 0x42284401, .qfence 2 2 0x11 1), (0, 0x2981E000, .fent 3 15 0), (0, 0x2F800000, .fpub 3), (8, 0x1B00E0C0, .fld 2 7 12 0),
   (8, 0x1C80A141, .fst 1 5 20 1), (8, 0x2280C150, .famo 1 6 21 0), (0, 0x3424F003, .trpv 9 30 0)],
  [(11, 0x022814AA, .cpy 40 41 42), (11, 0x10321980, .tlook 50 51), (12, 0x02206052, .bput 8 12 20 1 0), (12, 0x121E0A15, .biter 30 20 21),
   (12, 0x1450B078, .bnext 20 22 30 0), (13, 0x020A058C, .spawn 10 11 12), (13, 0x06140A80, .rtake 20 21),
   (13, 0x081E0FA0, .launch 30 31 32), (13, 0x0C281480, .eplan 40 41)]]

theorem test_decode_examples : exampleWords.map (fun p => decodeWord p.1 p.2.1) = exampleWords.map (fun p => .ok p.2.2) := rfl

theorem test_encode_examples : exampleWords.map (fun p => encode p.2.2) = exampleWords.map (fun p => p.2.1.toNat) := rfl

/-- A reserved bit, an unknown opcode, an opcode of another class, an illegal field value: refused by name. -/
theorem test_decode_refuses : decodeWord 1 0xD6A9B401 = .error .illegalWord ∧ decodeWord 1 0xF0000000 = .error .illegalWord ∧
    decodeWord 3 0x46A80000 = .error .illegalWord ∧ decodeWord 0 0x24040020 = .error .illegalWord := ⟨rfl, rfl, rfl, rfl⟩

theorem test_header : decodeHeader 0x24000FF0 = .ok (.clauseHeader 2 4 0 15 15 0) ∧ (decodeHeader 0xE1000FF0).toOption = none ∧
    (decodeHeader 0x20000FF0).toOption = none ∧ (decodeHeader 0x21000CF0).toOption = none ∧
    (decodeHeader 0x21000FF1).toOption = none := ⟨rfl, rfl, rfl, rfl, rfl⟩

theorem test_table_word : decodeTableWord 64 0x10140C0711000FF0 = some (.sub 5 6 7) ∧
    decodeTableWord 64 0x1E09000501000FF0 = none ∧ decodeTableWord 64 0x6010000521000FF0 = some (.movi 4 5) :=
  ⟨rfl, rfl, rfl⟩

/-- The word is the first that a step runs after reset: s4 is 5, the position is at the clause's end. -/
theorem test_step_runs : ∃ t, step (State.reset.withFetchWord 64 0x6010000521000FF0) = .next t ∧ t.rd 4 = 5 ∧
    t.cur.sl.clause = none := ⟨_, rfl, rfl, rfl⟩

/-! ## A small state -/

/-- A table of three levels that maps the first GiB onto itself: readable, writable, executable, accessed, written; with
`leaf` 0xDF the placement homes' alone to write. -/
def pt (leaf : Byte) : List Host.Cell :=
  writeBytes (writeBytes (writeBytes [] 0x200000000 [0x81, 0x10, 0, 0, 2]) 0x200001000 [0x81, 0x20, 0, 0, 2]) 0x200002000 [leaf, 1]

/-- Memory with those tables and `bs` at `a`. -/
def memAt (a : Nat) (bs : List Byte) : List Host.Cell := writeBytes (pt 0x9F) a bs

/-- Every agent sees `m`. -/
def all5 (m : List Host.Cell) : Views := ⟨m, m, m, m, m⟩

/-- A context under those tables; no trap table. -/
def rec0 : CtxRec :=
  { table := 0x200000000, trapTab := 0, scopeTab := 0, boundTab := 0, bagPool := ⟨0, 0⟩, frmPool := ⟨0x400000, 65536⟩, tskPool := ⟨0x500000, 65536⟩,
    snpPool := ⟨0x600000, 131072⟩, queues := [⟨0x20000, 16, 0x30000⟩], unsignedOk := false, logCorrected := false, images := [], bags := [] }

def kern0 : Kernel :=
  { entry := 0x1000, aentry := 0, groups := 1, base := 96, grow := 0, scrl := 8, bars := 2, tqs := 2, rings := 3, frm := [0, 0, 0, 0],
    detached := false, cores := false }

/-- A launch of one team of one core. -/
def tcb0 : Tcb :=
  { st := .running, ctx := 1, packet := BitVec.ofNat 512 (0x11 * 2 ^ (8 * 48)), kernel := kern0, preds := 0, manual := 0, succs := [], size := 1,
    sizeRead := true, pieces := [], tiles := [], wdone := 0, waited := false, readyAt := 0, queue := none, parent := none, replays := 0,
    unprot := false, failed := false, rejected := false, xfault := none, starved := [], rolling := false, why := (0, 0, 0), reduced := [] }

def clus0 : Cluster :=
  { tcb := 1, clid := 0, origin := 0, width := 1, height := 1, lo := 1, hi := 1, taken := 1, crqs := [], ended := false }

def team0 : Team :=
  { tcb := 1, tidx := 0, core := 0, cluster := 1, cidx := 0, groups := 1, scrl := 8, nbars := 2, ntqs := 2, rings := 3, isTask := false,
    mem := [], tags := [], bars := [], tqs := [], ringst := [], wph := 0, left := 0, ended := false, stop := 0, placed := 0 }

def grp0 : Group := { Group.idle with id := 1, team := 1, ctx := 1, tcb := 1, pcv := tab fun _ => 0x1000 }

/-- A clause of `cls` with `cnt` words, all zero, the word `idx` next; its header names no flag. -/
def cl (cls cnt idx : Nat) : Clause :=
  { addr := 0x1000, hdr := BitVec.ofNat 32 (cls * 2 ^ 28 + cnt * 2 ^ 24 + 0xFF0), words := List.replicate cnt 0, idx := idx,
    exec := BitVec.allOnes 32 }

/-- The selected group runs that clause on core 0 of a package that is up; the first GiB is mapped onto itself; scalar
registers `r`, vector names `v`. -/
def st (cls cnt idx : Nat) (r : Kv W64 := []) (v : Kv VName := []) : State :=
  { State.reset with
    kstate := 1
    cur := ⟨{ grp0 with v := v }, { Slice.idle .execute with s := r, clause := some (cl cls cnt idx) }⟩
    teams := [(1, team0)], clusters := [(1, clus0)], tcbs := [(1, tcb0)], ctxs := [(1, CtxState.fresh rec0)]
    views := all5 (pt 0x9F), nextId := 5 }

/-- The same with a trap table at 0x8000, whose entry of every cause named in `l` is 0x9000. -/
def stTrap (s : State) (l : List Nat) : State :=
  let m := l.foldl (fun m c => writeBytes m (0x8000 + 8 * c) [0x00, 0x90]) (pt 0x9F)
  { s with ctxs := [(1, CtxState.fresh { rec0 with trapTab := 0x8000 })], views := all5 m }

/-- In the handler of a cause, which was taken at word 1 of the clause at 0x1000. -/
def hand (cause : Nat) : Handler :=
  { cause := cause, exec := 3, pc := 0x9000, clause := 0x1000, word := 1, rep := none, only := none, load := none, bad := 0, repl := none, mask := 0 }

def inHandler (s : State) (h : Handler) : State := s.setSl fun x => { x with handler := some h }

theorem trapRegister_iff (s : State) (n : Nat) : Claims.trapRegister s n ↔ s.reservedDest n = true := by
  simp [Claims.trapRegister, State.reservedDest, State.handlerOn]
  cases h : s.ctx? <;> simp [and_assoc]

/-- A destination that does not belong to trap handling, and one that does. -/
theorem notReserved {s : State} {n : Nat} (h : s.reservedDest n = false) : ¬Claims.trapRegister s n := by
  simp [trapRegister_iff, h]

theorem noFlag (s : State) : Claims.room s none := fun _ h => nomatch h

/-- An earlier operation of the slice that still goes on, with one access that nothing has performed. -/
def outSt (s : State) (k : OpKind) : State :=
  s.setSl fun x => { x with nextSeq := 1, ops := [⟨3, 0, k, none, 1, 0x1004, [⟨0, 0x200000, .mem 0x200000 false, 8, 0, 0, 0, .waiting⟩], Stamp.zero, 0⟩] }

/-! ## Witnesses: for the hypotheses of every statement, a state and operands that meet them, clause by clause -/

/-- `st` with the words `ws` in the clause. -/
def stw (cls : Nat) (ws : List W32) (idx : Nat) : State :=
  (st cls ws.length idx).setSl fun x => { x with clause := x.clause.map fun c => { c with words := ws } }

theorem witness_DecodeOfEncode : (Instr.sub 5 6 7).cls = some 1 ∧ (Instr.sub 511 0 7).wf = true ∧
    (Instr.clauseHeader 13 15 0 11 15 0).wf = true := ⟨rfl, rfl, rfl⟩

theorem witness_EncodeOfDecode : decodeWord 1 0x10140C07 = .ok (.sub 5 6 7) ∧ decodeWord 1 0xFE000000 = .ok (.rpt 0 0 0 0) ∧
    decodeHeader 0x24000FF0 = .ok (.clauseHeader 2 4 0 15 15 0) := ⟨rfl, rfl, rfl⟩

/-- The header, a repeat word, the second issue of a repeat, a word of a scalar-profile stream, and a turn. -/
theorem witness_StepRunsDecoded :
    (let s := st 1 2 0
     let c := cl 1 2 0
     s.agenda = [] ∧ s.kstate ≠ 0 ∧ Claims.goes s.past ∧ s.past.cur.sl.clause = some c ∧ c.absent = false ∧ c.idx = 0 ∧
       decodeHeader c.hdr = .ok (.clauseHeader 1 2 0 15 15 0)) ∧
    (let s := stw 1 [0xFE000000, 0x10140C07] 1
     ∃ c, s.past.cur.sl.clause = some c ∧ Claims.goes s.past ∧ c.absent = false ∧ c.idx ≠ 0 ∧ isRptWord c.word.toNat = true ∧
       decodeWord c.cls c.word = .ok (.rpt 0 0 0 0) ∧ c.rptOk 0 0 0 = true) ∧
    (let s := (stw 1 [0xFE000000, 0x10140C07] 2).setSl fun x => { x with rep := some ⟨1, 2, 1, 0, 0⟩ }
     ∃ c, s.agenda = [] ∧ s.kstate ≠ 0 ∧ Claims.goes s.past ∧ s.past.cur.sl.clause = some c ∧ c.absent = false ∧ c.idx ≠ 0 ∧
       isRptWord c.word.toNat = false ∧ decodeWord c.cls c.word = .ok (.sub 5 6 7) ∧
       stepWord c.cls s.past.cur.sl.rep c.word.toNat = .ok 0x10180C07 ∧ decodeWord c.cls (BitVec.ofNat 32 0x10180C07) = .ok (.sub 6 6 7)) ∧
    (let s := (stw 1 [0x10140C07] 1).setSl fun x => { x with kind := .access }
     s.past.cur.sl.scalar = true ∧ scalarOp 1 (wordOp 1 0x10140C07) = true ∧ Claims.goes s.past) ∧
    (let s := { st 1 1 1 with agenda := [.event (.load 3 0)] }
     s.agenda = .event (.load 3 0) :: [] ∧ (Instr.load 3 0).hasWord = false) := by
  refine ⟨⟨rfl, by decide, ⟨rfl, .inr (.inr rfl)⟩, rfl, rfl, rfl, rfl⟩,
    ⟨_, rfl, ⟨rfl, .inr (.inr rfl)⟩, rfl, by decide, rfl, rfl, rfl⟩,
    ⟨_, rfl, by decide, ⟨rfl, .inr (.inr rfl)⟩, rfl, rfl, by decide, rfl, rfl,
      (show stepWord 1 (some ⟨1, 2, 1, 0, 0⟩) 0x10140C07 = .ok 0x10180C07 from rfl), rfl⟩, ⟨rfl, rfl, rfl, .inr (.inr rfl)⟩, rfl, rfl⟩

theorem witness_StepKeepsMemoryForm : (st 1 1 1).views.wf = true ∧ (stTrap (st 1 1 1) [0x12]).views.wf = true ∧
    ∃ t, step (st 1 2 0) = .next t := ⟨rfl, by decide +kernel, _, rfl⟩

/-- A destination below, at and above the registers of trap handling, and s0; with and without a trap table. -/
theorem witness_ScalarResults :
    Claims.scalarResult (st 1 1 1 [(6, 7), (7, 2)]) (.sub 5 6 7) = some (5, 5) ∧
    ¬Claims.trapRegister (st 1 1 1) 496 ∧ Claims.trapRegister (stTrap (st 1 1 1) []) 496 ∧ Claims.trapRegister (stTrap (st 1 1 1) []) 510 ∧
    ¬Claims.trapRegister (stTrap (st 1 1 1) []) 495 ∧ ¬Claims.trapRegister (stTrap (st 1 1 1) []) 511 ∧
    ¬Claims.trapRegister (inHandler (stTrap (st 1 1 1) []) (hand 0x12)) 500 ∧
    Claims.scalarResult (st 1 1 1) (.movi 0 1) = some (0, 1) :=
  ⟨rfl, notReserved rfl, (trapRegister_iff ..).2 rfl, (trapRegister_iff ..).2 rfl, notReserved rfl, notReserved rfl, notReserved rfl, rfl⟩

theorem test_div_by_zero : exec (.div 3 1 2) (st 1 1 1 [(1, 7)]) = .next ((st 1 1 1 [(1, 7)]).wr 3 ones64).advance := rfl
theorem test_sar : Claims.scalarResult (st 1 1 1 [(1, ones64), (2, 0xFF)]) (.sar 3 1 2) = some (3, ones64) := rfl
theorem test_sar_word : (exec (.sar 3 1 2) (st 1 2 1 [(1, 0x8000000000000000), (2, 0x13F)])) = .next ((st 1 2 1
    [(1, 0x8000000000000000), (2, 0x13F)]).wr 3 ones64).advance := rfl
theorem test_trap_destination : ∃ t, exec (.movi 500 1) (stTrap (st 2 1 1) [3]) = .next t ∧ t.rd 505 = 3 ∧ t.rd 509 = 500 :=
  ⟨_, rfl, by decide, by decide⟩

/-- A legal header with no flag to wait for, with one raised, an illegal one, and a class that a scalar stream does not run. -/
theorem witness_HeaderTestsWait :
    (Instr.clauseHeader 3 1 0x800 11 15 0).wf = true ∧ (st 3 1 0).cur.sl.kind.allows (3 : BitVec 4).toNat = true ∧
    (∀ f, f < 12 → (0x800 : BitVec 12).getLsbD f = true → kvGet 0 (st 3 1 0).cur.sl.flags f = 0) ∧
    (∃ f, f < 12 ∧ (0x800 : BitVec 12).getLsbD f = true ∧
      kvGet 0 ((st 3 1 0).setSl fun x => { x with flags := [(11, 1)] }).cur.sl.flags f ≠ 0) ∧
    (Instr.clauseHeader 14 1 0 0 0 0).wf = false ∧ SliceKind.access.allows 3 = false :=
  ⟨rfl, rfl, by decide, ⟨11, by decide, by decide, by decide⟩, rfl, rfl⟩

/-- A repeat in progress that goes on; a field stepped to the end of its range, and past it at both ends. -/
theorem witness_RepeatSteps :
    (let s := (st 1 2 2).setSl fun x => { x with rep := some ⟨0, 64, 1, 0, 0⟩ }
     ∃ c p, s.cur.sl.clause = some c ∧ s.cur.sl.rep = some p ∧ p.k + 1 < p.n) ∧
    stepField (sc 18) 1 1 (510 * 2 ^ 18) = .ok (511 * 2 ^ 18) ∧ stepField (sc 18) 1 1 (511 * 2 ^ 18) = .error 512 ∧
    stepField (sc 18) 1 (-1) 0 = .error (-1) := ⟨⟨_, _, rfl, rfl, by decide⟩, rfl, rfl, rfl⟩

/-- Last in the clause; a condition that holds and one that does not; targets that are multiples of 4. -/
theorem witness_ScalarBranches :
    (let s := st 0 1 1 [(3, ones64), (511, 0x2000)]
     Claims.atEnd s ∧ (s.rd 3 == 0) = false ∧ (s.rd 3).getLsbD 63 = true ∧ (s.rd 4 == 0) = true ∧
     (s.rd 511 + 4 * (0xFFFF : BitVec 16).signExtend 64).toNat % 4 = 0 ∧ (s.rd 511).toNat % 4 = 0 ∧
     ∃ t, exec (.callr 511) s = .next t ∧ t.rd 511 = 0x1008 ∧ lane t.cur.g.pcv 31 = 0x2000) :=
  ⟨⟨_, rfl, rfl⟩, rfl, rfl, rfl, rfl, rfl, _, rfl, rfl, rfl⟩

/-- The source read; outside handler mode; in it with a condition that holds in every recorded lane, in none, in some. -/
theorem witness_LaneBranches :
    (let s := st 0 1 1
     Claims.atEnd s ∧ s.cur.sl.kind = .execute ∧ s.sources [⟨5, true⟩] none = .ok ([zeroLanes], s.cur.g) ∧ s.cur.sl.handler = none) ∧
    (let s := inHandler (st 0 1 1 [] [(5, .mapped (tab fun l => if l = 31 then 1 else 0))]) (hand 0x12)
     s.sources [⟨5, false⟩] none = .ok ([tab fun l => if l = 31 then 1 else 0], s.cur.g) ∧ s.cur.sl.handler.isSome = true ∧ s.exec' ≠ 0 ∧
     ∃ l ∈ lanesOf s.exec', ∃ k ∈ lanesOf s.exec', lane (tab fun l => if l = 31 then 1 else 0) l ≠ 0 ∧ lane (tab fun l => if l = 31 then 1 else 0) k = 0) :=
  ⟨⟨⟨_, rfl, rfl⟩, rfl, rfl, rfl⟩, rfl, rfl, by decide, 31, by decide, 0, by decide, by decide, by decide⟩

/-- With other lanes left active and with none; a scalar stream whose slots are in. -/
theorem witness_LaneStateWords :
    (let s := st 0 1 1
     Claims.atEnd s ∧ s.cur.sl.handler = none ∧ s.cur.sl.kind = .execute ∧ activeMask (tab fun _ => 0x1008) (s.cur.g.park ||| s.exec') = 0) ∧
    (let s := (st 0 1 1).setSl fun x => { x with kind := .access, clause := x.clause.map fun c => { c with exec := 1 } }
     Claims.atEnd s ∧ s.cur.sl.handler = none ∧ s.cur.sl.scalar = true ∧ s.mayGiveUp s.axdFrames = true) ∧
    (let s := (st 0 1 1).setSl fun x => { x with clause := x.clause.map fun c => { c with exec := 1 } }
     ∃ t, exec .vpark s = .next t ∧ activeMask t.cur.g.pcv (s.cur.g.park ||| s.exec') ≠ 0) :=
  ⟨⟨⟨_, rfl, rfl⟩, rfl, rfl, by decide⟩, ⟨⟨_, rfl, rfl⟩, rfl, rfl, rfl⟩, _, rfl, by decide⟩

theorem witness_BranchTraps :
    (∃ c, (st 0 2 1).cur.sl.clause = some c ∧ c.idx ≠ c.cnt) ∧
    (let s := st 0 1 1 [(3, 0x2002), (511, 0x2001)]
     (∃ c, s.cur.sl.clause = some c ∧ c.idx = c.cnt) ∧ (s.rd 3).toNat % 4 ≠ 0 ∧ (s.rd 3 + 4 * (1 : BitVec 16).signExtend 64).toNat % 4 ≠ 0 ∧
     (s.rd 511).toNat % 4 ≠ 0) := ⟨⟨_, rfl, by decide⟩, ⟨_, rfl, rfl⟩, by decide, by decide, by decide⟩

/-- A handler of a software trap that returns before the last word of its clause, and at the last. -/
theorem witness_SoftwareTraps :
    (∀ n, n = 1 ∨ n = 2 →
      let h := { hand 0x11 with word := n }
      let s := inHandler (st 0 1 1 [(506, 0x1000), (507, BitVec.ofNat 64 n)]) h
      let m := memAt 0x1000 [0xF0, 0x0F, 0, 0x12]
      let s := { s with views := all5 m }
      (∃ c, s.cur.sl.clause = some c ∧ c.idx = c.cnt) ∧ s.cur.sl.handler = some h ∧ h.load = none ∧ s.cur.sl.kind = .execute ∧
        s.rd 506 = h.clause ∧ (s.rd 507).toNat = h.word ∧ h.word ≠ 0 ∧ h.word ≤ 2 ∧
        (∃ ps, s.fetchClause h.clause = .ok (0x12000FF0, [0, 0], ps)) ∧
        ({ addr := h.clause, hdr := 0x12000FF0, words := [0, 0], idx := h.word, exec := h.exec } : Clause).legal .execute = true) := by
  rintro n (rfl | rfl) <;> exact ⟨⟨_, rfl, rfl⟩, rfl, rfl, rfl, rfl, rfl, by decide, by decide, ⟨_, rfl⟩, rfl⟩

/-- A trap with a handler, for the deferred cause as for the others; no table, an entry of zero, one that cannot be read. -/
theorem witness_TrapEntry :
    (let s := stTrap (st 0 2 1) [0x0A, 0x12]
     (∃ c, s.cur.sl.clause = some c) ∧ s.cur.sl.handler = none ∧ s.handlerFor 0x0A = some 0x9000 ∧ s.handlerFor 0x12 = some 0x9000 ∧
     s.handlerFor 0x13 = none ∧ ∃ p, s.lookVa s.cur.sl.nextSeq (0x8000 + .ofNat 64 (8 * 0x13)) = .ok (0, p)) ∧
    (let s := { stTrap (st 0 2 1) [] with views := all5 [] }
     s.lookVa s.cur.sl.nextSeq (0x8000 + .ofNat 64 (8 * 0x12)) = .error 0x07) ∧
    ∃ c, (st 0 2 1).ctx? = some c ∧ c.r.trapTab = 0 :=
  ⟨⟨⟨_, rfl⟩, rfl, by decide +kernel, by decide +kernel, by decide +kernel, _, rfl⟩, rfl, _, rfl, rfl⟩

theorem witness_ReturnFromTrap :
    (let s := st 0 1 1
     (∃ c, s.cur.sl.clause = some c ∧ c.idx = c.cnt) ∧ s.cur.sl.handler = none) ∧
    (let s := inHandler (st 0 1 1 [(506, 0x2000), (510, 7)]) (hand 0x13)
     (∃ c, s.cur.sl.clause = some c ∧ c.idx = c.cnt) ∧ (hand 0x13).load = none ∧ s.rd 507 = 0 ∧
     ∃ t, exec .rfe s = .next t ∧ t.rd 511 = 7 ∧ lane t.cur.g.pcv 1 = 0x2000 ∧ lane t.cur.g.pcv 2 = 0x1000) :=
  ⟨⟨⟨_, rfl, rfl⟩, rfl⟩, ⟨_, rfl, rfl⟩, rfl, rfl, _, rfl, rfl, rfl, rfl⟩

/-- Indices and values at the ends of their ranges. -/
theorem witness_SystemRegisters :
    sysRegOk 1 = true ∧ sysRegOk 0x0D = true ∧ sysRegOk 0x10 = true ∧ sysRegOk 0x1F = true ∧ sysRegOk 0 = false ∧ sysRegOk 0x0F = false ∧
    (let s := st 0 1 1 [(3, 63), (4, 15), (5, 8)]
     s.sysBusy 1 = false ∧ (s.rd 3).toNat < 64 ∧ (s.rd 4).toNat < 16 ∧ (s.rd 5).toNat ≤ 8 ∧ s.sysBusy 0x10 = false ∧
     (∃ t, exec (.syswr 5 0x10) s = .next t ∧ t.cur.g.name 112 = .queue 8 []) ∧
     (∃ t, exec (.syswr 5 0x1F) s = .next t ∧ t.cur.g.name 127 = .queue 8 []) ∧
     (∃ t, s.team? = some t ∧ ∃ c, alFind s.clusters t.cluster = some c) ∧ s.cur.allOps = [] ∧ ¬Claims.trapRegister s 4) ∧
    (let s := (st 0 1 1 [(3, 64), (4, 16), (5, 9)]).setSl fun x => { x with
       ops := [⟨3, 0, .atomic .fadd false .nowhere 1 false, none, 1, 0x1004, [], Stamp.zero, 0⟩] }
     s.sysBusy 1 = true ∧ s.sysBusy 3 = true ∧ s.sysBusy 2 = false ∧ 64 ≤ (s.rd 3).toNat ∧ 16 ≤ (s.rd 4).toNat ∧ 8 < (s.rd 5).toNat) :=
  ⟨rfl, rfl, rfl, rfl, rfl, rfl, ⟨rfl, by decide, by decide, by decide, rfl, ⟨_, rfl, rfl⟩, ⟨_, rfl, rfl⟩, ⟨_, rfl, _, rfl⟩, rfl, notReserved rfl⟩,
    rfl, rfl, rfl, by decide, by decide, by decide⟩

/-- A value of all ones or a multiple of 4 in every lane outside EXEC, and one that is neither; the handler of a load. -/
def vec (x : W64) : VName := .mapped (tab fun _ => x)

theorem witness_LanePcWords :
    (let s := (st 0 2 1 [] [(5, .mapped (tab fun l => if l = 31 then ones64 else 4))]).setSl fun x => { x with
       clause := x.clause.map fun c => { c with exec := 1 } }
     ∃ v g, s.sources [⟨5, true⟩] none = .ok ([v], g) ∧
       (∀ l, l < 32 → inMask s.exec' l = true ∨ (lane v l).toNat % 4 = 0 ∨ lane v l = ones64) ∧
       ∃ g, s.writeName s.cur.g 6 (BitVec.allOnes 32) s.cur.g.pcv = .ok g) ∧
    (let s := (st 0 2 1 [] [(5, .mapped (tab fun _ => 2))]).setSl fun x => { x with clause := x.clause.map fun c => { c with exec := 1 } }
     ∃ v g, s.sources [⟨5, false⟩] none = .ok ([v], g) ∧ ∃ l, l < 32 ∧ inMask s.exec' l = false ∧ (lane v l).toNat % 4 ≠ 0 ∧ lane v l ≠ ones64) ∧
    (let o : Op := ⟨3, 0, .load (.vec 9), none, 3, 0x1004, [], Stamp.zero, 0⟩
     let s := inHandler (st 0 2 1) { hand 0x0A with load := some o, bad := 2 }
     ∃ v g g', s.sources [⟨5, false⟩] (some 6) = .ok ([v], g) ∧ s.writeName g 6 (BitVec.allOnes 32)
       (tab fun l => if inMask o.exec l && !inMask 2 l then lane (gotLanes o.acc) l else 0) = .ok g') ∧
    (st 0 2 1).cur.sl.handler = none ∧ (hand 0x12).load = none ∧
    (let s := (st 0 2 1).setG fun g => { g with v := [(7, vec 1)], base := 0, grow := 0 }
     (s.cur.g.drained [⟨5, false⟩] (some 6)).full 6 = true ∧ (s.cur.g.drained [⟨5, false⟩] (some 7)).full 7 = false) := by
  refine ⟨⟨_, _, rfl, by decide, _, rfl⟩, ⟨_, _, rfl, 31, by decide, by decide, by decide, by decide⟩, ⟨_, _, _, rfl, rfl⟩, rfl, rfl, rfl, rfl⟩

/-- Vector names in each state: v1 to v3 mapped, v7 a queue with one entry, v8 an empty queue, v9 a full one, others unmapped. -/
def vst (cls : Nat) : State :=
  st cls 2 1 [(3, 0x100)] [(1, vec 0x0000000300000002), (2, vec 5), (3, vec 0), (7, .queue 2 [tab fun _ => 9]), (8, .queue 1 []), (9, .queue 1 [tab fun _ => 1])]

theorem witness_VectorNames :
    (let s := vst 3
     (∃ g, s.writeName s.cur.g 2 1 (tab fun _ => 4) = .ok g) ∧ (∃ old, s.cur.g.name 2 = .mapped old) ∧
     (∃ g, s.writeName s.cur.g 20 1 (tab fun _ => 4) = .ok g) ∧ s.cur.g.name 20 = .unmapped ∧
     (∃ g, s.writeName s.cur.g 7 1 (tab fun _ => 4) = .ok g) ∧ (∃ es, s.cur.g.name 7 = .queue 2 es) ∧
     s.cur.sl.kind = .execute ∧ s.cur.g.latchA = none ∧ s.cur.g.latchB = none ∧ (∃ v t, s.cur.g.name 7 = .queue 2 (v :: t)) ∧
     s.cur.g.name 8 = .queue 1 [] ∧ s.cur.g.full 20 = false ∧ ({ s.cur.g with base := 1 } : Group).full 20 = true) :=
  ⟨⟨_, rfl⟩, ⟨_, rfl⟩, ⟨_, rfl⟩, rfl, ⟨_, rfl⟩, ⟨_, rfl⟩, rfl, rfl, rfl, ⟨_, _, rfl⟩, rfl, rfl, rfl⟩

/-- Sources mapped, unmapped and a queue; destinations mapped, unmapped and a queue with room: the word can issue. -/
theorem ready_mapped : Claims.Ready (vst 3) 2 [⟨1, true⟩, ⟨20, false⟩] [tab fun _ => 0x0000000300000002, zeroLanes]
    ((vst 3).cur.g.setName 1 .unmapped) := ⟨rfl, rfl, fun _ => ⟨_, rfl⟩⟩
theorem ready_new : Claims.Ready (vst 3) 20 [⟨1, false⟩] [tab fun _ => 0x0000000300000002] (vst 3).cur.g := ⟨rfl, rfl, fun _ => ⟨_, rfl⟩⟩
theorem ready_queue : Claims.Ready (vst 3) 8 [⟨2, false⟩, ⟨3, false⟩] [tab fun _ => 5, tab fun _ => 0] (vst 3).cur.g :=
  ⟨rfl, rfl, fun _ => ⟨_, rfl⟩⟩

theorem witness_ValuResults :
    (∃ p, Claims.valu (vst 3) (.vmad 2 1 20 1 0 3) = some p ∧ p.rmw = true ∧ p.srcs = [⟨1, true⟩, ⟨20, false⟩] ∧
      ((vst 3).cur.g.name 2).isQueue = false ∧ ((vst 3).cur.g.name 7).isQueue = true) ∧
    (∃ p, Claims.valu (vst 3) (.vsub 8 2 3 0 0 0) = some p ∧ p.rmw = false ∧ p.srcs = [⟨2, false⟩, ⟨3, false⟩]) ∧
    (∃ p, Claims.valu (vst 3) (.vlid 20 2) = some p ∧ p.srcs = []) ∧ Claims.Ready (vst 3) 20 [] [] (vst 3).cur.g :=
  ⟨⟨_, rfl, rfl, rfl, rfl, rfl⟩, ⟨_, rfl, rfl, rfl⟩, ⟨_, rfl, rfl⟩, ⟨rfl, rfl, fun _ => ⟨_, rfl⟩⟩⟩

theorem test_vsub_wraps : ∃ t, exec (.vsubS 20 2 3 0 2) (vst 3) = .next t ∧ lane (t.cur.g.val 20) 31 = 0xFFFFFF00FFFFFF05 :=
  ⟨_, rfl, by decide +kernel⟩
theorem test_vmad_queue : ∃ t, exec (.vmad 7 1 2 0 0 3) (stTrap (vst 3) [3]) = .next t ∧ t.rd 505 = 3 ∧ t.rd 509 = 7 :=
  ⟨_, rfl, by decide +kernel, by decide +kernel⟩
theorem test_vnarrow : ∃ t, exec (.vnarrow 20 1 0 1) (vst 3) = .next t ∧ lane (t.cur.g.val 20) 0 = 0x00030002 := ⟨_, rfl, by decide +kernel⟩

theorem witness_VfResults :
    (let s := vst 4
     ∃ p vs g, Claims.vf (.ffmaF32 2 1 3 1 0 0 1) = some p ∧ s.cur.sl.kind = .execute ∧ (p.found s.cur.g).readSrcs p.srcs = .ok (vs, g) ∧
       Claims.takes (p.found s.cur.g) p.d.toNat ∧ (s.cur.g.name p.d.toNat).isQueue = false ∧ p.acc = true) ∧
    (let s := vst 4
     ∃ p vs g, Claims.vf (.faddF32 8 1 20 0 0 0 0) = some p ∧ (p.found s.cur.g).readSrcs p.srcs = .ok (vs, g) ∧ Claims.takes (p.found s.cur.g) p.d.toNat ∧
       ∀ q ∈ p.srcs, q.n ≠ p.d.toNat) ∧
    (let s := vst 4
     ∃ p, Claims.vf (.srcp 20 8 0 0) = some p ∧ (p.found s.cur.g).readSrcs p.srcs = .error 8 ∧ p.acc = false ∧
       ((p.found s.cur.g).drained p.srcs (some p.d.toNat)).full p.d.toNat = false ∧
       (({ s.cur.g with base := 1 } : Group).drained p.srcs (some p.d.toNat)).full p.d.toNat = true) ∧
    (∃ p, Claims.vf (.ffmaF32 7 1 3 1 0 0 1) = some p ∧ p.acc = true ∧ ((vst 4).cur.g.name p.d.toNat).isQueue = true) ∧
    ((vst 4).setSl fun x => { x with kind := .access }).cur.sl.kind ≠ .execute :=
  ⟨⟨_, _, _, rfl, rfl, rfl, .inl rfl, rfl, rfl⟩, ⟨_, _, _, rfl, rfl, ⟨by decide, by decide⟩, by decide⟩, ⟨_, rfl, rfl, rfl, rfl, rfl⟩,
    ⟨_, rfl, rfl, rfl⟩, by decide⟩

/-- fadd v20, v1^!, v2 holds v1 in latch A and its register with it; a VF word that names another VA lets both go; a write
of one lane of v1 before that leaves zero in the others. -/
theorem test_latch_frees : (let r := fun (x : Res Resident) (s : State) => match x with
      | .ok r => { s with cur := r }
      | _ => s
    let s := vst 4
    let s := r (s.vfword 20 ⟨1, true⟩ true (some (⟨2, false⟩, false)) false fun _ => (zeroLanes, 0)) s
    let t := r (s.vfword 20 ⟨2, false⟩ false (some (⟨3, false⟩, false)) false fun _ => (zeroLanes, 0)) s
    s.cur.g.latchA = some ⟨1, true⟩ ∧ (s.cur.g.name 1).isQueue = false ∧ s.cur.g.name 1 ≠ .unmapped ∧
    t.cur.g.latchA = none ∧ t.cur.g.name 1 = .unmapped ∧
    ∃ g, s.writeName s.cur.g 1 1 (tab fun _ => 7) = .ok g ∧ lane (g.val 1) 0 = 7 ∧ lane (g.val 1) 1 = 0 ∧ g.latchA = none) := by
  refine ⟨rfl, rfl, by decide, rfl, rfl, _, rfl, rfl, rfl, rfl⟩

/-- 1 + 1 = 2 in each FP32 element; a signalling NaN in a comparison raises NV and gives 0. -/
theorem test_fadd : fp32.round (sumNums [fp32.decode 0x3F800000, fp32.decode 0x3F800000]) = (0x40000000, 0) := rfl
theorem test_fadd_cancel : fp32.round (sumNums [fp32.decode 0x3F800000, fp32.decode 0xBF800000]) = (0, 0) := rfl
theorem test_fmul_overflow : fp32.round ((fp32.decode 0x7F7FFFFF).mul (fp32.decode 0x40000000)) = (0x7F800000, fOF ||| fNX) := rfl

theorem witness_RoundOfDecode : 0xFFFF < 2 ^ fp16.width ∧ (fp16.decode 0xFBFF).isNan = false ∧ (fp32.decode 0x00000001).isNan = false ∧
    (bf16.decode 0x7F80).isNan = false ∧ (fp64.decode 0x8000000000000000).isNan = false := ⟨by decide, rfl, rfl, rfl, rfl⟩

theorem witness_SliResults :
    (∃ q, Claims.sli sli32 (.sladd 8 2 3 0 0 2) = some (8, [⟨2, false⟩, ⟨3, false⟩], 2, q)) ∧
    (∃ q, Claims.sli sli16 (.slrcp 20 1 0 1) = some (20, [⟨1, false⟩], 1, q)) ∧
    (∃ f, Claims.sliCvt (.slcvtF64Sl 20 1 0) = some (20, ⟨1, false⟩, 32, 64, 1, f)) ∧
    (∃ q, Claims.sli sli32 (.slexp 20 1 0 3) = some (20, [⟨1, false⟩], 3, q)) ∧ sliWidthOk 3 = false ∧ sliWidthOk 0 = false :=
  ⟨⟨_, rfl⟩, ⟨_, rfl⟩, ⟨_, rfl⟩, ⟨_, rfl⟩, rfl, rfl⟩

theorem witness_PermutationResults :
    (∃ f, Claims.perm (.xshfl 8 2 3 0 0 3) = some (8, [⟨2, false⟩, ⟨3, false⟩], 64, f)) ∧
    (∃ f, Claims.perm (.xbcast 20 1 0xFF 0 0) = some (20, [⟨1, false⟩], 8, f)) ∧ 64 / Claims.W 0 ≤ 8 ∧ 64 / Claims.W 3 ≤ (1 : BitVec 8).toNat % 8 :=
  ⟨⟨_, rfl⟩, ⟨_, rfl⟩, by decide, by decide⟩

theorem test_xrot : ∃ t, exec (.xrot 20 1 1 0 2) (vst 6) = .next t ∧ lane (t.cur.g.val 20) 0 = 0x0000000200000003 := ⟨_, rfl, by decide +kernel⟩

/-- Every lane executing; no lane. -/
theorem witness_Reductions : Claims.Ready (vst 6) 20 [⟨1, false⟩] [tab fun _ => 0x0000000300000002] (vst 6).cur.g ∧ (vst 6).exec' ≠ 0 ∧
    inMask (vst 6).exec' 31 = true := ⟨⟨rfl, rfl, fun _ => ⟨_, rfl⟩⟩, by decide, rfl⟩

theorem test_xredadd : ∃ t, exec (.xredadd 20 1 0 2) (vst 6) = .next t ∧ lane (t.cur.g.val 20) 7 = 0x0000006000000040 := ⟨_, rfl, by decide +kernel⟩

/-- The last sub-element of a width and the one after it; a queue as a destination of xput, and names that take a result. -/
theorem witness_ScalarLaneMoves :
    (let s := vst 6
     Claims.getOf (.xgetW8 4 1 31 7 0) = some (4, 1, 31, 7, 0, 8) ∧ (7 : BitVec 3).toNat < 64 / 8 ∧ 64 / 64 ≤ (1 : BitVec 3).toNat ∧
     (∃ v g, s.sources [⟨1, true⟩] none = .ok ([v], g)) ∧ ¬Claims.trapRegister s 4 ∧ s.cur.sl.kind = .execute ∧
     Claims.putOf (.xputW64 20 3 31 0) = some (20, 3, 31, 0, 64) ∧ (s.cur.g.name 20).isQueue = false ∧ Claims.takes s.cur.g 20 ∧
     (s.cur.g.name 8).isQueue = true) :=
  ⟨rfl, by decide, by decide, ⟨_, _, rfl⟩, notReserved rfl, rfl, rfl, rfl,
    (show (vst 6).cur.g.held 2 < (vst 6).cur.g.base by decide), rfl⟩

theorem test_xballot : ∃ t, exec (.xballot 4 1 0) (vst 6) = .next t ∧ t.rd 4 = 0xFFFFFFFF := ⟨_, rfl, by decide +kernel⟩
theorem test_xget : ∃ t, exec (.xgetW32 4 1 31 1 1) (vst 6) = .next t ∧ t.rd 4 = 3 ∧ t.cur.g.name 1 = .unmapped :=
  ⟨_, rfl, by decide +kernel, by decide +kernel⟩

/-! ### Memory words -/

theorem passAll {l : List Checked} (h : (l.all fun c => c.res.toOption.isSome) = true) : ∀ c ∈ l, ∃ r, c.res = .ok r := by
  intro c hc
  have := List.all_eq_true.1 h c hc
  cases e : c.res with
  | ok r => exact ⟨r, rfl⟩
  | error x => rw [e] at this; exact absurd this (by simp [Except.toOption])

/-- Offsets of 8 times the lane; addresses 8 times the lane above 2 MiB; names as in `vst`; s10 is 2 MiB, s11 a scratchpad line of the
team, s12 is misaligned. -/
def mst (cls : Nat) : State :=
  st cls 2 1 [(3, 0x100), (10, 0x200000), (11, 0xF00400), (12, 0x200004)]
    [(1, .mapped (tab fun l => .ofNat 64 (8 * l))), (2, .mapped (tab fun l => .ofNat 64 (0x200000 + 8 * l))), (3, vec 5),
     (4, .mapped (tab fun l => .ofNat 64 (4 * l))), (7, .queue 2 [tab fun _ => 9])]

/-- Offsets and unit strides, of virtual and of scratchpad addresses; a flag at 62, the last count that has room. -/
theorem witness_VectorLoads :
    (let s := mst 8
     s.cur.sl.kind = .execute ∧ Claims.room s (s.fsFlag 0) ∧ (∃ g g', s.sources [⟨1, true⟩] (some 20) = .ok ([tab fun l => .ofNat 64 (8 * l)], g) ∧
       s.writeName g 20 0 zeroLanes = .ok g') ∧
     Claims.lanesPass s false .read (fun l => s.rd 10 + ((lane (tab fun l => .ofNat 64 (8 * l)) l).setWidth 32).signExtend 64) ∧
     Claims.lanesPass s true .read (fun l => s.rd 11 + ((lane (tab fun l => .ofNat 64 (4 * l)) l).setWidth 32).signExtend 64) ∧
     Claims.lanesPass s false .read (fun l => s.rd 10 + .ofNat 64 (256 * 255 + 8 * l)) ∧
     Claims.lanesPass s true .read (fun l => s.rd 11 + .ofNat 64 (128 * 7 + 4 * l))) ∧
    Claims.room ((mst 8).setSl fun x => { x with flags := [(3, 62)] }) (some 3) :=
  ⟨⟨rfl, noFlag _, ⟨_, _, rfl, rfl⟩, passAll (by decide +kernel), passAll (by decide +kernel), passAll (by decide +kernel),
    passAll (by decide +kernel)⟩, fun n h => by cases h; decide⟩

theorem witness_VectorStores :
    (let s := mst 8
     (∃ g, s.sources [⟨1, false⟩, ⟨3, false⟩] none = .ok ([tab fun l => .ofNat 64 (8 * l), tab fun _ => 5], g)) ∧
     (∃ g, s.sources [⟨7, false⟩] none = .ok ([tab fun _ => 9], g)) ∧
     Claims.lanesPass s false .write (fun l => s.rd 10 + ((lane (tab fun l => .ofNat 64 (8 * l)) l).setWidth 32).signExtend 64) ∧
     Claims.lanesPass s false .write (fun l => s.rd 10 + .ofNat 64 (256 * 0 + 8 * l)) ∧
     Claims.lanesPass s true .write (fun l => s.rd 11 + .ofNat 64 (128 * 0 + 4 * l))) :=
  ⟨⟨_, rfl⟩, ⟨_, rfl⟩, passAll (by decide +kernel), passAll (by decide +kernel), passAll (by decide +kernel)⟩

theorem witness_ScalarAccesses :
    (let s := mst 8
     ¬Claims.trapRegister s 4 ∧ (∃ r, s.checkVa (s.rd 10 + .ofNat 64 (8 * 63)) 8 .read = .ok r) ∧ (∃ r, s.checkVa (s.rd 12) 4 .read = .ok r) ∧
     (∃ r, s.checkVa (s.rd 10) 8 .write = .ok r) ∧ (s.rd 12 + .ofNat 64 (8 * 0)).toNat % 8 ≠ 0 ∧ Claims.room s (s.fsFlag 1)) ∧
    Claims.trapRegister (stTrap (mst 8) []) 500 :=
  ⟨⟨notReserved rfl, ⟨_, rfl⟩, ⟨_, rfl⟩, ⟨_, rfl⟩, by decide, noFlag _⟩, (trapRegister_iff ..).2 rfl⟩

/-- A misaligned address, and one with no translation: causes 0x09 and 0x07 with the address. -/
theorem test_misaligned : ∃ t, exec (.sld 4 12 0 0) (stTrap (mst 8) [9]) = .next t ∧ t.rd 505 = 9 ∧ t.rd 509 = 0x200004 :=
  ⟨_, rfl, by decide +kernel, by decide +kernel⟩
theorem test_no_translation : ∃ t, exec (.vldu 20 13 0 0) ((stTrap (mst 8) [7]).wr 13 0x40000000) = .next t ∧ t.rd 505 = 7 ∧
    t.rd 509 = 0x40000000 ∧ t.rd 508 = 0xFFFFFFFF := ⟨_, rfl, by decide +kernel, by decide +kernel, by decide +kernel⟩

/-- Data in range of the bound but for lane 31. -/
def bdat : Lanes := tab fun l => if l = 31 then 0x4000000000000000 else 0x3F800000

/-- A bound register at 0x3000 of action `act`: FP64 limits −1 and 1, format FP32, valid. -/
def bst (act : Nat) : State :=
  let m := memAt 0x3000 (dwordBytes 0xBFF0000000000000 ++ dwordBytes 0x3FF0000000000000 ++ dwordBytes (.ofNat 64 (0x80 + act)))
  { (mst 8).setG fun g => { g with v := kvInsert g.v 5 (.mapped bdat) } with
    ctxs := [(1, CtxState.fresh { rec0 with boundTab := 0x3000 })], views := all5 m }

/-- The bound read, for each action; values in range, and one lane out of it. -/
theorem witness_BoundedStore : ∀ act, act < 3 →
    let s := bst act
    s.cur.sl.kind = .execute ∧ Claims.room s (s.fsFlag 0) ∧ Claims.lanesPass s false .write (fun l => s.rd 10 + .ofNat 64 (8 * l)) ∧
      (∃ g, s.sources [⟨5, false⟩] none = .ok ([bdat], g)) ∧ inMask s.exec' 31 = true ∧
      (parseBound [0xBFF0000000000000, 0x3FF0000000000000, .ofNat 64 (0x80 + act), 0] true).has (subEl (lane bdat 31) 1 32) = false ∧
      ∃ ps, (s.markAll (pathsOf (s.checkLanes false .write fun l => s.rd 10 + .ofNat 64 (8 * l))) .write).readBound 0 true =
        .ok (parseBound [0xBFF0000000000000, 0x3FF0000000000000, .ofNat 64 (0x80 + act), 0] true, ps) ∧
      ∃ q, ((s.markAll (pathsOf (s.checkLanes false .write fun l => s.rd 10 + .ofNat 64 (8 * l))) .write).markAll ps .read).checkVa
        (s.boundVa 0 + 24) 8 .both = .ok q := by
  intro act h
  have : act = 0 ∨ act = 1 ∨ act = 2 := by omega
  rcases this with rfl | rfl | rfl <;> exact ⟨rfl, noFlag _, passAll (by decide +kernel), ⟨_, rfl⟩, rfl, by decide +kernel, _, rfl, _, rfl⟩

/-- 1 is in range of the bound, 2 is not and is clamped to 1, a NaN to −1. -/
theorem test_bound : (parseBound [0xBFF0000000000000, 0x3FF0000000000000, 0x81, 0] true).has 0x3F800000 = true ∧
    (parseBound [0xBFF0000000000000, 0x3FF0000000000000, 0x81, 0] true).clamp 0x40000000 = 0x3F800000 ∧
    (parseBound [0xBFF0000000000000, 0x3FF0000000000000, 0x81, 0] true).clamp 0x7FC00000 = 0xBF800000 ∧
    (parseBound [0xBFF0000000000000, 0x3FF0000000000000, 0x82, 0] true).act = .trap := by decide +kernel

def oq0 : OqEntry := ⟨2, 0x200000, none, false, true, true, 0, 0, tab fun _ => 3, false, false⟩

def oqSt (l : List OqEntry) : State := (mst 8).setG fun g => { g with oq := kvPut [] g.oq 3 l }

theorem witness_OperandPop :
    (let s := oqSt [oq0]
     s.cur.sl.kind = .execute ∧ Claims.room s (s.fsFlag 0) ∧ kvGet [] s.cur.g.oq 3 = [oq0] ∧ ∃ g, s.writeName s.cur.g 20 s.exec' oq0.data = .ok g) ∧
    kvGet [] (oqSt [{ oq0 with arrived := false }]).cur.g.oq 3 = [{ oq0 with arrived := false }] ∧
    (let e := { oq0 with cause := 0x07, addr := 0x40000000 }
     kvGet [] (oqSt [e]).cur.g.oq 3 = [e] ∧ e.arrived = true ∧ e.cause ≠ 0 ∧ e.again = false) ∧
    (let e := { oq0 with cause := 0x0A, again := true }
     let s := oqSt [e]
     ∃ x ps g, s.reload e = some (x, ps) ∧ x.cause = 0 ∧ (s.markAll ps .read).writeName (s.markAll ps .read).cur.g 20 s.exec' x.data = .ok g) ∧
    (let e := { oq0 with base := 0x40000000, cause := 0x07, again := true }
     ∃ x ps, (oqSt [e]).reload e = some (x, ps) ∧ x.cause ≠ 0) ∧
    (oqSt []).cur.g.full 20 = false ∧ ((oqSt []).setG fun g => { g with base := 0, grow := 0 }).cur.g.full 20 = true ∧
    kvGet [] (oqSt []).cur.g.oq 3 = [] ∧ (oqSt []).cur.g.accessRuns = false :=
  ⟨⟨rfl, noFlag _, rfl, _, rfl⟩, rfl, ⟨rfl, rfl, by decide, rfl⟩, ⟨_, _, _, rfl, rfl, rfl⟩, ⟨_, _, rfl, by decide⟩, rfl, rfl, rfl, rfl⟩

/-- acas of two 64-bit words, a fetching member of 32 bits, and a reduction onto nothing. -/
theorem witness_AtomicWords :
    (let s := mst 9
     ∃ vs g g' ag sy, Claims.at' (.acas 3 2 3 1 0 0) = some (.cas, true, 3, 2, 3, 1, 0, 0) ∧ s.cur.sl.kind = .execute ∧
       (3 : BitVec 7) ≠ 127 ∧ (s.cur.g.name 4).isQueue = false ∧ (s.cur.g.name 3).isQueue = false ∧
       s.sources [⟨2, false⟩, ⟨3, false⟩, ⟨4, false⟩] (some 3) = .ok (vs, g) ∧ s.writeName g 3 0 zeroLanes = .ok g' ∧
       (∀ k ∈ (lanesOf s.exec').map fun k => (⟨k, lane (tab fun l => .ofNat 64 (0x200000 + 8 * l)) k, s.checkVa
         (lane (tab fun l => .ofNat 64 (0x200000 + 8 * l)) k) 8 .both⟩ : Checked).hostOnly .cas true, ∃ r, k.res = .ok r) ∧
       s.scope 3 = .ok (ag, sy)) ∧
    (let s := mst 9
     ∃ vs g, Claims.at' (.fredadd 7 2 0 0 1 0) = some (.fadd, false, 7, 2, 0, 0, 1, 0) ∧
       s.sources [⟨2, true⟩, ⟨7, false⟩] none = .ok (vs, g) ∧
       ∀ k ∈ (lanesOf s.exec').map fun k => (⟨k, lane (tab fun l => .ofNat 64 (0x200000 + 8 * l)) k, s.checkVa
         (lane (tab fun l => .ofNat 64 (0x200000 + 8 * l)) k) 4 .both⟩ : Checked).hostOnly .fadd false, ∃ r, k.res = .ok r) :=
  ⟨⟨_, _, _, _, _, rfl, rfl, by decide, rfl, rfl, rfl, rfl, passAll (by decide +kernel), rfl⟩, _, _, rfl, rfl, passAll (by decide +kernel)⟩

theorem test_atomic_min : atomicNew .min 32 5 0xFFFFFFFF 0 = (0xFFFFFFFF, 0) ∧ atomicNew .cas 64 5 6 7 = (5, 0) ∧
    atomicNew .add 32 0xFFFFFFFF 2 0 = (1, 0) := ⟨rfl, rfl, rfl⟩

/-- A scope-table entry that is usable, one without V, one that leaves the core out. -/
theorem witness_FenceWords :
    (let m := memAt 0x30C0 ([1] ++ List.replicate 23 0 ++ [1] ++ List.replicate 7 0 ++ [1] ++ List.replicate 767 0 ++ [2] ++ List.replicate 23 0 ++ [1])
     let s := { mst 9 with ctxs := [(1, CtxState.fresh { rec0 with scopeTab := 0x3000 })], views := all5 m }
     (∃ ps, s.scopeRaw 6 = .ok (.ofNat 256 (2 ^ 192 + 1), ps)) ∧ s.scope 6 = .ok (1, false) ∧
     (∃ ps, s.scopeRaw 31 = .ok (.ofNat 256 (2 ^ 192 + 2), ps)) ∧ (∃ ps, s.scopeRaw 7 = .ok (1, ps)) ∧
     { s with views := all5 [] }.scopeRaw 8 = .error 0x07) ∧
    kindOk 2 = true ∧ kindOk 3 = false ∧ (mst 9).scope 5 = .ok (0x1F, false) ∧ Claims.room (mst 9) ((mst 9).fsFlag 0) :=
  ⟨⟨⟨_, rfl⟩, rfl, ⟨_, rfl⟩, ⟨_, rfl⟩, rfl⟩, rfl, rfl, rfl, noFlag _⟩

/-! ### Frames -/

/-- A frame of depth 3 with 4 slots in the core's area, owned by the group, which shows it; a memory frame of depth 1 in the pool. -/
def frmA : Frame :=
  { handle := mkHandle true 3 64, ctx := 1, tcb := 1, cluster := 1, core := 0, size := 4, slots := [(2, 7)], count := 1, owner := .group 1, link := some 3,
    saved := some [(1, mkHandle false 1 0x400040)], cont := none, buf := [], piece := none, grid := false, join := none, combine := none, born := none }
def frmB : Frame := { frmA with handle := mkHandle false 1 0x400040, size := 1024, slots := [], owner := .nobody, link := none, saved := none }

def fst' : State :=
  { (mst 8).setG fun g => { g with d := [(1, frmB.handle), (3, frmA.handle)] } with frames := [(2, frmA), (3, frmB)] }

/-- The outer frame named by a stale depth; a frame that holds a piece. -/
def fstPiece : State := { fst' with frames := [(2, { frmA with piece := some 1 }), (3, frmB)] }

theorem witness_FrameReads :
    (let s := fst'
     s.frameOperand 3 2 = .ok (2, frmA) ∧ s.frameOperand 1 1023 = .ok (3, frmB) ∧ ¬Claims.trapRegister s 4 ∧ s.buffered 2 2 = none ∧
     (∃ c, (s.slotAccess 2 frmA 2 .read).res = .ok c) ∧ (∃ c, (s.slotAccess 3 frmB 1023 .read).res = .ok c) ∧
     (∃ g, s.writeName s.cur.g 4 0 zeroLanes = .ok g) ∧ s.disp 2 = 0 ∧ s.disp 3 ≠ 0 ∧ s.frameOf (s.disp 3) = some (2, frmA) ∧
     handleDepth (s.disp 3) = 3) ∧
    { fst' with frames := [(3, frmB)] }.frameOf (fst'.disp 3) = none ∧
    (fst'.setG fun g => { g with d := [(2, frmA.handle)] }).frameOf frmA.handle = some (2, frmA) ∧
    { fst' with frames := [(2, { frmA with buf := [(2, 2, 9)] }), (3, frmB)] }.buffered 2 2 = some 9 :=
  ⟨⟨rfl, rfl, notReserved rfl, rfl, ⟨_, rfl⟩, ⟨_, rfl⟩, ⟨_, rfl⟩, rfl, by decide, rfl, rfl⟩, rfl, rfl, rfl⟩

theorem witness_FrameWrites :
    (let s := fst'
     s.frameOperand 3 1 = .ok (2, frmA) ∧ ¬(frmA.piece.isSome = true ∧ 1 ≤ 1) ∧ s.deepest = some 3 ∧
     (∃ c, (s.slotAccess 2 frmA 1 .write).res = .ok c) ∧ s.deepest ≠ some 1 ∧ s.current = some (2, frmA) ∧ handleSpf frmA.handle = true ∧
     s.buffered 2 1 = none ∧ ¬Claims.trapRegister s 4 ∧ handleSpf frmB.handle = false ∧ (∃ c, (s.slotAccess 3 frmB 1 .both).res = .ok c) ∧
     ∃ c, (s.slotAccess 3 frmB 1 .write).res = .ok c) ∧
    (let x := { frmA with buf := [(3, 1, 9)] }
     let s := { fst' with frames := [(2, x), (3, frmB)] }
     s.frameOperand 1 1 = .ok (3, frmB) ∧ s.buffered 3 1 = some 9 ∧ s.current = some (2, x) ∧ s.cur.sl.released s.cur.sl.nextSeq = true ∧
       s.publishable 2 = true ∧ ∃ c, ((s.publish 2).slotAccess 3 frmB 1 .both).res = .ok c) ∧
    fstPiece.frameOperand 3 1 = .ok (2, { frmA with piece := some 1 }) :=
  ⟨⟨rfl, by decide, rfl, ⟨_, rfl⟩, by decide, rfl, rfl, rfl, notReserved rfl, rfl, ⟨_, rfl⟩, _, rfl⟩, ⟨rfl, rfl, rfl, rfl, rfl, _, rfl⟩, rfl⟩

/-- famo on a slot of a frame area is one atomic operation of the slice with the register's value. -/
theorem test_famo : ∃ t, exec (.famo 3 2 3 0) fst' = .next t ∧ t.cur.sl.ops.map (fun o => o.acc.map fun a => (a.tgt, a.data)) =
    [[(.slot 2 2, 0x100)]] := ⟨_, rfl, rfl⟩

theorem witness_FrameWords :
    (let s := fst'.setG fun g => { g with d := [(1, frmB.handle)] }
     s.cur.sl.kind = .execute ∧ s.team? = some team0 ∧ s.rd 4 = 0 ∧ s.ownsFrom 3 = false ∧ fst'.ownsFrom 3 = true ∧ s.mayGiveUp (s.heldFrom 3) = true ∧
     (∃ h, s.placeFrame 0 0 1 3 1024 = some h) ∧ (∃ h, s.placeFrame 0 0 1 1 1 = some h) ∧ s.cur.g.holds = 0 ∧
     (∀ e ∈ s.frames, e.1 < s.nextId) ∧ (s.rd 12).toNat % 8 ≠ 0 ∧ (s.rd 10).toNat % 8 = 0 ∧
     (let u := s.wr 13 0x40000000
      (u.rd 13).toNat % 8 = 0 ∧ u.rd 13 ≠ 0 ∧ ∃ x, u.readInit (u.rd 13) 2 = .trap 0x07 u.exec' x) ∧
     s.rd 10 ≠ 0 ∧ ∃ vs ps, s.readInit (s.rd 10) 2 = .ok (vs, ps)) ∧
    (let s := outSt (mst 8) (.fence false true 1 false 0)
     s.mayGiveUp (s.heldFrom 3) = true ∧ s.readInit (s.rd 10) 1 = .stall) ∧
    (let s := { mst 8 with teams := [(1, { team0 with scrl := 1024 })], ctxs := [(1, CtxState.fresh { rec0 with frmPool := ⟨0x400000, 0⟩ })] }
     s.ownsFrom 3 = false ∧ s.placeFrame 0 0 1 3 1 = none) ∧
    (let s := fst'
     s.disp 3 ≠ 0 ∧ s.frameAt 3 = .ok (2, frmA) ∧ s.owns frmA = true ∧ s.ownsFrom 4 = false ∧ s.mayGiveUp (2 :: s.heldFrom 3) = true ∧
     s.disp 1 ≠ 0 ∧ s.frameAt 1 = .ok (3, frmB) ∧ s.owns frmB = false ∧ s.rd 10 ≠ 0 ∧ s.cur.sl.writesOut = false ∧
     (∀ k, k < frmA.size → s.slotBad 2 k = false) ∧ (let src := (List.range frmA.size).map fun k => s.slotAccess 2 frmA k .read
      (∀ c ∈ src ++ (List.range frmA.size).map fun k =>
        (⟨k, s.rd 10 + .ofNat 64 (8 * k), s.checkVa (s.rd 10 + .ofNat 64 (8 * k)) 8 .write⟩ : Checked), ∃ q, c.res = .ok q) ∧
       s.slotsReadable src = true) ∧
     s.frameOf (s.rd 0) = none ∧ s.mayGiveUp (s.heldFrom 0) = true ∧
     (s.wr 4 frmB.handle).frameOf ((s.wr 4 frmB.handle).rd 4) = some (3, frmB) ∧ handleDepth frmB.handle = 1) ∧
    (fst'.setG fun g => { g with d := [] }).ownsFrom 1 = false :=
  ⟨⟨rfl, rfl, rfl, rfl, rfl, rfl, ⟨_, rfl⟩, ⟨_, rfl⟩, rfl, by decide, by decide, by decide, ⟨by decide, by decide, _, rfl⟩, by decide, _, _, rfl⟩, ⟨rfl, rfl⟩, ⟨rfl, rfl⟩,
    ⟨by decide, rfl, rfl, rfl, rfl, by decide, rfl, rfl, by decide, rfl, by decide, ⟨passAll (by decide +kernel), rfl⟩, rfl, rfl, rfl, rfl⟩, rfl⟩

/-! ### Synchronisation -/

/-- The group on a team object: barrier 1, tile queue 1 and ring 1 as given; s1 is 32, s2 is 64, s3 all ones, s4 is 15. -/
def sst (f : Team → Team) : State :=
  { st 9 2 1 [(1, 32), (2, 64), (3, ones64), (4, 15), (5, 33)] [(1, vec 6)] with teams := [(1, f { team0 with groups := 2 })] }

/-- Barrier 1 of two groups: nobody there, the other group arrived, this group arrived, released for this group. -/
def bar0 : Barrier := { Barrier.start 2 with arr := 2, cnt := 1 }

theorem inTeam (f : Team → Team) : Claims.InTeam (sst f) 0 (f { team0 with groups := 2 }) := ⟨rfl, .inr (noFlag _), rfl⟩

theorem witness_Barriers :
    (let s := sst id
     (1 : BitVec 9).toNat < team0.nbars ∧ s.cur.sl.wait = none ∧ s.released (dieBit s.die) = true ∧ (s.cur.g.name 1).isQueue = false ∧
     ¬Claims.refused (Barrier.start 2) 0 4 ∧ (Claims.arrived (Barrier.start 2) 0 4 32 false).cnt ≠ 2 ∧ (s.rd 1).toNat = 32 ∧ 32 < (s.rd 5).toNat ∧
     (s.rd 0).toNat = 0 ∧ team0.nbars ≤ (2 : BitVec 9).toNat) ∧
    (let s := sst fun t => t.setBar 1 bar0
     (Claims.arrived bar0 0 4 32 false).cnt = (Claims.arrived bar0 0 4 32 false).exp ∧ ¬Claims.refused bar0 0 0 ∧
     ∃ g, (Claims.release s 1 (Claims.arrived bar0 0 4 32 false) 32).writeName s.cur.g 1 s.exec' (tab fun _ => 32) = .ok g) ∧
    Claims.refused { bar0 with arr := 1 } 0 0 ∧ Claims.refused { bar0 with op := 1 } 0 2 ∧
    ({ bar0 with rel := 1 } : Barrier).rel.getLsbD 0 = true ∧ ({ bar0 with arr := 1, sig := 1 } : Barrier).sig.getLsbD 0 = true ∧
    ((sst id).setWait none (.barrier 1 true)).cur.sl.wait = some (.barrier 1 true) ∧
    ((sst id).setWait none (.released 4)).cur.sl.wait = some (.released 4) ∧
    (outSt (sst id) .store).released (dieBit (outSt (sst id) .store).die) = false ∧
    (let s := { (sst id).setG fun g => { g with base := 0, grow := 96 } with others := [⟨{ grp0 with id := 2 }, Slice.idle .execute⟩] }
     s.writeName s.cur.g 20 s.exec' zeroLanes = .stall) :=
  ⟨⟨by decide, rfl, rfl, rfl, by simp [Claims.refused, Barrier.start], by decide, by decide, by decide, rfl, by decide⟩,
    ⟨rfl, by simp [Claims.refused, bar0, Barrier.start], _, rfl⟩, .inl rfl, .inr ⟨by decide, by decide, by decide⟩, rfl, rfl, rfl, rfl, rfl, rfl⟩

/-- A co-resident grid of two groups: this one arrives first, and last; another that waits on an earlier phase. -/
theorem witness_GridBarrier :
    (let s := { sst id with tcbs := [(1, { tcb0 with kernel := { kern0 with cores := true } })]
                            others := [⟨{ grp0 with id := 2, gidx := 1 }, Slice.idle .execute⟩] }
     ∃ tc c, alFind s.tcbs s.cur.g.tcb = some tc ∧ s.ctx? = some c ∧ (255 : BitVec 9).toNat < 256 ∧ tc.kernel.cores = true ∧
       s.cur.g.task = .team ∧ s.released 0x0F = true ∧ kvGet 0 c.garr 255 + 1 < s.gridAlive s.cur.g.tcb) ∧
    (let s := { sst id with tcbs := [(1, { tcb0 with kernel := { kern0 with cores := true } })] }
     s.gridAlive s.cur.g.tcb ≤ 0 + 1) ∧
    tcb0.kernel.cores = false ∧ 256 ≤ (256 : BitVec 9).toNat ∧ (outSt (sst id) .store).released 0x0F = false ∧
    (let s := (sst id).setWait none (.gbar 3 0)
     s.cur.sl.wait = some (.gbar 3 0) ∧ 0 < kvGet 0 ({ CtxState.fresh rec0 with gphase := [(3, 1)] } : CtxState).gphase 3 ∧
       ¬0 < kvGet 0 (CtxState.fresh rec0).gphase 3) :=
  ⟨⟨_, _, rfl, rfl, by decide, rfl, rfl, rfl, by decide⟩, by decide, rfl, by decide, rfl, rfl, by decide, by decide⟩

theorem test_bar_last : ∃ t, exec (.bar 1 1 4 0) (sst fun x => x.setBar 1 bar0) = .next t ∧ lane (t.cur.g.val 1) 9 = 32 ∧
    (t.team?.map fun x => (x.bar 1).phase) = some 1 := ⟨_, rfl, by decide +kernel, by decide +kernel⟩

/-- Queue 1 empty and with entries; an allowance to use and none; the largest value that fits, and one more. -/
theorem witness_TileQueueWords :
    (1 : BitVec 6).toNat < team0.ntqs ∧ team0.ntqs ≤ (2 : BitVec 6).toNat ∧ (sst id).rd 3 = ones64 ∧ (sst id).rd 1 ≠ ones64 ∧
    (TileQueue.empty.items.length + TileQueue.empty.allow + ((sst id).rd 2).toNat ≤ 64) ∧
    (let s := sst fun t => t.setTq 1 ⟨[5], 1, [], []⟩
     let x : TileQueue := ⟨[5], 1, [], []⟩
     0 < x.allow ∧ x.pushers.headD s.cur.g.id = s.cur.g.id ∧ x.items ≠ [] ∧ x.poppers.headD s.cur.g.id = s.cur.g.id ∧
       64 < x.items.length + x.allow + (s.rd 2).toNat ∧ x.poppers.length < x.items.length ∧ s.released (dieBit s.die) = true ∧
       ¬Claims.trapRegister s 1) ∧
    (let x : TileQueue := ⟨[5], 0, [1], []⟩
     ¬(0 < x.allow ∧ x.pushers.headD 1 = 1) ∧ x.items.length ≤ x.poppers.length) ∧
    (let x : TileQueue := ⟨[5], 1, [2], [2, 1]⟩
     ¬(0 < x.allow ∧ x.pushers.headD 1 = 1) ∧ ¬(x.items ≠ [] ∧ x.poppers.headD 1 = 1)) ∧
    (outSt (sst id) .store).released (dieBit (outSt (sst id) .store).die) = false ∧ Claims.trapRegister (stTrap (sst id) []) 496 :=
  ⟨by decide, by decide, rfl, by decide, by decide,
    ⟨by decide, rfl, by decide, rfl, by decide, by decide, rfl, notReserved rfl⟩, ⟨by decide, by decide⟩, ⟨by decide, by decide⟩, rfl,
    (trapRegister_iff ..).2 rfl⟩

theorem test_qpush : ∃ t, exec (.qpush 1 1 0) (sst fun t => t.setTq 1 ⟨[5], 1, [], []⟩) = .next t ∧
    (t.team?.map fun x => (x.tq 1).items) = some [5, 32] ∧ (t.team?.map fun x => (x.tq 1).allow) = some 0 :=
  ⟨_, rfl, by decide +kernel, by decide +kernel⟩

/-- A ring of two cells and one consumer: item 0 published good, item 1 claimed. -/
def ring0 : Ring :=
  { basel := 1, cln := 1, ncell := 2, ncons := 1, counter := 2, cursors := [], seqs := [(0, 0x8000000000000000)], claimed := [(1, 1)], storers := [] }

def rst (r : Ring) : State := { sst (fun t => { t with ringst := [(1, some r)] }) with cur := (sst id).cur }

theorem witness_RingWords :
    (let s := (rst ring0).wr 6 0xF00800
     kvGet none (((s.team?).map (·.ringst)).getD []) 1 = some ring0 ∧ ring0.claimed.find? (fun e => (BitVec.ofNat 64
       (15 * 2 ^ 20 + (ring0.basel + (if ring0.ncell = 0 then 0 else e.2 % ring0.ncell) * ring0.cln) * 2 ^ 10) : W64) == s.rd 6) = some (1, 1) ∧
     s.released (dieBit s.die) = true ∧ (s.rd 4).toNat = 15 ∧ (∃ k, k < ring0.ncons ∧ kvGet 0 ring0.cursors k + ring0.ncell < ring0.counter + 1) ∧
     (s.rd 0).toNat < ring0.ncons ∧ ring0.storers.contains 0 = false ∧ s.cur.sl.loadsDone s.cur.sl.nextSeq = true ∧
     ((kvGet 0 ring0.seqs 0).getLsbD 63 = true ∧ (kvGet 0 ring0.seqs 0).toNat % 2 ^ 48 = 0 ∧ (kvGet 0 ring0.seqs 0).getLsbD 62 = false)) ∧
    (let r := { ring0 with cursors := [(0, 1)] }
     ∀ k, k < r.ncons → r.counter + 1 ≤ kvGet 0 r.cursors k + r.ncell) ∧
    (let s := rst ring0
     (∀ e ∈ ring0.claimed, (BitVec.ofNat 64 (15 * 2 ^ 20 + (ring0.basel + (if ring0.ncell = 0 then 0 else e.2 % ring0.ncell) * ring0.cln) * 2 ^ 10) : W64)
       ≠ s.rd 6) ∧ ring0.ncons ≤ (s.rd 4).toNat ∧ ({ ring0 with storers := [0] } : Ring).storers.contains 0 = true ∧
     (kvGet 0 ({ ring0 with cursors := [(0, 1)] } : Ring).seqs 1).getLsbD 63 = false ∧ team0.rings.getLsbD 2 = false) ∧
    (outSt (rst ring0) .store).released (dieBit (outSt (rst ring0) .store).die) = false ∧
    (outSt (rst ring0) (.load .nowhere)).cur.sl.loadsDone 1 = false ∧
    (0xC380000000000000 : W64).getLsbD 62 = true ∧ (0xC380000000000000 : W64).toNat / 2 ^ 55 % 128 = 7 :=
  ⟨⟨rfl, rfl, rfl, rfl, ⟨0, by decide, by decide⟩, by decide, rfl, rfl, rfl, rfl, rfl⟩, by decide, ⟨by decide, by decide, rfl, rfl, rfl⟩, rfl, rfl,
    rfl, rfl⟩

theorem test_ringpub : ∃ t, exec (.ringpub 1 6 0) ((rst ring0).wr 6 0xF00800) = .next t ∧
    (t.ringOf 1 1).map (fun r => kvGet 0 r.seqs 1) = some 0x8000000000000001 := ⟨_, rfl, by decide +kernel⟩

/-- A coupled group seen from its execute slice, the access slice as given. -/
def cst (mb : Option W64) (x : Slice) : State :=
  (st 9 2 1 [(3, 77)]).setG fun g => { g with coupled := true, mb := kvPut none [] 5 mb, companion := some x }

theorem witness_Mailboxes :
    (st 9 2 1).cur.g.coupled = false ∧
    (let s := cst (some 9) (Slice.idle .access)
     s.cur.g.coupled = true ∧ s.cur.sl.ofKeep = false ∧ Claims.mayCount s (s.fsFlag 0) ∧ kvGet none s.cur.g.mb 5 = some 9 ∧ s.cur.stuck = false ∧ s.cur.g.writer 5 = none ∧
       ¬Claims.trapRegister s 510 ∧ (510 : BitVec 9).toNat < 511) ∧
    (cst (some 9) { Slice.idle .access with ended := true }).cur.stuck = true ∧
    (cst (some 9) { Slice.idle .access with wait := some (.mbWrite 5 4) }).cur.g.writer 5 = some 4 ∧
    kvGet none (cst none (Slice.idle .access)).cur.g.mb 5 = none ∧ (cst none (Slice.idle .access)).cur.g.reader 5 = none ∧
    (cst none { Slice.idle .access with wait := some (.mbRead 5 0) }).cur.g.reader 5 = some 0 ∧
    ((st 9 2 1).setSl fun x => { x with kind := .keep }).cur.sl.ofKeep = true ∧
    Claims.trapRegister (stTrap (st 9 2 1) []) 496 ∧ ¬Claims.trapRegister (stTrap (st 9 2 1) []) 495 :=
  ⟨rfl, ⟨rfl, rfl, .inr (noFlag _), rfl, rfl, rfl, notReserved rfl, by decide⟩, rfl, rfl, rfl, rfl, rfl, rfl, (trapRegister_iff ..).2 rfl,
    notReserved rfl⟩

/-! ### The matrix engine -/

/-- A group of the team that owns blocks 0 to 15 of core 0, with format `fmt` loaded; s10 is 2 MiB, s11 a tile, s8 is 8, s9 is 1024. -/
def xst (fmt : W64) : State :=
  { (st 10 2 1 [(8, 8), (9, 1024), (10, 0x200000), (11, 0xF00400), (12, 0xF00401), (13, 1), (14, 0x3F80000000000040), (15, 9)] [(5, vec 0x11)]).setG
      fun g => { g with mfmt := fmt } with
    cores := [(0, { Core.idle with owner := (List.range 16).map fun k => (k, some 1) })] }

theorem matrix (fmt : W64) : Claims.Matrix (xst fmt) := ⟨rfl, noFlag _⟩

theorem rowsOwned (fmt : W64) (row n : Nat) (h1 : n % 8 = 0) (h2 : n ≠ 0) (h3 : row + n ≤ 128) :
    Claims.Rows (xst fmt) row n := by
  refine ⟨h1, h2, by omega, fun b hb => ?_⟩
  have : row / 8 + b < 16 := by omega
  have hk : ∀ k, k < 16 → kvGet none ((xst fmt).core (xst fmt).coreNo).owner k = some (xst fmt).cur.g.team := by
    show ∀ k, k < 16 → kvGet none ((List.range 16).map fun k => (k, some 1)) k = some 1
    decide
  exact hk _ this

theorem plain (fmt : W64) (d k : Nat) (h : d + k ≤ 128) : Claims.plain (xst fmt) d k := by
  refine ⟨h, fun i _ => ?_⟩
  show VName.isQueue (kvGet .unmapped [(5, vec 0x11)] (d + i)) = false
  simp only [kvGet]
  split <;> rfl

/-- Rows within the store and past it, owned and not; a tile of the team and a misplaced one; no format, one, a redundant one. -/
theorem witness_MatrixMultiplies :
    (xst 0x11).team? = some team0 ∧ (xst 0x11).cur.sl.wait = none ∧ Claims.plain (xst 0x11) 96 32 ∧ mfmtOk 0x11 = true ∧ mfmtA 0x11 ≠ 5 ∧
    mfmtOk 0x8011 = true ∧ mfmtRed 0x8011 = true ∧ Claims.Rows (xst 0x11) (8 * 0) 8 ∧ Claims.Rows (xst 0x11) (8 * 8) 64 ∧
    1024 < 8 * 127 + 16 ∧ 8 * 127 + 8 ≤ 1024 ∧ ((xst 0x11).rd 12).toNat % 1024 ≠ 0 ∧ ((xst 0x11).rd 11).toNat % 1024 = 0 ∧
    ((xst 0x11).rd 11).toNat / 2 ^ 20 = 15 ∧ ((xst 0x11).rd 11).toNat / 1024 % 1024 + 4 ≤ team0.scrl ∧ (xst 0).cur.g.mfmt = 0 ∧
    kvGet none ((xst 0x11).core 0).owner (15 + 1) ≠ some 1 ∧ kvGet none ((xst 0x11).core 0).owner 15 = some 1 :=
  ⟨rfl, rfl, plain _ _ _ (by decide), by decide, by decide, by decide, by decide, rowsOwned _ _ _ rfl (by decide) (by decide),
    rowsOwned _ _ _ rfl (by decide) (by decide), by decide, by decide, by decide, by decide, by decide, by decide, rfl, by decide, rfl⟩

theorem witness_MatrixWords :
    ((xst 0x11).rd 8).toNat = 8 ∧ Claims.Rows (xst 0x11) 0 8 ∧ Claims.Rows (xst 0x11) 8 8 ∧ 0 + 8 ≤ 8 ∧ ((xst 0x11).rd 15).toNat % 8 ≠ 0 ∧
    ((xst 0x11).rd 0).toNat = 0 ∧ 1024 < 8 * 1 + ((xst 0x11).rd 9).toNat ∧ Claims.Rows (xst 0x11) 0 32 ∧ ((xst 0x11).rd 13).toNat = 1 ∧
    (∃ g, (xst 0x11).takeNames 5 1 (xst 0x11).cur.g = .ok g) ∧ Claims.plain (xst 0x11) 112 16 ∧
    (∃ g, (xst 0x11).takeNames 112 16 (xst 0x11).cur.g = .ok g) ∧
    (xst 0x11).rd 14 = .ofNat 64 ((0x3F800000 : W32).toNat * 2 ^ 32 + 0 * 2 ^ 12 + 64) ∧ Claims.Rows (xst 0x11) 64 8 ∧
    Claims.plain (xst 0x11) 120 8 ∧ mfmtInt 0x11 = false ∧ ∃ g, (xst 0x11).takeNames 120 8 (xst 0x11).cur.g = .ok g :=
  ⟨rfl, rowsOwned _ _ _ rfl (by decide) (by decide), rowsOwned _ _ _ rfl (by decide) (by decide), by decide, by decide, rfl, by decide,
    rowsOwned _ _ _ rfl (by decide) (by decide), rfl, ⟨_, rfl⟩, plain _ _ _ (by decide), ⟨_, rfl⟩, rfl,
    rowsOwned _ _ _ rfl (by decide) (by decide), plain _ _ _ (by decide), by decide, _, rfl⟩

/-- A parameter block of all zeros but a stride of 512 bytes. -/
def epi0 : List Byte := List.replicate 32 0 ++ leBytes 8 512 ++ List.replicate 88 0

theorem witness_MatrixState :
    (let s := xst 0x11
     (∃ x g, s.sources [⟨5, false⟩] none = .ok ([x], g) ∧ ∀ l ∈ lanesOf s.exec', lane x l = 0x11) ∧ s.exec' ≠ 0 ∧ mfmtOk 0 = false ∧
     (s.rd 10).toNat % 128 = 0 ∧ (∃ vs ps, s.readVas (s.rd 10) 16 = .ok (vs, ps) ∧ epiOk (vs.map dwordBytes).flatten = true) ∧
     ¬Claims.trapRegister s 4 ∧ kvGet none (s.core s.coreNo).owner 1 = some s.cur.g.team ∧ 8 * 127 + (s.rd 8).toNat ≤ 1024 ∧
     (∀ k ∈ [1], s.blockUsed s.coreNo k = false) ∧ s.cur.g.epi = none) ∧
    (let s := { xst 0x11 with cores := [(0, { Core.idle with owner := [(1, some 1), (2, some 9)], inUse := [(1, true)] })] }
     s.blockUsed s.coreNo 1 = true ∧ kvGet none (s.core s.coreNo).owner 2 ≠ none ∧ kvGet none (s.core s.coreNo).owner 2 ≠ some s.cur.g.team) ∧
    (let s := (xst 0x11).setG fun g => { g with epi := some epi0 }
     (∀ o ∈ s.cur.sl.ops, o.id ≠ s.nextId) ∧ s.cur.g.epi = some epi0 ∧ (s.core s.coreNo).busyRows 0 8 = false ∧ epiTben epi0 = false ∧
     epiBias epi0 = 0 ∧ epiGate epi0 = false ∧ epiNowr epi0 = false ∧
     ((List.range 8).all fun j => (s.rd 10 + .ofNat 64 j * epiStride epi0).toNat % 8 == 0 &&
       (s.rowTargets epi0 (s.rd 10 + .ofNat 64 j * epiStride epi0)).all fun e => e.toOption.isSome) = true) :=
  ⟨⟨⟨_, _, rfl, by decide⟩, by decide, by decide, by decide, ⟨_, _, rfl, by decide +kernel⟩, notReserved rfl, rfl, by decide, by decide, rfl⟩,
    ⟨rfl, by decide, by decide⟩, ⟨(fun _ h => nomatch h), rfl, rfl, by decide, by decide, by decide, by decide, by decide +kernel⟩⟩

/-- A parameter block with scale 1 and a stride of 512 bytes. -/
def epiP (ctrl bias : Nat) : List Byte :=
  List.replicate 8 0 ++ leBytes 8 ctrl ++ [0, 0, 0, 0, 0, 0, 0x80, 0x3F] ++ leBytes 8 bias ++ leBytes 8 512 ++ List.replicate 88 0

/-- Those parameters, the bound of action `act` at entry 0, and 2 in every column of row 3. -/
def dst (act ctrl bias : Nat) : State :=
  { (xst 0x11).setG fun g => { g with epi := some (epiP ctrl bias) } with
    ctxs := (bst act).ctxs, views := (bst act).views
    cores := [(0, { Core.idle with owner := [(0, some 1)], rows := [(3, { Row.cleared with c := List.replicate 128 0x40000000 })] })] }

/-- A bound of each action with row 3 outside it and no row before it; a bias in each format; rows that go nowhere, and rows that go to
the scratchpad; no block. -/
theorem witness_MatrixDrain : (xst 0x11).cur.g.epi = none ∧
    (∀ act, act < 3 → let s := dst act 0x800 0
      (∀ o ∈ s.cur.sl.ops, o.id ≠ s.nextId) ∧ epiOk (epiP 0x800 0) = true ∧ epiTben (epiP 0x800 0) = true ∧ epiBias (epiP 0x800 0) = 0 ∧
      (s.core s.coreNo).busyRows 0 8 = false ∧
      let b := parseBound [0xBFF0000000000000, 0x3FF0000000000000, .ofNat 64 (0x80 + act), 0] false
      (∃ ps, s.readBound 0 false = .ok (b, ps) ∧ ∃ q, (s.markAll ps .read).checkVa (s.boundVa 0 + 24) 8 .both = .ok q) ∧ ((s.epiRows (epiP 0x800 0) 0 8 none)[3]?.any fun r => r.1.any fun v => !b.has v) = true ∧
      (((s.epiRows (epiP 0x800 0) 0 8 none).take 3).all fun r => r.1.all b.has) = true) ∧
    (∀ ctrl, ctrl = 0 ∨ ctrl = 0x40 → let s := dst 0 ctrl 0x3000
      epiBias (epiP ctrl 0x3000) ≠ 0 ∧ (s.readBias (epiP ctrl 0x3000)).toOption.isSome = true) ∧
    epiNowr (epiP 0x40000 0) = true ∧ epiOk (epiP 0x40000 0) = true ∧
    (let s := dst 0 0x100 0
     ((List.range 8).all fun j => (s.rd 11 + .ofNat 64 j * epiStride (epiP 0x100 0)).toNat % 8 == 0 &&
       (s.rowTargets (epiP 0x100 0) (s.rd 11 + .ofNat 64 j * epiStride (epiP 0x100 0))).all fun e => e.toOption.isSome) = true) := by
  refine ⟨rfl, fun act h => ?_, fun c h => ?_, rfl, by decide +kernel, by decide +kernel⟩
  · have : act = 0 ∨ act = 1 ∨ act = 2 := by omega
    rcases this with rfl | rfl | rfl <;>
      exact ⟨(fun _ h => nomatch h), by decide +kernel, rfl, rfl, rfl, ⟨_, rfl, _, rfl⟩, by decide +kernel, by decide +kernel⟩
  · rcases h with rfl | rfl <;> exact ⟨by decide, by decide +kernel⟩

/-- A word of each kind at the head of the engine; a redundant mma whose group has a handler of cause 0x0E. -/
def job (op : MatOp) (fmt : W64) : MatJob := { MatJob.start op 0 8 fmt with id := 3, grp := 1, team := 1, d := 5, a := [tab fun _ => 1] }

def jst (op : MatOp) (fmt : W64) : State :=
  let s := { xst fmt with cores := [(0, { Core.idle with mjobs := [job op fmt, { job op fmt with id := 4 }], owner := [(0, some 1)] })] }
  s.setSl fun x => { x with ops := [⟨3, 0, .matrix 5 1, some 2, 1, 0x1004, [], Stamp.zero, 0⟩], flags := [(2, 1)] }

theorem witness_MatrixCompletion : (∀ op ∈ ([.mma true, .mma false, .mzero, .mdrainv, .msoft, .mside true, .mside false, .mrelf, .mred] : List MatOp),
      ∃ j, j.op = op ∧ Claims.mayFinish (jst op 0x11) 0 j ∧ ∃ o, (jst op 0x11).cur.sl.op? j.id = some o) ∧
    (∃ x, (jst (.mside false) 0x11).cur.g.name 5 = .mapped x) ∧
    (let j := job (.mma true) 0x11
     alFind (jst j.op 0x11).teams j.team = some team0 ∧ readBytes team0.mem j.tile j.b.length = j.b ∧ ∀ w ∈ j.mid, w.2 = j.b.getD w.1 0) ∧
    (let s := stTrap (jst (.mma true) 0x8011) [0x0E]
     ∃ j, Claims.mayFinish s 0 j ∧ mfmtRed j.fmt = true ∧ s.cur.g.id = j.grp ∧ s.cur.sl.handler = none ∧ (∃ c, s.cur.sl.clause = some c) ∧
       s.handlerFor 0x0E = some 0x9000) := by
  refine ⟨?_, ⟨_, rfl⟩, ⟨rfl, rfl, fun _ h => nomatch h⟩, ⟨job (.mma true) 0x8011, ⟨rfl, by decide, fun _ => rfl⟩, by decide, rfl, rfl, ⟨_, rfl⟩,
    by decide +kernel⟩⟩
  intro op h
  simp only [List.mem_cons, List.not_mem_nil, or_false] at h
  rcases h with rfl | rfl | rfl | rfl | rfl | rfl | rfl | rfl | rfl <;>
    exact ⟨job _ _, rfl, ⟨rfl, by decide, fun _ => rfl⟩, _, rfl⟩

theorem test_mma_issues : ∃ t, exec (.mmaz 5 11 0 0 0) (xst 0x11) = .next t ∧ (t.core 0).mjobs.length = 1 ∧
    t.cur.sl.ops.length = 1 := ⟨_, rfl, rfl, rfl⟩

/-! ### Engines, streams -/

/-- A descriptor: source, destination, level counts. -/
def desc (src dst : Nat) (n0 n1 n2 n3 : Nat) : List Byte :=
  leBytes 8 src ++ leBytes 8 dst ++ List.replicate 32 0 ++ leBytes 4 n0 ++ leBytes 4 n1 ++ leBytes 4 n2 ++ leBytes 4 n3 ++ List.replicate 64 0

/-- A descriptor at 0x2000 and control words in registers, a token in s20. -/
def est (d : List Byte) (f : Team → Team := id) : State :=
  let m := memAt 0x2000 d
  { st 11 2 1 [(1, 0x2000), (2, 0x2004), (3, 0x4080000), (4, 0x1000004), (5, 0x0), (6, 0x800), (7, 8), (8, 0x10007), (9, 7)] with
    teams := [(1, f team0)], views := all5 m }

/-- cpy to the line space, its control word legal; one with a reserved bit; queue 0 with 31 operations and full. -/
theorem witness_EngineWords :
    (let s := est (desc 0x3000 0xF00400 4 1 1 1)
     ∃ ok total, Claims.engine s (.cpy 20 1 3) = some (20, 1, 3, 1, 0, ok, total) ∧ ok (s.rd 3) = true ∧ Claims.Token s 20 ∧
       (s.rd 1).toNat % 128 = 0 ∧ (∃ vs ps, s.readVas (s.rd 1) 16 = .ok (vs, ps)) ∧ (s.rd 3).getLsbD 26 = true ∧ (s.rd 3).getLsbD 27 = false ∧
       (∃ r, s.spadTarget s.cur.g.team 0xF00400 4 = .ok r) ∧ ((s.core s.coreNo).queue 0).length < 32 ∧ cpyOk (s.rd 4) = false ∧
       (s.rd 2).toNat % 128 ≠ 0) ∧
    (let o := (est []).engOp 1
     32 ≤ ({ est [] with cores := [(0, { Core.idle with eq := [(0, List.replicate 32 o)] })] }.core 0 |>.queue 0).length) :=
  ⟨⟨_, _, rfl, by decide, ⟨noFlag _, notReserved rfl, fun _ => rfl⟩, by decide, ⟨_, _, rfl⟩, by decide, by decide, ⟨_, rfl⟩, by decide,
    by decide, by decide⟩, by decide⟩

/-- A clean line, a filling one and none for a VA; the last line of the team and one past it. -/
theorem witness_LineWords :
    (let tm := team0.tag 3 fun _ => mkTag 2 0 0x800 false
     2 ≤ tagState (tm.tagAt 3) ∧ tagVa (tm.tagAt 3) = 0x800 ∧ 3 < tm.scrl ∧ ∀ k, k < 3 → ¬(2 ≤ tagState (tm.tagAt k) ∧ tagVa (tm.tagAt k) = 0x800)) ∧
    (let tm := team0.tag 7 fun _ => mkTag 1 0 0x800 false
     tagState (tm.tagAt 7) = 1 ∧ tagVa (tm.tagAt 7) = 0x800 ∧ 7 < tm.scrl ∧ ∀ k, k < tm.scrl → ¬(2 ≤ tagState (tm.tagAt k) ∧ tagVa (tm.tagAt k) = 0x800)) ∧
    team0.scrl ≤ 1024 ∧ (∀ k, k < team0.scrl → ¬(2 ≤ tagState (team0.tagAt k) ∧ tagVa (team0.tagAt k) = 0x800) ∧
      ¬(tagState (team0.tagAt k) = 1 ∧ tagVa (team0.tagAt k) = 0x800)) ∧
    (let s := est []
     (s.rd 8).toNat / 1024 % 64 = 0 ∧ (s.rd 8).toNat < 2 ^ 17 ∧ (s.rd 8).toNat % 1024 < team0.scrl ∧ (s.rd 6).toNat % 2048 = 0 ∧
     (s.rd 9).toNat < 2 ^ 16 ∧ (s.rd 9).toNat / 1024 = 0 ∧ team0.scrl ≤ (s.rd 7).toNat ∧ s.team? = some team0) :=
  ⟨⟨by decide, by decide, by decide, by decide⟩, ⟨by decide, by decide, by decide, by decide⟩, by decide, by decide, by decide, by decide,
    by decide, by decide, by decide, by decide, by decide, rfl⟩

/-- A ring of two cells of one line from line 1, three consumers; the control word that describes it. -/
def ringW : W64 := .ofNat 64 (1 * 2 ^ 38 + 1 * 2 ^ 33 + 2 * 2 ^ 24 + 1 * 2 ^ 20 + 3 * 2 ^ 16)

def strm : Streamer :=
  { id := 2, stack := 3, slot := some 63, storer := false, team := 1, ring := 1, cons := 0, desc := desc 0x3000 0x4000 4 2 1 1, dva := 0x2000,
    next := 0, item := none, ctx := 1, tcb := 1, op := 4, got := [], out := none, sent := false, writes := [], remote := [], cause := 0, fva := none }

/-- A ring that is not bound, and one that is; a tile and none; a loader between tiles and within one, and none; an item to
store and none; an operand queue with room and a full one. -/
theorem witness_StreamWords :
    (∀ n1, n1 = 0 ∨ n1 = 1 → let s := (est (desc 0x3000 0 2048 n1 0 0)).wr 10 ringW
     ∃ vs ps, ringsubOk (s.rd 10) = true ∧ (s.rd 1).toNat % 128 = 0 ∧ s.readVas (s.rd 1) 16 = .ok (vs, ps) ∧
       cField ringW 38 10 + cField ringW 24 9 * cField ringW 33 5 ≤ team0.scrl ∧ team0.rings.getLsbD 1 = true ∧ kvGet none team0.ringst 1 = none ∧
       dN (vs.map dwordBytes).flatten 0 = 2048 ∧ dN (vs.map dwordBytes).flatten 1 = n1) ∧
    (ring0.basel = 1 ∧ ring0.cln = 1 ∧ ring0.ncell = 2 ∧ ({ ring0 with ncons := 3 } : Ring).ncons = cField ringW 16 4) ∧
    (let s := { est [] with streams := [strm] }.wr 10 (.ofNat 64 (3 * 256 + 63))
     Claims.Token s 20 ∧ (s.rd 10).toNat < 2 ^ 12 ∧ (s.rd 10).toNat / 64 % 4 = 0 ∧ s.streamAt false 3 63 = some strm ∧ strm.team = s.cur.g.team ∧
       strm.item = none ∧ ({ strm with item := some 0 } : Streamer).item ≠ none ∧ s.streamAt false 3 62 = none) ∧
    (∀ n1, n1 = 0 ∨ n1 = 2 → let s := (est (desc 0 0x4000 4 n1 0 0) fun t => { t with ringst := [(1, some ring0)] }).wr 10 0x100000
     ∃ vs ps, cField (s.rd 10) 24 40 = 0 ∧ cField (s.rd 10) 0 16 = 0 ∧ s.readVas (s.rd 1) 16 = .ok (vs, ps) ∧ cField (s.rd 10) 20 4 = 1 ∧
       (s.team?.bind fun k => kvGet none k.ringst 1) = some ring0 ∧ cField (s.rd 10) 16 4 < ring0.ncons ∧ ring0.storers.contains 0 = false ∧
       dN (vs.map dwordBytes).flatten 1 = n1 ∧ ∀ x ∈ s.streams, x.id ≠ s.nextId + 1) ∧
    (let c : W64 := 0x0000000000000107
     cField c 3 5 = 0 ∧ cField c 56 8 = 0 ∧ cField (7 : W64) 8 48 = 0 ∧ (kvGet [] (est []).cur.g.oq (cField c 0 2)).length < 16 ∧
       16 ≤ (kvGet [] (oqSt (List.replicate 16 oq0)).cur.g.oq (cField c 0 2)).length) := by
  refine ⟨?_, ⟨rfl, rfl, rfl, by decide⟩, ⟨⟨noFlag _, notReserved rfl, fun _ => rfl⟩, by decide, by decide, rfl, rfl, rfl, by decide, rfl⟩, ?_,
    by decide, by decide, by decide, by decide, by decide⟩
  · rintro n (rfl | rfl) <;> exact ⟨_, _, by decide, by decide, rfl, by decide, by decide, rfl, by decide +kernel, by decide +kernel⟩
  · rintro n (rfl | rfl) <;> exact ⟨_, _, by decide, by decide, rfl, by decide, rfl, by decide, rfl, by decide +kernel, fun _ h => nomatch h⟩

/-- Memory with `bs` at `a`, and the second GiB mapped onto DRAM of package 1. -/
def memFar (a : Nat) (bs : List Byte) : List Host.Cell := writeBytes (memAt a bs) 0x200002008 [0x9F, 1, 0, 0, 0, 2]

/-- The same descriptor with an auxiliary address. -/
def descA (src dst aux n0 n1 n2 n3 : Nat) : List Byte :=
  leBytes 8 src ++ leBytes 8 dst ++ leBytes 8 aux ++ List.replicate 24 0 ++ leBytes 4 n0 ++ leBytes 4 n1 ++ leBytes 4 n2 ++ leBytes 4 n3 ++ List.replicate 64 0

/-- An engine operation at the head of queue 0, started; element 1 is the one that waited for data. -/
def eop (code : Nat) (d : List Byte) (c addr : W64) : EngOp :=
  { (est []).engOp code with id := 4, desc := d, ctrl := c, addr := addr, total := 4, started := true, asks := some 1 }

/-- That operation on core 0, its word outstanding in s20; at 0x2000 an op word of code `k`, the second GiB in package 1. -/
def eng (o : EngOp) (k : Nat := 1) : State :=
  { est [] with
    views := all5 (memFar 0x2000 (leBytes 8 (k * 2 ^ 56)))
    cores := [(0, { Core.idle with eq := [(0, [o])] })]
    cur := ⟨grp0, { Slice.idle .execute with nextSeq := 1, ops := [⟨4, 0, .engine 0 20, none, 1, 0x1004, [], Stamp.zero, 0⟩], pending := [20] }⟩ }

/-- The bank of `pa` refreshes. -/
def refreshing (s : State) (pa : Nat) : State := s.modCup (stackOf pa) fun c => { c with busy := [bankOf pa] }

/-- An operation not started: nothing before it; one it waits for; a fence of its queue; a pre-empted team; with a snapshot
of a running launch and of none; with a legal op word, an illegal one, one with no translation, one in another package; the
write-back of a line. -/
theorem witness_EngineStart :
    (let o := { eop 1 [] 0 0 with started := false }
     let s := eng o
     (s.core 0).queue 0 = [o] ∧ s.asking o.id = false ∧ o.started = false ∧ o.ctrl.getLsbD 25 = false ∧
       ({ s with halted := [0] } : State).halted.contains (0 / 48) = true ∧
       ({ s with tcbs := [(1, { tcb0 with rolling := true })] } : State).rollsBack o.tcb = true ∧
       ¬(o.afts.any s.opOut = true ∨ s.fenced 0 o = true ∨ s.halted.contains (0 / 48) = true ∨ s.rollsBack o.tcb = true ∨ (s.paused o.team = true ∧ s.fenceAsks 0 0 = false)) ∧
       ({ o with afts := [4] } : EngOp).afts.any s.opOut = true ∧
       ({ s with teams := [(1, { team0 with stop := 1 })] } : State).paused o.team = true ∧ s.fenceAsks 0 0 = false ∧
       (s.setSl fun x => { x with ops := [⟨3, 0, .fence true false 1 false 1, none, 1, 0x1004, [], Stamp.zero, 0⟩,
         ⟨4, 1, .engine 0 20, none, 1, 0x1004, [], Stamp.zero, 0⟩] }).fenced 0 o = true) ∧
    (let o := eop 1 (descA 0 0 1 4 1 1 1) 0x2000000 0
     o.ctrl.getLsbD 25 = true ∧ alFind (eng o).tcbs (dAux o.desc).toNat = some tcb0 ∧ tcb0.st = .running ∧ tcb0.unprot = false ∧ tcb0.ctx = o.ctx ∧
       alFind (eng o).tcbs (dAux (descA 0 0 2 4 1 1 1)).toNat = none) ∧
    (∀ k, k = 8 ∨ k = 9 → let o := eop 4 (descA 0 0 0x2000 4 1 1 1) 0x4000 0
     ∃ cs ts wk, (eng o k).chainCodes o (cField o.ctrl 14 4) = .ok (cs, ts) wk ∧ cs.all chainCodeOk = decide (k = 8) ∧
       (eng o k).reachable 0 wk = true ∧ (refreshing (eng o k) 0x2000).reachable 0 wk = false) ∧
    (let o := eop 4 (descA 0 0 0x80000000 4 1 1 1) 0x4000 0
     ∃ wk hs, (eng o).chainCodes o (cField o.ctrl 14 4) = .fail 0x07 0x80000000 wk hs ∧ (eng o).reachable 0 wk = true) ∧
    (let o := eop 4 (descA 0 0 0x40000000 4 1 1 1) 0x4000 0
     (eng o).chainCodes o (cField o.ctrl 14 4) = .ask 0x20000000000) ∧
    (eop 10 [] 0 0).code = 10 ∧ alFind (eng (eop 10 [] 0 0)).teams (eop 10 [] 0 0).team = some team0 := by
  refine ⟨⟨rfl, rfl, rfl, rfl, rfl, rfl, by decide, rfl, rfl, rfl, rfl⟩, ⟨by decide, rfl, rfl, rfl, rfl, rfl⟩, ?_, ⟨_, _, rfl, rfl⟩, rfl, rfl, rfl⟩
  rintro k (rfl | rfl) <;> exact ⟨_, _, _, rfl, by decide +kernel, by decide +kernel, by decide +kernel⟩

/-- An element into the line space, with bytes of others on their way, into memory here, into another package, one that
writes nothing, one with no translation, and one read from another package; an operation whose elements are performed. -/
theorem witness_EngineElement :
    (let o := { eop 1 (desc 0x3000 0xF00400 4 1 1 1) 0x4080000 0 with out := [(1, 2048, 7), (2, 0, 9)] }
     let s := eng o
     (s.core 0).queue 0 = [o] ∧ s.asking o.id = false ∧ o.started = true ∧ o.next < Claims.toDo o ∧ s.pickEl o = 1 ∧
       (∃ e wk k p size v va, s.engEl o 1 = .ok e wk ∧ e.puts = [⟨.spad k p, size, v, va⟩] ∧ s.reachable 0 wk = true ∧
         (refreshing s 0x3000).reachable 0 wk = false) ∧
       Claims.toDo { o with next := 4 } ≤ ({ o with next := 4 } : EngOp).next) ∧
    (let o := eop 1 (desc 0x3000 0x200000 4 1 1 1) 0x80000 0
     ∃ e wk pa hc size v va, (eng o).engEl o 1 = .ok e wk ∧ e.puts = [⟨.mem pa hc, size, v, va⟩] ∧ homeOf pa = some 2 ∧
       (eng o).reachable 0 wk = true) ∧
    (let o := eop 1 (desc 0x3000 0x40000000 4 1 1 1) 0x80000 0
     ∃ e wk pa hc size v va, (eng o).engEl o 1 = .ok e wk ∧ e.puts = [⟨.mem pa hc, size, v, va⟩] ∧ homeOf pa = none ∧
       (eng o).reachable 0 wk = true) ∧
    (let o := eop 3 (descA 0x3000 0x4000 0x5000 4 1 1 1) 0 0
     ∃ e wk, (eng o).engEl o 1 = .ok e wk ∧ e.puts = [] ∧ (eng o).reachable 0 wk = true) ∧
    (let o := eop 1 (desc 0x80000000 0x4000 4 1 1 1) 0x80000 0
     ∃ c x wk hs, (eng o).engEl o 1 = .fail c x wk hs ∧ (eng o).reachable 0 wk = true) ∧
    (let o := eop 1 (desc 0x3000 0x80000000 4 1 1 1) 0x80000 0
     ∃ c x wk hs, (eng o).engEl o 1 = .fail c x wk hs ∧ (refreshing (eng o) 0x3000).reachable 0 wk = false) ∧
    (let o := eop 1 (desc 0x40000000 0x4000 4 1 1 1) 0x80000 0
     ∃ x, (eng o).engEl o 1 = .ask x) :=
  ⟨⟨rfl, rfl, rfl, by decide, rfl, ⟨_, _, _, _, _, _, _, rfl, rfl, rfl, by decide +kernel⟩, by decide⟩, ⟨_, _, _, _, _, _, _, rfl, rfl, rfl, rfl⟩,
    ⟨_, _, _, _, _, _, _, rfl, rfl, rfl, rfl⟩, ⟨_, _, rfl, rfl, rfl⟩, ⟨_, _, _, _, rfl, rfl⟩, ⟨_, _, _, _, rfl, by decide +kernel⟩, _, rfl⟩

/-- An operation that has finished, with bounds to count and none, one that has not, one that has failed with a descriptor to
tell; the last fill of a filling line, a line to write back. -/
theorem witness_EngineEnd :
    (let o := { eop 1 [] 0 0 with next := 4 }
     let s := eng o
     (s.core 0).queue 0 = [o] ∧ o.started = true ∧ Claims.toDo o ≤ o.next ∧ o.remote = [] ∧ s.applied 0 o.writes = true ∧ o.cause = 0 ∧
       (∃ p, s.cur.sl.op? o.id = some p ∧ p.kind = .engine 0 20) ∧ o.hits = [] ∧ ({ o with hits := [0x3000] } : EngOp).hits ≠ [] ∧
       s.cur.g.id ≠ 0 ∧ (∀ r ∈ s.others, r.g.id ≠ s.cur.g.id) ∧ ¬Claims.toDo (eop 1 [] 0 0) ≤ (eop 1 [] 0 0).next) ∧
    (let o := { eop 1 (desc 0 0 4 1 1 1) 0 0 with cause := 0x07, fail := 0 }
     o.cause ≠ 0 ∧ o.told = false ∧ o.desc ≠ [] ∧ Claims.toDo o ≤ o.next ∧
       ∃ t h, (eng o).translateIn o.core o.ctx (o.dva + 32) .write false = .ok t ∧ homeOf t.pa = some h) ∧
    tagState ((team0.tag 0 fun _ => mkTag 1 0 0x800 false).tagAt 0) = 1 ∧ 2 ≤ tagState ((team0.tag 0 fun _ => mkTag 3 0 0x800 false).tagAt 0) :=
  ⟨⟨rfl, rfl, by decide, rfl, rfl, rfl, ⟨_, rfl, rfl⟩, rfl, by decide, by decide, (fun _ h => nomatch h), by decide⟩, ⟨by decide, rfl, by decide, by decide, _, _, rfl, rfl⟩, by decide, by decide⟩

/-- A subscription with a free slot and with none; a loader between items with no room, one that is paused, one that goes on;
within one, a next tile that is read, one whose bank refreshes, one with no translation, one in another package; one whose
tile is on its way, the last and not the last. -/
theorem witness_LoaderSteps :
    (let s := { est [] with streams := [{ strm with slot := none }] }
     s.streams.find? (fun x => x.op == 4 && !x.storer && x.slot.isNone) = some { strm with slot := none } ∧ s.paused 1 = false ∧
       (∃ k, k < 64 ∧ k ∉ s.busySlots 3) ∧
       ∀ k, k < 64 → k ∈ ({ s with streams := (List.range 64).map fun k => { strm with slot := some k } } : State).busySlots 3) ∧
    (let reads := fun (s : State) (x : Streamer) => engList (fun u => s.engRead (s.streamOp x) false
       (dSrc x.desc + .ofNat 64 x.next * dSS x.desc 1) (.ofNat 64 u.1) u.2) (unitsOf (dN x.desc 0))
     let r := { ring0 with cursors := [(0, 2)] }
     let s := { est [] fun t => { t with ringst := [(1, some r)] } with streams := [strm], views := all5 (memFar 0x2000 []) }
     s.streamAt false 3 63 = some strm ∧ s.ringOf 1 1 = some r ∧ strm.item = none ∧ ({ strm with item := some 0 } : Streamer).out = none ∧
       r.roomFor r.counter = true ∧ ring0.roomFor ring0.counter = false ∧
       ({ s with teams := [(1, { team0 with stop := 1 })] } : State).paused strm.team = true ∧ s.paused strm.team = false ∧
       (∃ vs wk, reads s strm = .ok vs wk ∧ s.reachable (s.teamCore 1) wk = true ∧ (refreshing s 0x3000).reachable (s.teamCore 1) wk = false) ∧
       (∃ wk hs, reads s { strm with desc := desc 0x80000000 0x4000 4 2 1 1 } = .fail 0x07 0x80000000 wk hs ∧ s.reachable (s.teamCore 1) wk = true) ∧
       reads s { strm with desc := desc 0x40000000 0x4000 4 2 1 1 } = .ask 0x20000000000 ∧
       ({ strm with out := some [(1, 2048, 7)] } : Streamer).out = some [(1, 2048, 7)] ∧ strm.next + 1 < dN strm.desc 1 ∧ dN strm.desc 1 ≤ 1 + 1) :=
  ⟨⟨rfl, rfl, ⟨63, by decide, by decide⟩, by decide⟩, rfl, rfl, rfl, rfl, by decide, by decide, rfl, rfl,
    ⟨_, _, rfl, rfl, by decide +kernel⟩, ⟨_, _, rfl, rfl⟩, rfl, rfl, by decide, by decide⟩

/-- A storer whose item is not there, one with a cause, one that can be stored, one with no translation, one to another
package's scratch line; one whose item is sent, one at its end with writes that have applied and that have not, one that has
failed and not told. -/
theorem witness_StorerSteps :
    (let x := { strm with storer := true }
     let reads := fun (s : State) (x : Streamer) (r : Ring) => engList (fun v : Nat × Nat =>
       (s.engAt (s.streamOp x) true (r.spa (r.cursor x.cons)) (.ofNat 64 v.1) v.2 .read).bind fun f =>
       (s.engGet (s.streamOp x) f v.2 (r.spa (r.cursor x.cons))).bind fun z =>
         (s.engAt (s.streamOp x) false (dDst x.desc + .ofNat 64 x.next * dDS x.desc 1) (.ofNat 64 v.1) v.2 .write).bind fun t =>
           EngRes.pure (⟨t, v.2, z, dDst x.desc + .ofNat 64 x.next * dDS x.desc 1 + .ofNat 64 v.1⟩ : Put)) (unitsOf (dN x.desc 0))
     let s := { est [] fun t => { t with ringst := [(1, some ring0)] } with streams := [x] }
     s.streamAt true 3 63 = some x ∧ s.ringOf 1 1 = some ring0 ∧ x.remote = [] ∧ ¬(x.cause ≠ 0 ∨ (dN x.desc 1 ≤ x.next ∧ x.sent = false)) ∧
       ({ ring0 with seqs := [] } : Ring).published 0 = false ∧ ring0.published (ring0.cursor x.cons) = true ∧
       (ring0.seqWord (ring0.cursor x.cons)).getLsbD 62 = false ∧ s.paused x.team = false ∧
       (({ ring0 with seqs := [(0, 0xC380000000000000)] } : Ring).seqWord 0).getLsbD 62 = true ∧
       ({ ring0 with seqs := [(0, 0xC380000000000000)] } : Ring).published 0 = true ∧
       (∃ ps wk, reads s x ring0 = .ok ps wk ∧ s.reachable (s.teamCore 1) wk = true ∧ (refreshing s 0x4000).reachable (s.teamCore 1) wk = false) ∧
       (∃ wk hs, reads s { x with desc := desc 0 0x80000000 4 2 1 1 } ring0 = .fail 0x07 0x80000000 wk hs ∧ s.reachable (s.teamCore 1) wk = true) ∧
       ({ x with sent := true } : Streamer).sent = true) ∧
    (let x := { strm with storer := true, next := 2 }
     (dN x.desc 1 ≤ x.next ∧ x.sent = false) ∧ x.fva = none ∧ (est []).applied ((est []).teamCore x.team) x.writes = true ∧
       ({ est [] with writes := [⟨9, 0, Stamp.zero, 0, 0xFF, 0, 0, 0, none⟩] } : State).applied ((est []).teamCore x.team) [9] = false) ∧
    (let x := { strm with storer := true, cause := 0x07, fva := some 0x80000000, remote := [(0, 0)] }
     x.cause ≠ 0 ∧ x.fva = some 0x80000000 ∧ x.remote ≠ []) :=
  ⟨⟨rfl, rfl, rfl, by decide, by decide, by decide, by decide, rfl, by decide, by decide, ⟨_, _, rfl, rfl, by decide +kernel⟩, ⟨_, _, rfl, rfl⟩, rfl⟩,
    ⟨by decide, rfl, rfl, by decide⟩, by decide, rfl, by decide⟩

/-- An entry not started, with lanes that pass, one with no translation, an index block with none, and one that waits for an
acquire; a started one that waits, that is done, and that has bad data. -/
theorem witness_QueueEntry :
    (let e := { oq0 with arrived := false, started := false }
     let s := (oqSt [e]).setSl fun x => { x with ops := [⟨2, 0, .opq 3 20, none, 1, 0x1004, [], Stamp.zero, 0⟩] }
     (kvGet [] s.cur.g.oq 3)[0]? = some e ∧ (∃ o, s.cur.sl.op? e.op = some o) ∧ e.arrived = false ∧ e.started = false ∧
       (∃ as ps, s.entryAddrs 0 e = .ok (as, ps) ∧ firstCause ((s.markAll ps .read).entryChecks e as) = none) ∧
       (∃ as ps m a, s.entryAddrs 0 { e with base := 0x80000000 } = .ok (as, ps) ∧
         firstCause ((s.markAll ps .read).entryChecks { e with base := 0x80000000 } as) = some (0x07, m, a)) ∧
       (∃ x, s.entryAddrs 0 { e with idx := some 0x80000000 } = .error (0x07, x)) ∧
       ∃ x, (outSt (mst 8) (.fence false true 1 false 0)).entryAddrs 1 { e with idx := some 0x3000 } = .error (notYet, x)) ∧
    (let e := { oq0 with arrived := false, started := true }
     let a : Access := ⟨5, 0, .mem 0 false, 8, 0, 0, 9, .done⟩
     let s := (oqSt [e]).setSl fun x => { x with ops := [⟨2, 0, .opq 3 20, none, 1, 0x1004, [a], Stamp.zero, 0⟩] }
     (kvGet [] s.cur.g.oq 3)[0]? = some e ∧ (∃ o, s.cur.sl.op? e.op = some o ∧ ∀ b ∈ o.acc, b.st = .done) ∧ e.cause = 0 ∧
       ({ a with st := .waiting } : Access).st.performed = false ∧ [a, { a with st := .bad }].find? (·.st == .bad) = some { a with st := .bad }) :=
  ⟨⟨rfl, ⟨_, rfl⟩, rfl, rfl, ⟨_, _, rfl, rfl⟩, ⟨_, _, _, _, rfl, rfl⟩, ⟨_, rfl⟩, _, rfl⟩, rfl, ⟨_, rfl, by decide⟩, rfl, rfl, by decide⟩

/-! ### Bags -/

/-- A row of a bag: its eight columns of 256 bytes. -/
def rowAt (a : Nat) : List (Nat × Nat) := (List.range 8).map fun k => (a + 256 * k, a + 256 * k)

/-- An open bag of one share at 0x700000, counts at 0x700040, one row, `n` records of it written, in state `b`. -/
def bagSt (n b : Nat) : State :=
  let m := writeBytes (memAt 0x700000 (bagDesc 1 n 8 0xFFF 0 1 0 0 0 b 0x700080 0x700040)) 0x700040 (leBytes 4 n)
  { st 12 2 1 [(1, 0x700000), (2, 8), (3, 0x700001), (4, 0x2000), (5, 1)] [(5, vec 7), (6, vec 8), (7, vec 3)] with
    views := all5 m, bags := [⟨0x700000, 0x700000, 1, [(0, [rowAt 0x701000])], []⟩] }

theorem witness_BagWords :
    (let s := bagSt 1 1
     (∃ p, s.bagVa (s.rd 1) = .ok p) ∧ s.cur.sl.wait = none ∧ Claims.room s (s.fsFlag 0) ∧ Claims.room s s.setaFlag ∧ ¬Claims.trapRegister s 9 ∧
     (s.rd 4).toNat % 4 = 0 ∧ bagParamOk 0 = true ∧ 1 ≤ (s.rd 2).toNat ∧ (s.rd 2).toNat < 2 ^ 32 ∧ (s.rd 5).toNat ≤ 1 ∧
     (∃ k f d va ok, Claims.bag s (.bcount 9 1) = some (k, f, some d, va, ok)) ∧ (s.rd 3).toNat % 64 ≠ 0 ∧
     s.cur.sl.released s.cur.sl.nextSeq = true ∧ s.homesReady = true ∧ (∀ h, h < 5 → (s.leaveClk s.die).le (s.clock h) = true) ∧
     (∀ q ∈ s.bags, q.idle s = true) ∧ s.cur.g.companion = none) ∧
    (∃ k f d va ok, Claims.bag (stTrap (bagSt 1 1) []) (.bcount 500 1) = some (k, f, some d, va, ok) ∧ Claims.trapRegister (stTrap (bagSt 1 1) []) d) :=
  ⟨⟨⟨_, rfl⟩, rfl, noFlag _, noFlag _, notReserved rfl, by decide, by decide, by decide, by decide, by decide, ⟨_, _, _, _, _, rfl⟩, by decide,
    rfl, rfl, by decide, by decide +kernel, rfl⟩, _, _, _, _, _, rfl, (trapRegister_iff ..).2 rfl⟩

theorem test_misaligned_bag : ∃ t, exec (.bcount 9 3) (stTrap (bagSt 1 1) [9]) = .next t ∧ t.rd 505 = 9 ∧ t.rd 509 = 0x700001 :=
  ⟨_, rfl, by decide +kernel, by decide +kernel⟩

/-- An operation of the selected slice at the home of that bag. -/
def homeSt (s : State) (k : OpKind) : State := s.setSl fun x => { x with ops := [⟨2, 0, k, none, 0xFFFFFFFF, 0x1004, [], Stamp.zero, 0⟩], wait := some (.bag 2) }

def it0 : Iter := ⟨0x30000000, 1, 0x700000, 0, 0, 1, 2, 1⟩

theorem bagHome (n b : Nat) (hb : b = 1 ∨ b = 2) (hn : n = 0 ∨ n = 1 ∨ n = 2) :
    ∃ x y, (bagSt n b).bagOf 0x700000 = .ok (x, y) ∧ x.pa = 0x700000 ∧ bdState y = b ∧ bdTotal y = n ∧ bdCap y = 8 ∧ bdBanks y = 1 ∧
      (bagSt n b).countsOf x y = .ok [n] := by
  rcases hb with rfl | rfl <;> rcases hn with rfl | rfl | rfl <;>
    exact ⟨⟨0x700000, 0x700000, 1, [(0, [rowAt 0x701000])], []⟩, (bagSt _ _).bytesAt 0x700000 64, rfl, rfl, rfl, rfl, rfl, rfl, rfl⟩

/-- Two lanes and handle 0 of an open iteration. -/
def drainSt : State :=
  let s : State := { bagSt 2 1 with iters := [it0] }
  let s := s.setSl fun x => { x with clause := x.clause.map fun c => { c with exec := 3 } }
  s.setG fun g => { g with v := kvInsert g.v 7 (vec 0) }

/-- The placement home with an operation of the slice that may be performed, and one that may not; a capacity reached and one past it; an
iteration open, none, and a full table; records that fit and one that does not; a sealed bag; no bag. -/
theorem witness_PlacementHome :
    let b : Bag := ⟨0x700000, 0x700000, 1, [(0, [rowAt 0x701000])], []⟩
    (let s := homeSt (bagSt 1 1) (.bag .count 9 0 0 0x700000 0)
     let y := s.bytesAt 0x700000 64
     (∃ o, s.cur.sl.op? 2 = some o ∧ s.bagReady o = true ∧ o.kind = .bag .count 9 0 0 0x700000 0) ∧
     s.bagOf 0x700000 = .ok (b, y) ∧ (8 : W64).toNat ≤ bdCap y ∧ bdCap y < (9 : W64).toNat ∧ (∃ t, (s.touchBank b.pa).bagGrow 9 9 b y = .ok (t, none)) ∧
     (0 : W64).toNat < bdBanks y ∧ bdBanks y ≤ (1 : W64).toNat ∧ s.countsOf b y = .ok [1] ∧
     (∀ i ∈ s.iters, i.bag ≠ 0x700000) ∧ s.iters.length < 4096 ∧ bdState y = 1 ∧ s.cur.sl.kind = .execute) ∧
    (let s := outSt (bagSt 1 1) (.fence true false 1 false 0)
     ∃ o, s.cur.sl.op? 3 = some o ∧ s.bagReady o = false) ∧ (bagSt 1 1).holder 2 = none ∧
    4096 ≤ ((List.replicate 4096 it0).filterMap fun i => if stackOf i.bag = stackOf 0x700000 then some i.entry else none).length ∧
    (∀ m k, m = 3 ∧ k = none ∨ m = 0xFFFFFFFF ∧ k = some 7 → let s := (bagSt 1 1).setSl fun x => { x with clause := x.clause.map fun c => { c with exec := m } }
     let y := s.bytesAt 0x700000 64
     ∃ vs g t cs, s.sources (((List.range (bdRec y / 8)).map fun i => ⟨5 + i, false⟩) ++ [⟨7, false⟩]) none = .ok (vs, g) ∧
       (s.touchBank b.pa).putRecs s.launch? b y (fun cs l => placeShare y cs (homeBank y ((lane (vs.getD (bdRec y / 8) zeroLanes) l).toNat % 2 ^ bdKey y)))
         (recBytes (vs.take (bdRec y / 8))) (lanesOf s.wordExec) [1] = (t, cs, k)) ∧
    (bdState ((bagSt 1 2).bytesAt 0x700000 64) = 2 ∧ Claims.plain (bagSt 1 2) 5 (bdRec ((bagSt 1 2).bytesAt 0x700000 64) / 8)) ∧
    (let s := { bagSt 2 1 with iters := [it0] }
     let y := s.bytesAt 0x700000 64
     s.iterOf 0x30000000 = .ok (it0, b, y) ∧ (∃ i ∈ s.iters, i.bag = b.pa ∧ i.share = 0) ∧ (∃ t, (s.touchBank it0.bag).bagDrain 9 0 it0 b y = .ok (t, none)) ∧
       (∃ t, (s.touchBank it0.bag).bagNext 5 7 it0 b y = .ok (t, none)) ∧ (∃ t, (s.touchBank b.pa).bagCountsTo 9 0x2000 b y 2 = .ok (t, none)) ∧
       ∀ n, n < it0.last → s.unreadable (b.recAt y it0.share n) = false) ∧
    (let s := drainSt
     let y := s.bytesAt 0x700000 64
     (∃ t, (s.touchBank it0.bag).bagPut 5 none b y 0x30000000 (some 0) = .ok (t, none)) ∧
       ∃ t, (s.touchBank it0.bag).bagWrite 5 ⟨7, false⟩ it0 b y = .ok (t, none)) ∧
    (bagSt 1 1).bagOf 0x703000 = .trap 0x0C (bagSt 1 1).exec' 0x703000 ∧
    (bagSt 1 1).makeBag 1 (some 1) 0 1 = none := by
  refine ⟨⟨⟨_, rfl, rfl, rfl⟩, rfl, by decide, by decide, ⟨_, rfl⟩, by decide, by decide, rfl, by decide, by decide, by decide, rfl⟩, ⟨_, rfl, rfl⟩, rfl,
    by decide +kernel, ?_, ⟨by decide, by decide, ?_⟩, ⟨rfl, ⟨it0, by decide, rfl, rfl⟩, ⟨_, rfl⟩, ⟨_, rfl⟩, ⟨_, rfl⟩, by decide +kernel⟩,
    ⟨⟨_, rfl⟩, _, rfl⟩, rfl, rfl⟩
  · rintro m k (⟨rfl, rfl⟩ | ⟨rfl, rfl⟩) <;> exact ⟨_, _, _, _, rfl, rfl⟩
  · intro i h
    have : i = 0 ∨ i = 1 := by
      have : bdRec ((bagSt 1 2).bytesAt 0x700000 64) / 8 = 2 := by decide +kernel
      omega
    rcases this with rfl | rfl <;> rfl

/-- A pool of three lines, all free: a bag of no row has room wherever the placement falls. -/
def poolSt : State :=
  { st 12 2 1 with views := all5 (pt 0xDF), ctxs := [(1, CtxState.fresh { rec0 with bagPool := ⟨0x700740, 192⟩ })] }

theorem poolPlace_first : poolSt.poolPlace 1 [] 64 0 = some ([0x700740, 0x700780, 0x7007C0].getD (Config.pick 0 % 3) 0) := rfl

theorem poolPlace_second (a : Nat) (h : a ∈ [0x700740, 0x700780, 0x7007C0]) :
    ∃ b ∈ [0x700740, 0x700780, 0x7007C0], poolSt.poolPlace 1 [(a, 64)] 4 1 = some b ∧
      (poolSt.poolPlace 1 [(b, 4), (a, 64)] 16 2).isSome = true := by
  have two : ∀ l : List Nat, l.length = 2 → ∀ k, l.getD (k % 2) 0 = l.getD 0 0 ∨ l.getD (k % 2) 0 = l.getD 1 0 := by
    intro l _ k; rcases Nat.mod_two_eq_zero_or_one k with e | e <;> simp [e]
  simp only [List.mem_cons, List.not_mem_nil, or_false] at h
  rcases h with rfl | rfl | rfl
  · have e : poolSt.poolPlace 1 [(0x700740, 64)] 4 1 = some ([0x700780, 0x7007C0].getD (Config.pick 1 % 2) 0) := rfl
    rcases two [0x700780, 0x7007C0] rfl (Config.pick 1) with h | h <;> rw [e, h] <;> exact ⟨_, by decide, rfl, rfl⟩
  · have e : poolSt.poolPlace 1 [(0x700780, 64)] 4 1 = some ([0x700740, 0x7007C0].getD (Config.pick 1 % 2) 0) := rfl
    rcases two [0x700740, 0x7007C0] rfl (Config.pick 1) with h | h <;> rw [e, h] <;> exact ⟨_, by decide, rfl, rfl⟩
  · have e : poolSt.poolPlace 1 [(0x7007C0, 64)] 4 1 = some ([0x700740, 0x700780].getD (Config.pick 1 % 2) 0) := rfl
    rcases two [0x700740, 0x700780] rfl (Config.pick 1) with h | h <;> rw [e, h] <;> exact ⟨_, by decide, rfl, rfl⟩

theorem witness_bnew_room : ∃ t va, poolSt.makeBag 1 (some 1) 0 0 = some (t, va) := by
  have h : ∀ x ∈ [0, 1, 2], [0x700740, 0x700780, 0x7007C0].getD x 0 ∈ [0x700740, 0x700780, 0x7007C0] := by decide
  have hx : Config.pick 0 % 3 < 3 := Nat.mod_lt _ (by decide)
  have hm : [0x700740, 0x700780, 0x7007C0].getD (Config.pick 0 % 3) 0 ∈ [0x700740, 0x700780, 0x7007C0] := by
    generalize Config.pick 0 % 3 = x at hx
    rcases x with _ | _ | _ | x
    · decide
    · decide
    · decide
    · omega
  have e1 := poolPlace_first
  revert hm e1
  generalize [0x700740, 0x700780, 0x7007C0].getD (Config.pick 0 % 3) 0 = a
  intro hm e1
  obtain ⟨b, hb, e2, e3⟩ := poolPlace_second a hm
  obtain ⟨c, e3⟩ := Option.isSome_iff_exists.1 e3
  have e0 : poolSt.bagSpans 1 = [] := rfl
  have et : poolSt.tick = 0 := rfl
  have e4 : takeRows 0xFFF (ownBanks 0xFFF 1) (fun _ => rowsFor (cField 0 30 2) 0) (fun _ => none) (0 + 3 + 2 * 1) (List.range 1)
      (poolSt.freeRows 1 ((c, 16) :: (b, 4) :: [(a, 64)])) [] = some [(0, [])] := by
    have : poolSt.freeRows 1 ((c, 16) :: (b, 4) :: [(a, 64)]) = [] := rfl
    rw [this]; rfl
  have e5 : ∃ t, poolSt.translateIn poolSt.coreNo 1 (bv a) .both true = .ok t := by
    simp only [List.mem_cons, List.not_mem_nil, or_false] at hm
    rcases hm with rfl | rfl | rfl <;> exact ⟨_, rfl⟩
  obtain ⟨t, e5⟩ := e5
  have f3 : 2 ^ cField (0 : W64) 32 4 = 1 := rfl
  have f4 : (if cField (0 : W64) 40 12 = 0 then 0xFFF else cField (0 : W64) 40 12) = 0xFFF := rfl
  unfold State.makeBag
  simp only [e0, et, e1, f3, f4, e2, e3, Nat.zero_add, Nat.mul_one]
  simp only [e4, e5]
  exact ⟨_, _, rfl⟩
/-! ### Tasks -/

/-- In the state of the frame witnesses: a code address, a second operand, a control word. -/
def tsk (code b ctl : W64) : State := ((fst'.wr 1 code).wr 2 b).wr 3 ctl

/-- A team that leaves its core no room, a context that has no pool. -/
def full (s : State) : State :=
  { s with teams := [(1, { team0 with scrl := 1024 })], ctxs := [(1, CtxState.fresh { rec0 with frmPool := ⟨0x400000, 0⟩ })] }

/-- A context that has no room for task records. -/
def noRec (s : State) : State := { s with ctxs := [(1, CtxState.fresh { rec0 with tskPool := ⟨0x500000, 0⟩ })] }

/-- A control word with a reserved bit, and with its largest; no room for the frame or for the record; data off a dword, that
cannot be read, and that wait; a range upside down, and an empty one; a join with a frame and without; a release that is done
and one that is not. -/
theorem witness_SpawnWords :
    (tsk 0x9002 0 0).cur.sl.kind = .execute ∧ Claims.room (tsk 0x9000 0 0) (tsk 0x9000 0 0).setaFlag ∧ (tsk 0x9000 0 0).team? = some team0 ∧
    ((tsk 0x9002 0 0).rd 1).toNat % 4 ≠ 0 ∧ 2 ^ 13 ≤ ((tsk 0x9000 0 0x2000).rd 3).toNat ∧
    2 ^ 48 ≤ ((tsk 0x9000 0 (.ofNat 64 (2 ^ 48))).rd 3).toNat ∧
    (let s := tsk 0x9000 0 0x1FFF
     (s.rd 1).toNat % 4 = 0 ∧ (s.rd 3).getLsbD 12 = true ∧ s.disp 3 ≠ 0 ∧ s.released (dieBit s.die) = true ∧ alFind s.frames s.nextId = none ∧
     (s.rd 3).toNat < 2 ^ 13 ∧ s.rd 2 = 0 ∧ (full s).placeFrame 0 0 1 3 1024 = none ∧ s.recRoom 1 = true ∧ (noRec s).recRoom 1 = false ∧
     (outSt s .store).released (dieBit (outSt s .store).die) = false ∧ (s.setG fun g => { g with d := [] }).disp 3 = 0 ∧
     ∃ h, s.placeFrame 0 0 s.cur.g.ctx 3 1024 = some h) ∧
    (let s := tsk 0x9000 0x2000 0
     s.rd 2 ≠ 0 ∧ (∃ vs ps, s.readInit (s.rd 2) 1 = .ok (vs, ps)) ∧ (∃ h, s.placeFrame 0 0 s.cur.g.ctx 3 1 = some h) ∧
       (s.rd 2).toNat % 8 = 0 ∧ ((tsk 0x9000 0x2004 0).rd 2).toNat % 8 ≠ 0 ∧ ((tsk 0x9000 0x40000000 0).rd 2).toNat % 8 = 0 ∧
       (tsk 0x9000 0x40000000 0).readInit ((tsk 0x9000 0x40000000 0).rd 2) 1 = .trap 0x07 s.exec' 0x40000000 ∧
       (outSt s (.fence false true 1 false 0)).readInit (s.rd 2) 1 = .stall) ∧
    (let s := tsk 0x9000 (.ofNat 64 (3 * 2 ^ 32 + 4)) 0x10001
     let c := (s.rd 3).toNat
     c < 2 ^ 48 ∧ c / 2 ^ 13 % 8 = 0 ∧ 1 ≤ c / 2 ^ 16 ∧ 1 ≤ c % 1024 ∧ (s.rd 2).toNat / 2 ^ 32 < (s.rd 2).toNat % 2 ^ 32) ∧
    (let s := tsk 0x9000 (.ofNat 64 (4 * 2 ^ 32 + 4)) 0x10001
     (s.rd 2).toNat % 2 ^ 32 ≤ (s.rd 2).toNat / 2 ^ 32 ∧ ∃ h, s.placeFrame 0 0 s.cur.g.ctx 3 2 = some h) :=
  ⟨rfl, noFlag _, rfl, by decide, by decide, by decide, ⟨by decide, by decide, by decide, rfl, rfl, by decide, rfl, rfl, rfl, rfl, rfl, rfl, _, rfl⟩,
    ⟨by decide, ⟨_, _, rfl⟩, ⟨_, rfl⟩, by decide, by decide, by decide, rfl, rfl⟩, ⟨by decide, by decide, by decide, by decide, by decide⟩,
    by decide, _, rfl⟩

/-- A group of launch 1, whose cluster still has the piece [lo, hi); launch 2 waits for three, two of them manual. -/
def tst (lo hi : Nat) (a b c : W64) : State :=
  { tsk a b c with
    clusters := [(1, { clus0 with lo := lo, hi := hi })]
    tcbs := [(1, tcb0), (2, { tcb0 with st := .waiting, preds := 3, manual := 2 })] }

/-- An eplan descriptor at 0x2000: one expert, combining launch 2, counts at `cnts`, code 0x9000; the count at 0x2040 is 1. -/
def plan (cnts : Nat := 0x2040) : State :=
  let m := writeBytes (memAt 0x2008 (leBytes 8 (2 ^ 32 + 2 * 2 ^ 16 + 3 * 2 ^ 8) ++ leBytes 8 0x700000 ++ leBytes 8 cnts ++ leBytes 8 0x9000)) 0x2040 (leBytes 4 1)
  { tst 0 0 0x2000 20 0 with views := all5 m }

/-- A frame of depth 3 in memory that holds a piece; its bounds cannot be read. -/
def poorPiece : State :=
  let x := { frmB with handle := mkHandle false 3 0x400040, piece := some 1, owner := .group 1 }
  { ({ (tst 0 0 20 3 0) with frames := [(3, x)] } : State).setG fun g => { g with d := [(3, x.handle)] } with poison := [⟨0x400000, 0, []⟩] }

/-- A piece with an index left, one with none, and no piece at a depth; a register of trap handling; a piece that cannot be
read; a stream of the Keep. -/
theorem witness_PieceWords :
    (let s := tst 0 1 20 2 3
     Claims.room s s.setaFlag ∧ (s.cur.sl.kind = .execute ∨ s.cur.sl.kind = .access) ∧ ¬Claims.trapRegister s 1 ∧ 1 ≤ (s.rd 2).toNat ∧ (s.rd 2).toNat ≤ 3 ∧
       s.pieceAt (s.rd 2).toNat = some (.grid 1) ∧ (s.bounds (.grid 1)).1 < (s.bounds (.grid 1)).2 ∧ ¬Claims.trapRegister s 2) ∧
    (let s := tst 1 1 20 3 3
     (s.bounds (.grid 1)).2 ≤ (s.bounds (.grid 1)).1 ∧ s.pieceAt (s.rd 2).toNat = none ∧ 3 < ((tst 1 1 20 4 3).rd 2).toNat ∧
       ((tst 1 1 20 0 3).rd 2).toNat = 0) ∧
    (let s := poorPiece
     s.pieceAt (s.rd 2).toNat = some (.frame 3) ∧ (∃ x, alFind s.frames 3 = some x) ∧ s.slotBad 3 0 = true ∧
       ({ s with poison := [] } : State).slotBad 3 0 = false ∧ ({ s with poison := [] } : State).slotBad 3 1 = false) ∧
    Claims.trapRegister (stTrap (st 13 2 1) []) 496 ∧ ((st 13 2 1).setSl fun x => { x with kind := .keep }).cur.sl.kind.isKeep = true :=
  ⟨⟨noFlag _, by decide, notReserved rfl, by decide, by decide, rfl, by decide, notReserved rfl⟩, ⟨by decide, rfl, by decide, rfl⟩,
    ⟨rfl, ⟨_, rfl⟩, rfl, rfl, rfl⟩, (trapRegister_iff ..).2 rfl, rfl⟩

/-- A packet for a queue with room, for one with none, off a line, past the last queue; a register of trap handling; an
access slice; a launch that waits with its units, one that does not, and no launch. -/
theorem witness_LaunchWords :
    (let s := tst 0 0 0x2000 20 15
     Claims.room s s.setaFlag ∧ s.cur.sl.kind ≠ .access ∧ ¬Claims.trapRegister s 2 ∧
     (s.rd 1).toNat % 64 = 0 ∧ (s.rd 3).toNat ≤ 15 ∧ (∃ vs ps, s.readVas (s.rd 1) 8 = .ok (vs, ps)) ∧ ((tst 0 0 0x2008 20 0).rd 1).toNat % 64 ≠ 0 ∧
       15 < ((tst 0 0 0x2000 20 16).rd 3).toNat ∧ (tst 0 0 0x2000 20 0).ctx? = some (CtxState.fresh rec0) ∧
       kvGet 0 (CtxState.fresh rec0).tails 0 - kvGet 0 (CtxState.fresh rec0).heads 0 < ((CtxState.fresh rec0).queue 0).cap ∧
       ¬kvGet 0 ({ CtxState.fresh rec0 with tails := [(0, 16)] } : CtxState).tails 0 - 0 < ((CtxState.fresh rec0).queue 0).cap) ∧
    (let s := stTrap (st 13 2 1) []
     (s.rd 3).toNat ≤ 15 ∧ s.cur.sl.kind ≠ .access ∧ Claims.trapRegister s 496 ∧ (s.setSl fun x => { x with kind := .access }).cur.sl.kind = .access) ∧
    (let s := tst 0 0 2 2 0
     let t := { tcb0 with st := .waiting, preds := 3, manual := 2 }
     (s.rd 1).toNat ≤ 4095 ∧ 1 ≤ (s.rd 2).toNat ∧ (s.rd 2).toNat ≤ 4095 ∧ alFind s.tcbs (s.rd 1).toNat = some t ∧ t.ctx = s.cur.g.ctx ∧ t.st = .waiting ∧
       (s.rd 2).toNat ≤ t.manual ∧ (s.rd 2).toNat < t.preds ∧ s.released 0x0F = true ∧ t.manual < ((tst 0 0 2 3 0).rd 2).toNat ∧
       (outSt s .store).released 0x0F = false ∧ alFind s.tcbs ((tst 0 0 3 2 0).rd 1).toNat = none ∧ 4095 < ((tst 0 0 4096 2 0).rd 1).toNat ∧
       4095 < ((tst 0 0 2 4096 0).rd 2).toNat) :=
  ⟨⟨noFlag _, by decide, notReserved rfl, by decide, by decide, ⟨_, _, rfl⟩, by decide, by decide, rfl, by decide, by decide⟩,
    ⟨by decide, by decide, (trapRegister_iff ..).2 rfl, rfl⟩, by decide, by decide, by decide, rfl, rfl, rfl, by decide, by decide, rfl, by decide, rfl, rfl, by decide, by decide⟩

/-- An empty piece and one with work, every lane in EXEC and not, a release done and not; a frame of the group's and one of
another cluster's. -/
theorem witness_PhaseWords :
    (let s := tst 1 1 0x9000 2 0
     let k := { clus0 with lo := 1, hi := 1 }
     Claims.room s s.setaFlag ∧ s.cur.sl.kind = .execute ∧ s.cur.sl.handler = none ∧ (s.rd 1).toNat % 4 = 0 ∧
       alFind s.clusters s.clusterNo = some k ∧ k.hi ≤ k.lo ∧
       (∀ l, l < 32 → lane s.cur.g.pcv l = ones64 ∨ inMask s.exec' l = true) ∧ s.released 0x0F = true ∧ alFind s.tcbs s.cur.g.tcb = some tcb0 ∧
       ({ clus0 with lo := 0, hi := 1 } : Cluster).lo < ({ clus0 with lo := 0, hi := 1 } : Cluster).hi ∧ (outSt s .store).released 0x0F = false ∧
       ((tst 1 1 0x9002 2 0).rd 1).toNat % 4 ≠ 0) ∧
    (let s := tst 0 0 0x9000 3 3
     1 ≤ (s.rd 2).toNat ∧ (s.rd 2).toNat ≤ 3 ∧ (s.rd 3).toNat ≤ 3 ∧ s.frameAt (s.rd 2).toNat = .ok (2, frmA) ∧ s.mayContinue frmA = true ∧
       3 < ((tst 0 0 0x9000 4 4).rd 2).toNat ∧ 3 < ((tst 0 0 0x9000 3 4).rd 3).toNat ∧ ((tst 0 0 0x9000 3 4).rd 2).toNat ≤ 3 ∧
       ((tst 0 0 0x9002 3 3).rd 1).toNat % 4 ≠ 0 ∧ (s.setSl fun x => { x with kind := .access }).cur.sl.kind ≠ .execute ∧ ((tst 0 0 0x9000 0 3).rd 2).toNat = 0 ∧
       { tst 0 0 0x9000 1 0 with frames := [(3, { frmB with cluster := 9 })] }.frameAt 1 = .ok (3, { frmB with cluster := 9 }) ∧
       { tst 0 0 0x9000 1 0 with frames := [(3, { frmB with cluster := 9 })] }.mayContinue { frmB with cluster := 9 } = false) :=
  ⟨⟨noFlag _, rfl, rfl, by decide, rfl, by decide, by decide +kernel, rfl, rfl, by decide, rfl, by decide⟩,
    by decide, by decide, by decide, rfl, rfl, by decide, by decide, by decide, by decide, by decide, rfl, rfl, rfl⟩

/-- A legal descriptor whose counts can be read and whose combine launch waits; a launch that does not; no room for a record;
an acquire and a release that are not done; counts off a word. -/
theorem witness_PlanWord :
    (let s := plan
     ∃ vs ps cs qs u, Claims.room s s.setaFlag ∧ s.cur.sl.kind ≠ .access ∧ ¬Claims.trapRegister s 2 ∧ (s.rd 1).toNat % 64 = 0 ∧
       s.readVas (s.rd 1) 8 = .ok (vs, ps) ∧
       (∃ us qs, (plan 0x2042).readVas ((plan 0x2042).rd 1) 8 = .ok (us, qs) ∧ (us.getD 3 0).toNat % 4 ≠ 0) ∧ (let w := fun n => vs.getD n 0
       let n := (w 1).toNat / 2 ^ 32
       ((w 0 = 0 ∧ (w 1).toNat % 256 = 0 ∧ w 5 = 0 ∧ w 6 = 0 ∧ w 7 = 0) ∧ 1 ≤ n ∧ n ≤ 65536 ∧ (w 1).toNat / 2 ^ 16 % 2 ^ 16 = 2 ∧ (w 1).toNat / 2 ^ 8 % 2 ^ 8 ≤ 3 ∧
         (w 4).toNat % 4 = 0 ∧ (w 3).toNat % 4 = 0) ∧ acquireDone s.cur.sl s.cur.sl.nextSeq = true ∧ s.readCounts (w 3) n = .ok (cs, qs) ∧
         s.released (dieBit s.die) = true ∧ s.recRoom (planSlots (w 2) cs).length = true ∧ (noRec s).recRoom (planSlots (w 2) cs).length = false ∧
         ((s.markAll ps .read).markAll qs .read).pushTiles (s.tileLaunch 2) (s.linkFor 3) (w 4) 2 ((w 1).toNat / 2 ^ 8 % 2 ^ 8) (planSlots (w 2) cs) = .ok u)) ∧
    (∃ k, alFind plan.tcbs 2 = some k ∧ k.ctx = plan.cur.g.ctx ∧ k.st = .waiting ∧ k.manual ≠ 0) ∧ alFind plan.tcbs 3 = none ∧
    acquireDone (outSt plan (.load .nowhere)).cur.sl 1 = false ∧
    (outSt plan .store).released (dieBit (outSt plan .store).die) = false :=
  ⟨⟨_, _, _, _, _, noFlag _, by decide, notReserved rfl, by decide, rfl, ⟨_, _, rfl, by decide +kernel⟩, by decide +kernel, rfl, rfl, rfl, rfl, rfl, rfl⟩,
    ⟨_, rfl, rfl, rfl, by decide⟩,
    rfl, rfl, rfl⟩

/-! ### The ordering machine, the memory unit -/

/-- The selected slice has one operation, of one access to a target, not yet performed. -/
def acc1 (k : OpKind) (t : Target) : State :=
  (mst 8).setSl fun x => { x with ops := [⟨2, 0, k, none, 1, 0x1004, [⟨5, 0, t, 8, 7, 0, 0, .waiting⟩], Stamp.zero, 0⟩], nextSeq := 1 }

/-- A stamped write of die 2 to its own memory. -/
def pw : PWrite :=
  { id := 9, by' := 2, t := Stamp.zero.set 2 1, x := 0x200000, mask := 0x0F, data := 5, at' := 0, ord := 0, tcb := some 1 }

def own0 : OwnWrite := { seq := 0, op := 2, x := 0x200000, mask := 0x0F, data := 5, w := none }

/-- The same access once more, for another lane, behind the first, which stands as `st`. -/
def acc2 (k : OpKind) (t : Target) (st : AccState) : State :=
  (mst 8).setSl fun x => { x with ops := [⟨2, 0, k, none, 3, 0x1004, [⟨5, 0, t, 8, 7, 0, 0, st⟩, ⟨6, 0, t, 8, 7, 0, 0, .waiting⟩], Stamp.zero, 0⟩],
                                  nextSeq := 1 }

/-- An earlier operation of the slice with an access to the same place that is not performed. -/
def accAfter (j k : OpKind) (t : Target) : State :=
  (mst 8).setSl fun x => { x with nextSeq := 2, ops := [⟨3, 0, j, none, 1, 0x1004, [⟨5, 0, t, 8, 7, 0, 0, .waiting⟩], Stamp.zero, 0⟩,
    ⟨2, 1, k, none, 1, 0x1008, [⟨5, 0, t, 8, 7, 0, 0, .waiting⟩], Stamp.zero, 0⟩] }

/-- A load that may read, one before an acquire, one after a load of the location; beside a lane that is bad, done, asked; of
poisoned data, with own data over it; of a bank that refreshes; of another package; of a scratchpad, of a slot, of a slot at
its home, each after a store and not. -/
theorem witness_LoadStep :
    (let s := acc1 (.load (.vec 5)) (.mem 0x200000 false)
     ∃ o a, s.cur.sl.op? 2 = some o ∧ o.kind.isLoad = true ∧ o.acc[0]? = some a ∧ a.st = .waiting ∧ s.cur.sl.acquired o.seq = true ∧
       a.tgt = .mem 0x200000 false ∧ s.cur.sl.earlierAt o.seq 0x200000 = true ∧ homeOf 0x200000 = some 2 ∧ s.poisonedAt s.die 0x200000 = false ∧
       s.dramReady s.die 0x200000 = true ∧ (refreshing s 0x200000).dramReady s.die 0x200000 = false ∧
       o.laneAt 0x200000 .bad = false ∧ o.laneAt 0x200000 .done = false ∧
       ({ s with poison := [⟨0x200000, 0, []⟩] } : State).poisonedAt s.die 0x200000 = true ∧ ownCovers (s.visible s.die s.cur.sl.own) o.seq 0x200000 0xFF = false ∧
       ({ s with poison := [⟨0x200000, 0, []⟩] } : State).ownGives s.die (s.visible s.die s.cur.sl.own) o.seq 0x200000 0xFF = false ∧
       ownCovers [⟨0, 9, 0x200000, 0xFF, 5, none⟩] 1 0x200000 (accMask 0x200000 8) = true) ∧
    (acc1 (.load (.vec 5)) (.home 0x200000)).cur.sl.earlierAt 0 0x200000 = true ∧
    (∃ o, (accAfter (.load (.vec 5)) (.load (.vec 6)) (.mem 0x200000 false)).cur.sl.op? 2 = some o ∧
      (accAfter (.load (.vec 5)) (.load (.vec 6)) (.mem 0x200000 false)).cur.sl.earlierAt o.seq 0x200000 = false) ∧
    (∃ o, (accAfter (.fence false true 1 false 0) (.load (.vec 6)) (.mem 0x200000 false)).cur.sl.op? 2 = some o ∧
      (accAfter (.fence false true 1 false 0) (.load (.vec 6)) (.mem 0x200000 false)).cur.sl.acquired o.seq = false) ∧
    (∀ st, st = .bad ∨ st = .done ∨ st = .asked → ∃ o a, (acc2 (.load (.vec 5)) (.mem 0x200000 false) st).cur.sl.op? 2 = some o ∧
      o.acc[1]? = some a ∧ a.st = .waiting ∧ o.laneAt 0x200000 st = true) ∧
    (let s := acc1 (.load (.scal 5)) (.mem 0x20000000000 false)
     homeOf 0x20000000000 = none ∧ ownCovers (s.visible s.die s.cur.sl.own) 0 0x20000000000 0xFF = false) ∧
    (∀ t, t = .spad 1 0x80 ∨ t = .slot 2 1 → ∃ o a p b, (acc1 (.load (.scal 5)) t).cur.sl.op? 2 = some o ∧ o.acc[0]? = some a ∧ a.tgt = t ∧
      (acc1 (.load (.scal 5)) t).cur.sl.clearOf o.seq a (fun _ => true) = true ∧
      (acc1 (.load (.scal 5)) t).cur.sl.clearOf o.seq a (· == .store) = true ∧ (accAfter .store (.load (.scal 5)) t).cur.sl.op? 2 = some p ∧
      p.acc[0]? = some b ∧ (accAfter .store (.load (.scal 5)) t).cur.sl.clearOf p.seq b (· == .store) = false) := by
  refine ⟨⟨_, _, rfl, rfl, rfl, rfl, rfl, rfl, rfl, rfl, rfl, rfl, by decide, rfl, rfl, rfl, rfl, rfl, rfl⟩, rfl, ⟨_, rfl, rfl⟩, ⟨_, rfl, rfl⟩, ?_,
    ⟨rfl, rfl⟩, ?_⟩
  · rintro st (rfl | rfl | rfl) <;> exact ⟨_, _, rfl, rfl, rfl, rfl⟩
  · rintro t (rfl | rfl) <;> exact ⟨_, _, _, _, rfl, rfl, rfl, rfl, rfl, rfl, rfl, rfl⟩

theorem witness_OwnReads : Claims.covers own0 0x200000 1 3 ∧ ¬Claims.covers own0 0x200000 1 4 ∧ ¬Claims.covers own0 0x200000 0 3 := by
  unfold Claims.covers; decide

/-- A store that may leave, to memory here and elsewhere, to a scratchpad and to a slot; one before a release, and one after
the same store. -/
theorem witness_DrainStep :
    (∀ t, t = .mem 0x200000 false ∨ t = .mem 0x20000000000 false ∨ t = .spad 1 0x80 ∨ t = .slot 2 1 → let s := acc1 .store t
     ∃ o a, s.cur.sl.op? 2 = some o ∧ o.kind = .store ∧ o.acc[0]? = some a ∧ a.st = .waiting ∧ s.cur.sl.released o.seq = true ∧
       a.tgt = t ∧ s.olderAt o 0 0x200000 = false ∧ s.olderAt o 0 0x20000000000 = false ∧ s.cur.sl.loadsDone o.seq = true ∧
       s.arrivedInOrder o 0 a = true ∧ s.cur.sl.clearOf o.seq a (fun _ => true) = true ∧ s.cur.sl.clearOf o.seq a (·.isLoad) = true) ∧
    (∃ o, (accAfter (.fence true false 1 false 0) .store (.mem 0x200000 false)).cur.sl.op? 2 = some o ∧
      (accAfter (.fence true false 1 false 0) .store (.mem 0x200000 false)).cur.sl.released o.seq = false) ∧
    (∃ o, (accAfter (.load (.vec 5)) .store (.mem 0x200000 false)).cur.sl.op? 2 = some o ∧
      (accAfter (.load (.vec 5)) .store (.mem 0x200000 false)).cur.sl.loadsDone o.seq = false) ∧
    (∀ t, t = .spad 1 0x80 ∨ t = .slot 2 1 → ∃ o a, (accAfter .store .store t).cur.sl.op? 2 = some o ∧ o.acc[0]? = some a ∧
      (accAfter .store .store t).arrivedInOrder o 0 a = false) ∧ homeOf 0x200000 = some 2 ∧ homeOf 0x20000000000 = none := by
  refine ⟨?_, ⟨_, rfl, rfl⟩, ⟨_, rfl, rfl⟩, ?_, rfl, rfl⟩
  · rintro t (rfl | rfl | rfl | rfl) <;> exact ⟨_, _, rfl, rfl, rfl, rfl, rfl, rfl, rfl, rfl, rfl, rfl, rfl, rfl⟩
  · rintro t (rfl | rfl) <;> exact ⟨_, _, rfl, rfl, rfl⟩

theorem witness_ApplyStep :
    (let s := { mst 8 with writes := [pw] }
     s.writes.find? (fun p => p.id == 9) = some pw ∧ homeOf pw.x = some 2 ∧ pw.ord = 0 ∧ Claims.applies s 2 2 pw ∧ ¬Claims.applies s 0 2 pw) :=
  ⟨rfl, rfl, rfl, ⟨by decide, by decide, .inl rfl, rfl, by decide, .inl rfl⟩, fun h => absurd h.2.2.1 (by decide)⟩

/-- Every way of a set of die 2's Belfry taken, an atomic pending on each; one of another line of the set, as it stands. -/
def crowded (st : AccState) : State :=
  let l := fun k => 0x200000 + 0x40000 * (k + 1)
  let op := fun id seq acc => (⟨id, seq, .atomic .add true .nowhere 0x0F false, none, 1, 0x1004, acc, Stamp.zero, 0⟩ : Op)
  { ((mst 8).setSl fun x => { x with nextSeq := 2, ops := [op 2 0 ((List.range 16).map fun k => ⟨k, 0, .mem (l k) false, 8, 7, 0, 0, .waiting⟩),
      op 3 1 [⟨0, 0, .mem 0x200008 false, 8, 7, 0, 0, st⟩]] }) with
    belfry := (List.range 16).map fun k => ⟨2, l k, 0, 0, []⟩ }

/-- An atomic that may be performed, on good and on poisoned data, one whose line is in the overflow area, one after a load
of the slice, one performed already; one that may be sent to another package and one that may not; famo of a slot that may
add and one that may not. -/
theorem witness_AtomicStep :
    (let k : OpKind := .atomic .add true (.scal 5) 0x0F false
     (let s := acc1 k (.mem 0x200000 false)
      ∃ o a, s.cur.sl.op? 2 = some o ∧ o.kind = k ∧ o.slot? = none ∧ a ∈ o.acc ∧ a.loc = some 0x200000 ∧ a.st = .waiting ∧
        s.cur.sl.mayAtomic o 0x200000 = true ∧ homeOf 0x200000 = some 2 ∧ s.storesHome s.cur.sl o.seq 0x200000 2 = true ∧
        o.clk.le (s.clock 2) = true ∧ s.homeReady 2 = true ∧ s.poisoned 0x200000 = false ∧
        ({ s with poison := [⟨0x200000, 0, []⟩] } : State).poisoned 0x200000 = true ∧ s.overflowed 2 0x200000 = false ∧
        ¬∃ a ∈ o.acc, a.loc = some 0x200008 ∧ a.st = .waiting) ∧
     (let s := crowded .waiting
      ∃ o a, s.cur.sl.op? 3 = some o ∧ a ∈ o.acc ∧ a.loc = some 0x200008 ∧ a.st = .waiting ∧ s.cur.sl.mayAtomic o 0x200008 = true ∧
        s.storesHome s.cur.sl o.seq 0x200008 2 = true ∧ o.clk.le (s.clock 2) = true ∧ s.homeReady 2 = true ∧ s.poisoned 0x200008 = false ∧
        s.overflowed 2 0x200008 = true) ∧
     (let s := accAfter (.load (.vec 5)) k (.mem 0x200000 false)
      ∃ o, s.cur.sl.op? 2 = some o ∧ s.cur.sl.mayAtomic o 0x200000 = false) ∧
     (let s := acc1 k (.mem 0x20000000000 false)
      ∃ o, s.cur.sl.op? 2 = some o ∧ homeOf 0x20000000000 = none ∧ s.maySend o 0x20000000000 = true) ∧
     (let s := accAfter (.load (.vec 5)) k (.mem 0x20000000000 false)
      ∃ o, s.cur.sl.op? 2 = some o ∧ s.maySend o 0x20000000000 = false) ∧
     (let s := acc1 k (.slot 2 1)
      ∃ o a, s.cur.sl.op? 2 = some o ∧ o.slot? = some (a, 2, 1) ∧ a.st = .waiting ∧ s.cur.sl.released o.seq = true ∧
        s.cur.sl.loadsDone o.seq = true ∧ s.cur.sl.clearOf o.seq a (fun _ => true) = true) ∧
     (let s := accAfter .store k (.slot 2 1)
      ∃ o a, s.cur.sl.op? 2 = some o ∧ o.slot? = some (a, 2, 1) ∧ s.cur.sl.clearOf o.seq a (fun _ => true) = false)) := by
  refine ⟨⟨_, ⟨5, 0, .mem 0x200000 false, 8, 7, 0, 0, .waiting⟩, rfl, rfl, rfl, List.mem_cons_self, rfl, rfl, rfl, rfl, rfl, rfl, rfl, rfl, rfl, rfl, ?_⟩,
    ⟨_, _, rfl, List.mem_cons_self, rfl, rfl, rfl, rfl, rfl, rfl, rfl, by decide +kernel⟩, ⟨_, rfl, rfl⟩, ⟨_, rfl, rfl, rfl⟩, ⟨_, rfl, rfl⟩, ⟨_, _, rfl, rfl, rfl, rfl, rfl, rfl⟩, _, _, rfl, rfl, rfl⟩
  rintro ⟨a, h, e, -⟩
  cases List.mem_singleton.1 h
  exact absurd e (by decide)

/-- A buffer to publish with its fpub, one that waits for a load of its slot, and one without; an fexit whose copy-out is
written; a bad load with a handler and without, in handler mode, of a slice that has ended, of one that waits, and no bad
load. -/
theorem witness_PublishAndTrap :
    (let s := { acc1 (.publish 2) (.slot 2 2) with frames := [(2, { frmA with buf := [(2, 2, 9), (2, 2, 8)] })] }
     s.publishing 2 = true ∧ s.publishable 2 = true ∧ (∃ x, alFind s.frames 2 = some x ∧ x.buf = [(2, 2, 9), (2, 2, 8)]) ∧ fst'.publishing 2 = false ∧ fst'.leaver 2 = none) ∧
    (let s := { (accAfter (.load (.scal 5)) (.publish 2) (.slot 3 1)).setG fun g => { g with d := fst'.cur.g.d } with
                  frames := [(2, { frmA with buf := [(3, 1, 9)] }), (3, { frmB with handle := mkHandle true 1 65 })] }
     s.publishing 2 = true ∧ s.publishable 2 = false) ∧
    (let s := fst'.setSl fun x => { x with nextSeq := 1, ops := [⟨2, 0, .leave 2, none, 1, 0x1004, [], Stamp.zero, 0⟩] }
     s.publishing 2 = false ∧ s.leaver 2 = some 1) ∧
    (let bad := fun s : State => s.setSl fun x => { x with ops := x.ops.map fun o => { o with acc := o.acc.map fun a => { a with st := .bad } } }
     let s := stTrap (bad (acc1 (.load (.vec 5)) (.mem 0x200000 false))) [0x0A]
     (∃ o, s.cur.sl.badLoad = some o ∧ ∃ a, o.acc.find? (·.st == .bad) = some a) ∧ s.cur.sl.handler = none ∧ s.cur.sl.ended = false ∧
       s.boundary.2.2 ≠ 0 ∧ s.handlerFor 0x0A = some 0x9000 ∧ (bad (acc1 (.load (.vec 5)) (.mem 0x200000 false))).handlerFor 0x0A = none ∧
       (inHandler s (hand 0x12)).cur.sl.handler.isSome = true ∧ s.cur.sl.wait = none ∧
       (s.setWait none (.barrier 1 true)).cur.sl.wait.isSome = true) ∧
    (mst 8).cur.sl.badLoad = none :=
  ⟨⟨rfl, rfl, ⟨_, rfl, rfl⟩, rfl, rfl⟩, ⟨rfl, rfl⟩, ⟨rfl, rfl⟩, ⟨⟨_, rfl, _, rfl⟩, rfl, rfl, by decide, by decide +kernel, rfl, rfl, rfl, rfl⟩, rfl⟩

/-- Cupola 8, as the test sets it. -/
def cupSt (f : Cupola → Cupola) : State := { mst 8 with cups := [(8, f Cupola.idle)] }

def pkt (pa size : Nat) (mask : List Bool) : Packet := ⟨2, 1023, pa, size, mask, List.replicate size 7, .good⟩

/-- Reads and writes of 32 and of 256 bytes at the end of a page, a write of two bursts, an atomic for an operation of the
overflow area, and each from a die that may not send it; a request that goes at once, one whose bank refreshes, and one whose
burst another waits for; a queue in which none may be performed. -/
theorem witness_Packets :
    (mst 8).packetOk 8 .rd (pkt 0x200000 32 []) = true ∧ (mst 8).packetOk 8 .wr (pkt 0x200F00 256 []) = true ∧
    (mst 8).packetOk 8 .wr (pkt 0x200E88 200 [true]) = true ∧ (packetBursts (pkt 0x200E88 200 [true])).length = 2 ∧
    (crowded .asked).packetOk 8 (.atm 0x10) (pkt 0x200008 8 []) = true ∧
    ((crowded .asked).atmAt 0x10 0x200008).map (fun x => (x.1, x.2.1, x.2.2.id)) = [((crowded .asked).cur.g.id, (crowded .asked).cur.sl.kind, 3)] ∧
    (∀ q, q = .rd ∨ q = .wr ∨ q = .atm 0x10 → (mst 8).packetOk 8 q { pkt 0x200008 8 [] with die := 4 } = false) ∧
    Claims.stalled (mst 8) 8 ∧ Claims.goesAtOnce (mst 8) 8 .wr (pkt 0x200F00 256 []) ∧ (mst 8).burstBad 2 0x200008 = false ∧
    ({ mst 8 with poison := [⟨0x200000, 0, []⟩] } : State).burstBad 2 0x200000 = true ∧
    (let r : Queued := ⟨.rd, pkt 0x200000 32 [], .good⟩
     let s := cupSt fun c => { c with busy := [bankOf 0x200000], queue := [r] }
     Claims.stalled s 8 ∧ ¬Claims.goesAtOnce s 8 .rd (pkt 0x200000 32 []) ∧ Claims.goesAtOnce s 8 .rd (pkt 0x200F00 32 [])) := by
  refine ⟨rfl, rfl, rfl, by decide, rfl, by decide +kernel, ?_, (fun _ h => nomatch h), ⟨fun b _ => ⟨(fun _ h => nomatch h), rfl⟩, .inr rfl⟩, rfl, rfl,
    ?_, ?_, ⟨by decide, .inl rfl⟩⟩
  · rintro q (rfl | rfl | rfl) <;> rfl
  · intro r h; cases List.mem_singleton.1 h; rfl
  · rintro ⟨h, -⟩; exact absurd h (by decide)

/-- Banks that are idle, accessed, asked for, owing seven and eight; a forced refresh; a request that waits for the bank
whose refresh ends; the scrubber off, held up, at a burst and at the last. -/
theorem witness_Upkeep :
    (let i := fun (s : State) b => b ∉ (s.cup 8).active ∧ ∀ q ∈ (s.cup 8).queue, ∀ x ∈ packetBursts q.p, bankOf x ≠ b
     i (mst 8) 1023 ∧ ¬i (cupSt fun c => { c with active := [1023], owed := [(1023, 8)] }) 1023 ∧
      ¬i (cupSt fun c => { c with queue := [⟨.rd, pkt 0x200000 32 [], .good⟩] }) (bankOf 0x200000) ∧
      8 ≤ kvGet 0 ((cupSt fun c => { c with active := [1023], owed := [(1023, 8)] }).cup 8).owed 1023 ∧
      kvGet 0 ((cupSt fun c => { c with active := [1023], owed := [(1023, 7)] }).cup 8).owed 1023 < 8) ∧
    31 ∉ ((mst 8).cup 8).forced ∧ 31 ∈ ((cupSt fun c => { c with forced := [31] }).cup 8).forced ∧
    (let q : Queued := ⟨.rd, pkt 0x200000 32 [], .good⟩
     let c := (cupSt fun c => { c with busy := [bankOf 0x200000], queue := [q] }).cup 8
     c.queue = [q] ∧ (∀ x ∈ packetBursts q.p, bankOf x = bankOf 0x200000) ∧ q.kind = .rd ∧ bankOf 0x200000 / 32 ∉ c.forced ∧ bankOf 0x200000 < 1024) ∧
    (let c := (cupSt fun c => { c with scrubEn := true, pos := 64 * 10 ^ 9 - 256 }).cup 8
     c.scrubEn = true ∧ bankOf (paOfStack 8 c.pos) ∉ c.busy ∧ (∀ q ∈ c.queue, burstOf (paOfStack 8 c.pos) ∉ packetBursts q.p) ∧ 64 * 10 ^ 9 ≤ c.pos + 256 ∧
       ¬64 * 10 ^ 9 ≤ ((mst 8).cup 8).pos + 256 ∧ ((mst 8).cup 8).scrubEn = false) := by
  refine ⟨⟨⟨by decide, (fun _ h => nomatch h)⟩, ?_, ?_, by decide, by decide⟩, by decide, by decide, ⟨rfl, by decide, rfl, by decide, by decide⟩,
    rfl, by decide, (fun _ h => nomatch h), by decide, by decide, rfl⟩
  · rintro ⟨h, -⟩; exact absurd h (by decide)
  · rintro ⟨-, h⟩; exact absurd h (by decide)

/-- The Keep running and not; an address that exists and one that does not; an atomic that may be performed, and one on poisoned data. -/
theorem witness_FromHost :
    (mst 8).kstate = 1 ∧ State.reset.kstate ≠ 1 ∧ homeOf 0x200004 = some 2 ∧ (mst 8).paValid 0x200004 = true ∧
    (mst 8).paValid 0xFFF0000000000 = false ∧ ({ mst 8 with hostSpan := (0, 8) } : State).paValid 0xFFF0000000007 = true ∧
    Claims.hostAtomic (.add 0x200004 1) = some (0x200004, (· + 1)) ∧ homeOf (0x200004 / 8 * 8) = some 2 ∧ homeOf 0x20000000000 = none ∧
    (mst 8).poisoned 0x200000 = false ∧ ((mst 8).clock 2).get 4 = (mst 8).stampNo 4 ∧
    (∀ k, k < 4 → ((mst 8).clock 4).get k ≤ ((mst 8).clock 2).get k) ∧ ({ mst 8 with poison := [⟨0x200000, 0, []⟩] } : State).poisoned 0x200000 = true :=
  ⟨rfl, by decide, rfl, rfl, rfl, rfl, rfl, rfl, rfl, rfl, rfl, by decide, rfl⟩

/-- A write to a home that may stamp it, and to one that may not; a run of atomics that may be performed, and one of a bad
size; channels with each kind of head, and an empty one. -/
theorem witness_FromFabric :
    homeOf ((mst 8).ownRegion 0x200004 / 8 * 8) = some 2 ∧ (mst 8).homeReady 2 = true ∧ (mst 8).ownRegion 0x200004 / 8 * 8 < dramBytes ∧
    ({ mst 8 with nst := [(2, 1)] } : State).homeReady 2 = false ∧ (mst 8).ownRegion 0x200000 % 8 = 0 ∧ (mst 8).poisoned 0x200000 = false ∧
    (∀ l ∈ [((4 : Nat), (1 : W64))], l.1 % 4 = 0 ∧ l.1 < 8) ∧ ¬((2 : Nat) = 4 ∨ (2 : Nat) = 8) ∧
    (∀ m, m ∈ [ChanMsg.load 0x20000000000 1 2 0, .load 0x20000000000 0 2 0, .write 0x20000000000 0xFF 7 1 2, .write 0x20000000000 0xFF 7 0 2,
        .atomic 0x20000000000 1 2, .mirror 0x20000000000 7 (some 1)] →
      ∃ c, ({ mst 8 with chans := [⟨0, 1, [m]⟩] } : State).chans.find? (fun c => c.die == 0 && c.pkg == 1) = some c ∧ c.q.head? = some m) ∧
    (∀ c, (mst 8).chans.find? (fun c => c.die == 0 && c.pkg == 1) = some c → c.q = []) :=
  ⟨rfl, rfl, by decide, rfl, rfl, rfl, by decide, by decide, fun _ _ => ⟨_, rfl, rfl⟩, fun _ h => nomatch h⟩

/-! ### Launches -/

/-- A packet of class `prio`, grid size 4, grain 1, clusters of one core. -/
def pk (prio : Nat) : BitVec 512 := .ofNat 512 (4 * 2 ^ (8 * 24) + 2 ^ (8 * 32) + prio * 2 ^ (8 * 36) + 2 ^ (8 * 40 + 64) - 2 ^ (8 * 40) + 0x11 * 2 ^ (8 * 48))

/-- Queue 0 holds one packet, sixteen of sixteen. -/
def qst (p : BitVec 512) (n : Nat) : State :=
  let m := memAt 0x20000 (leBytes 64 p.toNat)
  { st 14 1 1 with ctxs := [(1, { CtxState.fresh rec0 with tails := [(0, n)] })], views := all5 m }

/-- A kernel record: one group, 96 names, two barriers, eight lines, entry 0x1000, no frames. -/
def kernBytes : List Byte :=
  List.replicate 22 0 ++ [1, 96, 0, 0, 0, 0, 2, 0, 8, 0, 0, 0x10] ++ List.replicate 14 0 ++ List.replicate 8 0xFF ++ List.replicate 8 0

/-- The same, with a kernel record at address 0, which the packet names. -/
def qker (p : BitVec 512) (n : Nat) : State := { qst p n with views := all5 (writeBytes (memAt 0x20000 (leBytes 64 p.toNat)) 0 kernBytes) }

def tcbsTo : Nat → List (Nat × Tcb)
  | 0 => []
  | n + 1 => (n, tcb0) :: tcbsTo n

theorem tcbsTo_find (n i : Nat) (h : i < n) : (alFind (tcbsTo n) i).isSome = true := by
  induction n with
  | zero => omega
  | succ n ih =>
    simp only [tcbsTo, alFind]
    split
    · rfl
    · rename_i e
      exact ih (by omega)

theorem tcbsTo_keep (n : Nat) : (tcbsTo n).filter (fun p => p.2.st != TcbState.retired) = tcbsTo n := by
  induction n with
  | zero => rfl
  | succ n ih => exact (List.filter_cons_of_pos rfl).trans (congrArg _ ih)

/-- The packet with launch 1 as its first predecessor. -/
def afterOne (p : BitVec 512) : BitVec 512 := p - .ofNat 512 (0xFFFE * 2 ^ (8 * 40))

/-- A queue with room and a full one; heads that are legal and not, with a control block free and with none, with the
successor list of a predecessor full and not; a mirror peer that the head goes to first, one whose write is out, one that has
acknowledged it; a mirrored packet to replay. -/
theorem witness_Queues :
    (let k := { CtxState.fresh rec0 with tails := [(0, 15)] }
     kvGet 0 k.tails 0 - kvGet 0 k.heads 0 < (k.queue 0).cap ∧ alFind (qst 0 15).ctxs 1 = some k) ∧
    (let k := { CtxState.fresh rec0 with tails := [(0, 16)] }
     (k.queue 0).cap ≤ kvGet 0 k.tails 0 - kvGet 0 k.heads 0) ∧ alFind (qst 0 15).ctxs 2 = none ∧
    (∃ p, bestHead (qst (pk 3) 1).heads = some (1, 0, p) ∧ pktOk p = true) ∧ (∃ p, bestHead (qst 0 1).heads = some (1, 0, p) ∧ pktOk p = false) ∧
    bestHead (qst 0 0).heads = none ∧ alFind (qst 0 1).tcbs 0 = none ∧ (qst 0 1).occupied 0 = false ∧
    (let s := { qst 0 1 with tcbs := tcbsTo 4096 }
     (∃ p, bestHead { s with tcbs := s.tcbs.filter fun p => p.2.st != TcbState.retired }.heads = some (1, 0, p)) ∧
       ∀ i, ¬(i < 4096 ∧ alFind (s.tcbs.filter fun p => p.2.st != TcbState.retired) i = none ∧
         State.occupied { s with tcbs := s.tcbs.filter fun p => p.2.st != TcbState.retired } i = false)) ∧
    (let u := fun n : Nat => { qst (afterOne (pk 3)) 1 with tcbs := [(1, { tcb0 with succs := List.replicate n 7 })] }
     (∃ p, bestHead (u 255).heads = some (1, 0, p) ∧ (u 255).livePreds p none = [1]) ∧ alFind (u 255).tcbs 1 = some { tcb0 with succs := List.replicate 255 7 } ∧
       (List.replicate 255 7).length + [1].count 1 ≤ 256 ∧ ¬(List.replicate 256 7).length + [1].count 1 ≤ 256) ∧
    (qst (pk 3) 1).kstate = 1 ∧ ({ qst (pk 3) 1 with kstate := 2 } : State).kstate ≠ 1 ∧ (qst (pk 3) 1).nextHead = bestHead (qst (pk 3) 1).heads ∧
    (let s := qker (pk 3) 1
     s.nextHead = some (1, 0, pk 3) ∧ s.rejects 1 (pk 3) = false ∧ ({ s with mirror := some (1, 0x20000000000) } : State).mirror.isSome = true ∧ s.mirrorSent = none ∧ s.mirrorOut = false) ∧
    (let s := { qst (pk 3) 1 with mirrorSent := some (1, 0, none), chans := [⟨0, 1, [.mirror 0x20000000000 7 none]⟩] }
     (∃ p, s.nextHead = some (1, 0, p)) ∧ s.mirrorOut = true ∧ ({ s with chans := [] } : State).mirrorOut = false) ∧
    (∃ b u, (qst 0 1).homeBytes ((qst 0 1).ownRegion 0x20000) 64 = some b ∧ exec (.launchDoorbell 1 0 (.ofNat 512 (leNat b))) (qst 0 1) = .next u) := by
  refine ⟨⟨by decide, rfl⟩, by decide, rfl, ⟨_, rfl, by decide +kernel⟩, ⟨_, rfl, by decide +kernel⟩, rfl, rfl, rfl, ⟨⟨_, rfl⟩, ?_⟩,
    ⟨⟨_, rfl, by decide +kernel⟩, rfl, by decide, by decide⟩, rfl, by decide, rfl, ⟨by decide +kernel, by decide +kernel, rfl, rfl, rfl⟩,
    ⟨⟨_, rfl⟩, rfl, rfl⟩, _, _, rfl, rfl⟩
  rintro i ⟨h, e, -⟩
  rw [show ({ qst 0 1 with tcbs := tcbsTo 4096 } : State).tcbs = tcbsTo 4096 from rfl, tcbsTo_keep] at e
  have := tcbsTo_find 4096 i h
  simp [e] at this

/-- A launch that is ready with the piece [0, 4) on an empty package, whose grid may be co-resident. -/
def rdy (whole : Bool) : State :=
  { qst 0 0 with
    cur := ⟨Group.idle, Slice.idle .execute⟩, teams := [], clusters := []
    tcbs := [(1, { tcb0 with st := .ready, packet := pk 1, pieces := [(0, 4)], size := 4, kernel := { kern0 with cores := whole } })] }

/-- The same launch running, the indices from 0 on in a cluster on core 0. -/
def run4 : State :=
  { rdy false with
    teams := [(1, team0)], clusters := [(1, { clus0 with lo := 0, hi := 4 })]
    tcbs := [(1, { tcb0 with packet := pk 1, size := 4, kernel := kern0 })] }

/-- A unit of a launch of a higher class that goes back to any core, beside the ready launch. -/
def rdySaved : State :=
  { rdy false with
    tcbs := (2, { tcb0 with packet := pk 3 }) :: (rdy false).tcbs
    saved := [(9, { tcb := 2, order := 1, why := 1, clusters := [(3, { clus0 with tcb := 2 })], teams := [(4, { team0 with tcb := 2, cluster := 3 })],
                    groups := [], blocks := [], rows := [], ops := [] })] }

/-- The same launch with a region reserved for its piece. -/
def rdyDue : State := { rdy false with resv := [⟨0, 1, 0, 0, 1, 1⟩] }

/-- A state of the Keep's step, as that step sees it. -/
def seen (s : State) : State := s.settleReady.settleRoom

/-- A reserved region that is free; core 0 takes the piece; core 191 waits for it; nothing to place; a unit that goes first;
a co-resident grid. -/
theorem witness_Placement :
    (∃ r l e, Claims.Due (seen rdyDue) 0 r l e) ∧
    (∀ s, s = rdy false ∨ s = run4 ∨ s = rdySaved ∨ s = rdy true → ∀ r l e, ¬Claims.Due (seen s) 0 r l e ∧ ¬Claims.Due (seen s) 191 r l e) ∧
    (∃ t, firstOffer ((seen (rdy false)).fitting 0) = some (1, t, 0, 4) ∧ (seen (rdy false)).unitGoesFirst 0 1 t none = false ∧
      (seen (rdy false)).firstIn 0 (fun c => (seen (rdy false)).fitting c != []) = true ∧ t.kernel.cores = false) ∧
    (∃ t, firstOffer ((seen (rdy false)).fitting 191) = some (1, t, 0, 4) ∧
      (seen (rdy false)).firstIn 191 (fun c => (seen (rdy false)).fitting c != []) = false) ∧
    firstOffer ((seen run4).fitting 0) = none ∧
    (∃ t, firstOffer ((seen rdySaved).fitting 0) = some (1, t, 0, 4) ∧ (seen rdySaved).unitGoesFirst 0 1 t none = true) ∧
    (∃ t v, firstOffer ((seen (rdy true)).fitting 0) = some (1, t, 0, 4) ∧ (seen (rdy true)).unitGoesFirst 0 1 t none = false ∧
      (seen (rdy true)).firstIn 0 (fun c => (seen (rdy true)).fitting c != []) = true ∧
      t.kernel.cores = true ∧ ((seen (rdy true)).bindCounters t.ctx 1).placeWhole 1 t t.pieces = some v) := by
  refine ⟨⟨⟨0, 1, 0, 0, 1, 1⟩, [0], (1, { tcb0 with st := .ready, packet := pk 1, pieces := [(0, 4)], size := 4 }, 0, 4), List.mem_cons_self, rfl, by decide, by decide +kernel, rfl, rfl, _, rfl, rfl, by decide +kernel⟩, ?_,
    ⟨_, rfl, rfl, by decide +kernel, rfl⟩, ⟨_, rfl, by decide +kernel⟩, rfl, ⟨_, rfl, by decide +kernel⟩, _, _, rfl, rfl, by decide +kernel, rfl, rfl⟩
  rintro s (rfl | rfl | rfl | rfl) r l e <;> exact ⟨fun h => absurd h.1 (List.not_mem_nil), fun h => absurd h.1 (List.not_mem_nil)⟩

/-- The frame of a spawnr piece [2, 6), grain 1, with the record it was made with. -/
def halfFrm : Frame :=
  { frmA with handle := mkHandle true 3 0x80000, owner := .nobody, link := none, saved := none, piece := some 1, slots := [(0, 2), (1, 6)],
              born := some ⟨0, mkHandle true 3 0x80000, 0x9000, 2, 1⟩ }

/-- A cluster with nothing of its piece left, an idle slot, and the spawnr piece. -/
def half : State := { run4 with clusters := [(1, clus0)], frames := [(2, halfFrm)] }

/-- Core 7 may split, and is the first that may; core 8 is not; a core that a piece fits; a slot that splits a spawnr piece,
and one that finds none. -/
theorem witness_Splits :
    ((seen run4).fitting 7 = [] ∧ (∀ x ∈ (seen run4).saved, (seen run4).restored x 7 = none)) ∧ (seen (rdy false)).fitting 7 ≠ [] ∧
    (∃ c t, firstSplit (1 / 48) ((seen run4).splittable 1) = some (1, c, 1, t) ∧ (seen run4).firstIn 1 (seen run4).maySplit = true) ∧
    (∃ c t, firstSplit (8 / 48) ((seen run4).splittable 8) = some (1, c, 1, t) ∧ (seen run4).firstIn 8 (seen run4).maySplit = false) ∧
    (let half := seen half
     half.fitting 0 = [] ∧ half.saved = [] ∧ firstSplit (0 / 48) (half.splittable 0) = none ∧
      (let slots := half.teams.filter fun p => p.2.core == 0 && (half.idleSlot p).isSome && (half.nextRec p.2.cluster p.2.tcb).isNone
       slots.findSome? (fun p => mostLeft (half.spawnPieces p.2.cluster)) = some (2, halfFrm, 2, 6)) ∧
      alFind half.frames 2 = some halfFrm ∧ halfFrm.born = some ⟨0, mkHandle true 3 0x80000, 0x9000, 2, 1⟩ ∧ (∃ h, half.placeFrame 0 0 1 3 halfFrm.size = some h) ∧
      ∀ n, half.nextId ≤ n → alFind half.frames n = none) ∧
    (let s := seen { half with frames := [] }
     let slots := s.teams.filter fun p => p.2.core == 0 && (s.idleSlot p).isSome && (s.nextRec p.2.cluster p.2.tcb).isNone
     slots.findSome? (fun p => mostLeft (s.spawnPieces p.2.cluster)) = none) := by
  refine ⟨⟨rfl, fun _ h => nomatch h⟩, by decide +kernel, ⟨_, _, rfl, by decide +kernel⟩, ⟨_, _, rfl, by decide +kernel⟩,
    ⟨rfl, rfl, rfl, rfl, rfl, rfl, ⟨_, rfl⟩, ?_⟩, rfl⟩
  intro n (h : 6 ≤ n)
  exact if_neg (by omega)

/-- A launch that has starved, with groups that no core takes. -/
def starved1 (whole : Bool) : Tcb :=
  { tcb0 with st := .ready, packet := pk 1, pieces := [(0, 4)], size := 4, starved := [(0, 4)], kernel := { kern0 with cores := whole, groups := 49 } }

/-- The same launch before it starves; reservations `r`. -/
def gangSt (whole : Bool) (r : List Reservation) : State :=
  { rdy whole with tcbs := [(1, { starved1 whole with starved := [] })], resv := r }

/-- A starving piece with a die left and with none, of a launch of its own cores and of a co-resident one; none that starves. -/
theorem witness_Gangs :
    (rdy false).stuckGang 1 { tcb0 with st := .ready, packet := pk 1, pieces := [(0, 4)], size := 4 } = false ∧
    (∀ w, ∀ e ∈ (starved1 w).gangs, e ∈ (starved1 w).starved) ∧
    (∀ w r, ∃ t, alFind (gangSt w r).tcbs 1 = some t ∧ t.kernel.cores = w ∧ t.gangs[0]? = some (0, 4) ∧ (0, 4) ∉ t.starved) ∧
    (let s := gangSt false [⟨1, 2, 0, 48, 1, 1⟩]
     let u := { s with tcbs := alMod s.tcbs 1 fun t => { t with starved := t.starved ++ [(0, 4)] } }
     (∃ t, alFind s.tcbs 1 = some t ∧ s.stuckGang 1 t = true ∧ ∀ r ∈ s.resv, ¬(r.tcb = 1 ∧ r.lo = 0)) ∧
     (∃ y l, u.starving = [(1, y, 0)] ∧ 0 < 192 ∧ rectCores 0 (pktWidth y.packet) (pktHeight y.packet) = some l ∧ ∀ r ∈ s.resv, r.die ≠ 0 / 48)) ∧
    (let s := gangSt false ((List.range 4).map fun d => ⟨d, 2, 0, 48 * d, 8, 6⟩)
     let u := { s with tcbs := alMod s.tcbs 1 fun t => { t with starved := t.starved ++ [(0, 4)] } }
     (∃ y, u.starving = [(1, y, 0)]) ∧ ∀ o, o < 192 → ∃ r ∈ s.resv, r.die = o / 48) ∧
    (let s := gangSt false [⟨1, 1, 0, 48, 1, 1⟩]
     let u := { s with tcbs := alMod s.tcbs 1 fun t => { t with starved := t.starved ++ [(0, 4)] } }
     u.starving = []) ∧
    (let s := gangSt true []
     let u := { s with tcbs := alMod s.tcbs 1 fun t => { t with starved := t.starved ++ [(0, 4)] } }
     ∃ t y, alFind s.tcbs 1 = some t ∧ s.stuckGang 1 t = true ∧ u.starving = [(1, y, 0)] ∧ y.kernel.cores = true ∧ s.resv = []) ∧
    (let s := gangSt true [⟨1, 2, 0, 48, 1, 1⟩]
     let u := { s with tcbs := alMod s.tcbs 1 fun t => { t with starved := t.starved ++ [(0, 4)] } }
     ∃ t y, alFind s.tcbs 1 = some t ∧ s.stuckGang 1 t = true ∧ u.starving = [(1, y, 0)] ∧ y.kernel.cores = true ∧ s.resv ≠ []) := by
  refine ⟨by decide +kernel, by decide, fun w r => ⟨_, rfl, rfl, by cases w <;> rfl, fun h => nomatch h⟩,
    ⟨⟨_, rfl, by decide +kernel, by decide⟩, starved1 false, _, by decide +kernel, by decide, rfl, by decide⟩,
    ⟨⟨starved1 false, by decide +kernel⟩, ?_⟩, by decide +kernel, ⟨_, starved1 true, rfl, by decide +kernel, by decide +kernel, rfl, rfl⟩,
    _, starved1 true, rfl, by decide +kernel, by decide +kernel, rfl, by decide⟩
  intro o h
  exact ⟨⟨o / 48, 2, 0, 48 * (o / 48), 8, 6⟩, List.mem_map.2 ⟨o / 48, List.mem_range.2 (by omega), rfl⟩, rfl⟩

/-- A record of class 2 at the head of its queue with a frame of the cluster, no class above; a tile record; an idle slot with no record,
a slot that is not first. -/
theorem witness_Slots :
    (let r : ContRec := ⟨0, halfFrm.handle, 0x9000, 2, 1⟩
     let k := { clus0 with crqs := [(2, [r, r])] }
     let s := { half with clusters := [(1, k)] }
     ∃ c q, alFind s.teams 1 = some team0 ∧ s.firstSlot 1 = some (1, 0) ∧ alFind s.tcbs 1 = some c ∧ s.nextRec 1 1 = some r ∧
       alFind s.clusters 1 = some k ∧ s.slotQuarter 0 c.kernel = some q ∧ (∀ p, ∀ x ∈ kvGet [] k.crqs p, x.prio = p) ∧
       (∀ p, 2 < p → p ≤ 3 → kvGet [] k.crqs p = [] ∧ ∀ x ∈ c.tiles, x.prio ≠ p) ∧ s.frameIn c.ctx 1 r.frame = some (2, halfFrm)) ∧
    (let r : ContRec := ⟨1, halfFrm.handle, 0x9000, 2, 3⟩
     let s := { half with tcbs := [(1, { tcb0 with tiles := [r] })] }
     s.nextRec 1 1 = some r ∧ r.kind = 3 ∧ s.firstSlot 1 = some (1, 0)) ∧
    half.nextRec team0.cluster team0.tcb = none ∧ half.firstSlot team0.cluster ≠ some (1, 1) ∧
    (let s := { half with cur := ⟨{ grp0 with base := 96 }, Slice.idle .execute⟩
                          others := [⟨{ grp0 with id := 2, quarter := 1 }, Slice.idle .execute⟩, ⟨{ grp0 with id := 3, quarter := 2 }, Slice.idle .execute⟩,
                            ⟨{ grp0 with id := 4, quarter := 3 }, Slice.idle .execute⟩] }
     s.slotQuarter 0 kern0 = none) := by
  refine ⟨⟨_, _, rfl, rfl, rfl, rfl, rfl, rfl, ?_, ?_, rfl⟩, ⟨rfl, rfl, rfl⟩, rfl, by decide, by decide +kernel⟩
  · intro p x h
    by_cases e : p = 2
    · subst e; revert x; decide
    · simp [kvGet] at h; exact absurd h.1 e
  · intro p h h'
    obtain rfl : p = 3 := by omega
    exact ⟨rfl, fun _ h => nomatch h⟩

/-- A group that has exited, its access slice too, with no frame and with one; one that has lanes; a team, a cluster and a
grid that have nothing left; a failed launch. -/
theorem witness_GroupEnds :
    (let s := (st 14 1 1).setG fun g => { g with pcv := tab fun _ => ones64, companion := some (Slice.idle .access) }
     let w := s.onExecute
     w.cur.g.id ≠ 0 ∧ w.cur.g.gone = none ∧ w.cur.g.alive = false ∧ w.cur.sl.quiet = true ∧ w.mayLeave = true ∧ w.team? = some team0) ∧
    (let s := fst'.setG fun g => { g with pcv := tab fun _ => ones64 }
     s.onExecute.mayLeave = true ∧ s.onExecute.leavingFrames ≠ []) ∧
    (mst 8).onExecute.cur.g.alive = true ∧
    (let t := { team0 with left := 1 }
     let s := { half with teams := [(1, t)] }
     alFind s.teams 1 = some t ∧ t.ended = false ∧ t.isTask = false ∧ t.groups ≤ t.left ∧ (∀ r ∈ s.cur :: s.others, r.g.id = 0 ∨ r.g.team ≠ 1) ∧
       s.teamBusy (1, t) = false) ∧
    (let s := { run4 with teams := [(1, { team0 with ended := true })] }
     ∃ c t, alFind s.clusters 1 = some c ∧ alFind s.tcbs c.tcb = some t ∧ (∀ p ∈ s.teams, p.2.cluster ≠ 1 ∨ p.2.ended = true) ∧ c.lo < c.hi ∧
       t.st = .running) ∧
    (let s := { half with clusters := [(1, { clus0 with ended := true })], frames := [] }
     ∃ t, alFind s.tcbs 1 = some t ∧ t.st = .running ∧ t.failed = false ∧ t.rolling = false ∧ t.pieces = [] ∧ t.tiles = [] ∧ s.launchStill 1 = true ∧
       (∀ p ∈ s.clusters, p.2.tcb ≠ 1 ∨ p.2.ended = true) ∧ (∀ p ∈ s.saved, p.2.tcb ≠ 1) ∧ ∀ p ∈ s.frames, p.2.tcb ≠ 1 ∧ p.2.owner ≠ .grid 1) ∧
    (let s := { half with tcbs := [(1, { tcb0 with failed := true })], streams := [strm] }
     ∃ t, alFind s.tcbs 1 = some t ∧ t.st = .running ∧ t.failed = true ∧ (s.discard 1).launchStill 1 = true) := by
  refine ⟨⟨by decide, rfl, by decide, by decide, by decide, rfl⟩, ⟨by decide +kernel, by decide +kernel⟩, by decide, ⟨rfl, rfl, rfl, by decide, by decide, rfl⟩,
    ⟨_, _, rfl, rfl, by decide, by decide, rfl⟩, ⟨_, rfl, rfl, rfl, rfl, rfl, rfl, by decide +kernel, by decide, ?_, ?_⟩, _, rfl, rfl, rfl, by decide +kernel⟩ <;>
    exact fun _ h => nomatch h

/-- The Lantern of die 0 is `l`; ROUTED of its descriptor is at 0x200040; die 0 has stamped `n` writes and applied none. -/
def lanSt (l : Lantern) (n : Nat := 0) : State :=
  { mst 8 with nst := if n = 0 then [] else [(0, n)], lanterns := [(0, l)], views := all5 (memAt 0x200000 (List.replicate 40 0 ++ leBytes 8 0x200040)) }

theorem feed_none (k n : Nat) (l : Lantern) (h : l.feeds = []) : l.feed k n = l := by
  cases n <;> simp [Lantern.feed, h]

/-- With no row on its way, the queue stands; only the count of the free values moves. -/
theorem lanSt_feed (l : Lantern) (n : Nat) (h : l.feeds = []) :
    (lanSt l n).feedGate 0 = { lanSt l n with lanterns := kvPut Lantern.idle [(0, l)] 0 l, tick := if l.rows = [] then 2 else 1 } := by
  unfold State.feedGate
  simp only [show kvGet Lantern.idle (lanSt l n).lanterns 0 = l from rfl, feed_none _ _ l h, show l.fed = 0 by simp [Lantern.fed, h],
    Nat.zero_add, Nat.mod_one, and_true]
  split <;> rfl

/-- A row to route, and one to count, at once and not; an unbound and a stopped Lantern; rows on their way; the ranks of a row. -/
theorem witness_Lanterns :
    (let l : Lantern := ⟨some (1, 0x200000), [[0x3F800000], [0]], 7, false, [], none, []⟩
     let u := ((lanSt l).feedGate 0).settle
     (kvGet Lantern.idle u.lanterns 0).desc = some (1, 0x200000) ∧ (kvGet Lantern.idle u.lanterns 0).rows = [0x3F800000] :: [[0]] ∧
       (kvGet Lantern.idle u.lanterns 0).owed = none ∧ u.homesReady = true) ∧
    (let l : Lantern := ⟨some (1, 0x200000), [[0x3F800000], [0]], 7, false, [], none, []⟩
     let u := ((lanSt l 1).feedGate 0).settle
     (kvGet Lantern.idle u.lanterns 0).rows = [0x3F800000] :: [[0]] ∧ u.homesReady = false) ∧
    (let l : Lantern := ⟨some (1, 0x200000), [], 7, false, [], some [4], []⟩
     let u := ((lanSt l 1).feedGate 0).settle
     (kvGet Lantern.idle u.lanterns 0).owed = some [4] ∧ u.homesReady = false) ∧
    (let l : Lantern := ⟨some (1, 0x200000), [], 7, false, [], some [4], []⟩
     let u := ((lanSt l).feedGate 0).settle
     (kvGet Lantern.idle u.lanterns 0).owed = some [4] ∧ u.homesReady = true ∧ (∀ w ∈ [4], u.appliedAtAll w 0x0F = true) ∧
       ∃ tr h, (u.asLantern 0 1).translate (dWord (u.bytesAt 0x200000 64) 40) .both = .ok tr ∧ homeOf tr.pa = some h ∧ tr.pa % 8 = 0 ∧
         u.unreadable tr.pa = false) ∧
    (let l : Lantern := ⟨none, [[0]], 0, true, [(3, [[1], [2]])], none, []⟩
     l.desc = none ∧ l.stop = true ∧ l.rows.length ≤ 512 ∧ (∀ f ∈ l.feeds, f.2 ≠ []) ∧ l.feeds ≠ []) ∧
    (let row := [0x3F800000, 0x7FC00000, 0x3F800000]
     (fp32.decode (row.getD 2 0)).isNan = false ∧ (fp32.decode (row.getD 1 0)).isNan = true ∧ selectExperts 1 3 row = [(0, 0x3F800000)]) := by
  refine ⟨?_, ?_, ?_, ?_, ⟨rfl, rfl, by decide, by decide, by decide⟩, by decide, by decide, by decide⟩
  · simp only [lanSt_feed ⟨some (1, 0x200000), [[0x3F800000], [0]], 7, false, [], none, []⟩ 0 rfl]
    exact ⟨rfl, rfl, rfl, rfl⟩
  · simp only [lanSt_feed ⟨some (1, 0x200000), [[0x3F800000], [0]], 7, false, [], none, []⟩ 1 rfl]
    exact ⟨rfl, rfl⟩
  · simp only [lanSt_feed ⟨some (1, 0x200000), [], 7, false, [], some [4], []⟩ 1 rfl]
    exact ⟨rfl, rfl⟩
  · simp only [lanSt_feed ⟨some (1, 0x200000), [], 7, false, [], some [4], []⟩ 0 rfl]
    exact ⟨rfl, by decide +kernel, by decide +kernel, ⟨0x200040, false, false, [0x200000000, 0x200001000, 0x200002000]⟩, _, rfl, rfl, rfl, rfl⟩

/-- The quarters: a group passed over, and a core whose quarter issued for a launch and one whose has not. -/
theorem witness_Quarters :
    (mst 8).cur.g.id ≠ 0 ∧ (mst 8).lastIssuer 0 0 = some 1 ∧ (mst 8).lastIssuer 191 3 = none :=
  ⟨by decide, by decide +kernel, by decide +kernel⟩

/-! ### Pre-emption, errors, rollback -/

/-- Reservations of launch 2 on every die, whole. -/
def allResv : List Reservation := (List.range 4).map fun d => ⟨d, 2, 0, 48 * d, 8, 6⟩

/-- The selected group waits for `w`; its launch has `t`. -/
def waits (w : Option Wait) (f : Tcb → Tcb) : State :=
  { (mst 8).setSl fun x => { x with wait := w, stopped := true } with tcbs := [(1, f tcb0)] }

/-- The team is stopped for its save, its slice at a clause boundary. -/
def stopped1 : State :=
  { (waits none id).setSl fun x => { x with clause := none } with teams := [(1, { team0 with stop := 1 })] }

/-- A unit of one cluster, one team and one group in its save area. -/
def unit1 : State :=
  { mst 8 with
    cur := ⟨Group.idle, Slice.idle .execute⟩, teams := [], clusters := []
    saved := [(9, stopped1.unitSaved [1] 1 1)] }

/-- The unit's launch is of class 0; one of class 1 is ready with a piece. -/
def unitAfter : State := { unit1 with tcbs := (2, { starved1 false with starved := [], kernel := kern0 }) :: unit1.tcbs }

/-- Launch 1 has a piece that no core may take; its group waits in wphase. -/
def stuck : State := { waits (some .wphase) fun t => { t with pieces := [(1, 2)] } with resv := allResv }

/-- No team; a team whose group waits for the answer to a fault record; one on cores reserved for a gang of a higher class;
one that stands; one that waits in a phase beside a piece that no rectangle takes. -/
theorem witness_Stops :
    alFind (mst 8).teams 2 = none ∧
    (let s := waits (some .keep) fun t => { t with xfault := some ⟨0, 0, 0⟩ }
     alFind s.teams 1 = some team0 ∧ team0.ended = false ∧ team0.stop = 0 ∧ s.unitFaulted 1 (s.unitOf 1) = true) ∧
    (let s := { waits none id with resv := [⟨0, 2, 0, 0, 1, 1⟩], tcbs := [(1, tcb0), (2, { tcb0 with packet := .ofNat 512 (2 ^ (8 * 36) + 2 ^ (8 * 37 + 1)) })] }
     s.gangWants team0 = true ∧ s.unitFaulted 1 (s.unitOf 1) = false) ∧
    ¬((mst 8).unitFaulted 1 ((mst 8).unitOf 1) = true ∨ (mst 8).gangWants team0 = true) ∧
    (let s := stuck
     ∃ c, alFind s.tcbs 1 = some c ∧ c.kernel.cores = false ∧ s.phaseWaits [1] = true ∧ s.pieceStuck 1 c = true ∧
       ∀ p ∈ s.teams, p.2.tcb = 1 → p.2.ended = false → p.2.stop = 0 → p.2.placed < team0.placed → p.2.cluster ≠ 1 → s.phaseWaits [p.2.cluster] = false) ∧
    (mst 8).phaseWaits [1] = false :=
  ⟨rfl, ⟨rfl, rfl, rfl, rfl⟩, ⟨rfl, rfl⟩, by decide, ⟨_, rfl, rfl, rfl, by decide +kernel, by decide⟩, rfl⟩

/-- A unit at rest and one that is not; a saved unit: none, one that no core takes, the first, one behind a piece. -/
theorem witness_SavesAndRestores :
    alFind stopped1.teams 2 = none ∧
    (alFind stopped1.teams 1 = some { team0 with stop := 1 } ∧ stopped1.unitReady (stopped1.unitOf 1) = true ∧ (mst 8).unitReady ((mst 8).unitOf 1) = false) ∧
    alFind (seen unit1).saved 8 = none ∧
    (let u := (seen unit1)
     ∃ x t v, alFind u.saved 9 = some x ∧ alFind u.tcbs x.tcb = some t ∧ u.restored (9, x) 100 = some v ∧ u.unitGoesFirst 100 x.tcb t (some x.order) = false ∧
       (∀ e ∈ u.fitting 100, e.1 = x.tcb ∨ tcbBefore (e.1, e.2.1) (x.tcb, t) = false) ∧ t.st = .running ∧ t.rolling = false ∧
       x.clusters = [(1, clus0)] ∧ x.teams = [(1, { team0 with stop := 1 })] ∧ x.groups ≠ []) ∧
    (∃ x, alFind (seen { unit1 with resv := allResv }).saved 9 = some x ∧ (seen { unit1 with resv := allResv }).restored (9, x) 100 = none) ∧
    (let u := (seen unitAfter)
     ∃ x t v, alFind u.saved 9 = some x ∧ alFind u.tcbs x.tcb = some t ∧ u.restored (9, x) 100 = some v ∧
       ¬∀ e ∈ u.fitting 100, e.1 = x.tcb ∨ tcbBefore (e.1, e.2.1) (x.tcb, t) = false) := by
  refine ⟨rfl, ⟨rfl, rfl, rfl⟩, rfl, ⟨_, _, _, rfl, rfl, rfl, rfl, ?_, rfl, rfl, rfl, rfl, ?_⟩, ⟨_, rfl, by decide +kernel⟩, _, _, _, rfl, rfl, rfl, by decide +kernel⟩
  · exact fun _ h => nomatch h
  · exact fun h => nomatch h

/-- Sources and cores at the ends of their ranges; a launch whose context logs what is corrected and one whose does not; a
held line at the address; another coupled team on the core. -/
theorem witness_Errors :
    (mst 8).logsCorrected 1 = false ∧
      ({ mst 8 with ctxs := [(1, CtxState.fresh { rec0 with logCorrected := true })] } : State).logsCorrected 1 = true ∧
      alFind (mst 8).tcbs 1 = some tcb0 ∧ tcb0.st = .running ∧ tcb0.rolling = false ∧
      (let s := { mst 8 with belfry := [⟨0, 0x200000, 1, 0, []⟩] }
       ∃ l ∈ s.belfry, l.line = (0x20000F#64).toNat / 64 * 64 ∧ (1 : Nat) = (0x20000F#64).toNat % 64 / 8) ∧
      alFind (mst 8).teams 1 = some team0 ∧ team0.core = 0 ∧ team0.ended = false ∧ team0.tcb ≠ 2 ∧ tcb0.kernel.detached = false ∧
      team0.cluster ∈ (mst 8).unitOf 1 :=
  ⟨rfl, rfl, rfl, rfl, rfl, ⟨_, List.mem_singleton_self _, by decide, by decide⟩, rfl, rfl, rfl, by decide, rfl, by decide⟩

/-- Launch 1 is to be rolled back. -/
def roll (n : Nat) (unprot : Bool) : State := waits none fun t => { t with rolling := true, replays := n, unprot := unprot, why := (3, 191, 5) }

/-- The last replay left and none; a launch that is unprotected; work outstanding and none, with a snapshot to copy back; a
launch that is not to be rolled back. -/
theorem witness_Rollback :
    (∃ t, alFind (roll 2 false).tcbs 1 = some t ∧ t.rolling = true ∧ t.st = .running ∧ t.failed = false) ∧
    ((roll 2 false).rollSet (roll 2 false).tcbs.length [1] = [1] ∧ (roll 3 false).rollSpent [1] = true ∧ (roll 2 false).rollSpent [1] = false ∧
      (roll 2 true).rollFails [1] = true ∧ (roll 2 false).rollFails [1] = false ∧ (roll 2 false).rollDrained [1] = false) ∧
    (let s := { (roll 2 false).setSl fun x => { x with ended := true } with snaps := [⟨1, 0x200000, [], [], 3⟩] }
     s.rollSpent [1] = false ∧ s.rollFails [1] = false ∧ s.rollDrained [1] = true) ∧
    ∀ t, alFind (mst 8).tcbs 1 = some t → t.rolling = false ∨ t.st ≠ .running ∨ t.failed = true := by
  refine ⟨⟨_, rfl, rfl, rfl, rfl⟩, ⟨rfl, by decide, by decide, by decide, by decide, by decide⟩, ⟨by decide, by decide, by decide⟩, fun t h => ?_⟩
  have h : some tcb0 = some t := h
  cases h
  exact .inl rfl

/-- The third rollback replays a launch and counts it; a fourth is to come. -/
theorem witness_ReplayLimit :
    (match exec (.rollback 1) ((roll 2 false).setSl fun x => { x with ended := true }) with
      | .next v => (alFind v.tcbs 1).map (·.replays)
      | _ => none) = some 3 ∧
    ∃ t, alFind (roll 3 false).tcbs 1 = some t ∧ t.rolling = true ∧ t.st = .running ∧ 3 ≤ t.replays ∧ t.failed = false :=
  ⟨by decide +kernel, _, rfl, rfl, rfl, by decide, rfl⟩

/-! ### The package -/

def portSt (p : Port) : State := { mst 8 with ports := [(63, p)], halted := [3], mhz := [(3, 1300)], fwpend := [(0, 0x1000, 7, 5)] }

/-- Ports that carry traffic, seven replays and eight, one that trains, one that is down; dies that are halted and not, with a
clock to lower and without; a Keep that boots and one that is up; firmware that waits, with its target idle and not; a warm reset that waits
for a port and one that does not; a context that asks for what is corrected. -/
theorem witness_PackageSteps :
    (let s := portSt ⟨2, 4, 1, 7, 0⟩
     2 ≤ (s.port 63).state ∧ (s.port 63).replays < 8 ∧ (s.port 0).state < 2 ∧ 2 ∉ s.halted ∧ 3 ∈ s.halted ∧
       1200 < s.clockMHz 3 ∧ s.fwpend.find? (fun p => p.1 == 0) = some (0, 0x1000, 7, 5) ∧ s.fwpend.find? (fun p => p.1 == 1) = none ∧ s.kstate ≠ 0 ∧
       ∀ r ∈ s.cur :: s.others, r.g.id = 0 ∨ r.sl.kind ≠ targetKind 0 ∨ r.sl.ended = true) ∧
    (2 ≤ ((portSt ⟨3, 4, 1, 8, 0⟩).port 63).state ∧ 8 ≤ ((portSt ⟨3, 4, 1, 8, 0⟩).port 63).replays) ∧ ((portSt ⟨1, 4, 1, 0, 0⟩).port 63).state = 1 ∧ State.reset.kstate = 0 ∧
    ({ mst 8 with mhz := [(3, 1200)] } : State).clockMHz 3 ≤ 1200 ∧
    (let s := (portSt ⟨1, 4, 1, 0, 0⟩).setSl fun x => { x with kind := .keep }
     ∃ r ∈ s.cur :: s.others, r.g.id ≠ 0 ∧ r.sl.kind = targetKind 0 ∧ r.sl.ended = false) ∧
    (let s := { portSt ⟨1, 4, 1, 0, 0⟩ with pend := some (1, 12, 0) }
     s.pend = some (1, 12, 0) ∧ s.kstate = 1 ∧ s.hlink.state ≠ 1 ∧ (¬∀ p ∈ s.ports, p.2.state ≠ 1) ∧
       ∀ p ∈ ({ s with ports := [(63, ⟨2, 4, 1, 0, 0⟩)] } : State).ports, p.2.state ≠ 1) ∧
    (mst 8).pend = none ∧ ((mst 8).ctxs.any fun c => c.2.r.logCorrected) = false ∧
    (({ mst 8 with ctxs := [(1, CtxState.fresh { rec0 with logCorrected := true })] } : State).ctxs.any fun c => c.2.r.logCorrected) = true :=
  ⟨⟨by decide, by decide, by decide, by decide, by decide, by decide, rfl, rfl, by decide, by decide⟩, ⟨by decide, by decide⟩, rfl, rfl, by decide,
    ⟨_, List.mem_cons_self, by decide, rfl, rfl⟩, ⟨rfl, rfl, by decide, by decide, by decide⟩, rfl, rfl, rfl⟩

/-- SHA3-256 of no bytes and of "abc" (FIPS 202). -/
theorem test_sha3 : sha3 [] = 0x4a43f8804b0ad882fa493be44dff80f562d661a05647c15166d71ebff8c6ffa7 ∧
    sha3 [0x61, 0x62, 0x63] = 0x3215431145e2bf465b529d3e6e085f85bd90d36b2d175c04b225e24fa75d983a := by decide +kernel

/-- A Keep that runs and listens; operands of the settings at both ends of their ranges; a record with a bag that is new, the
homes ready and not; one with seventeen queues. -/
theorem witness_Settings :
    (let w := (mst 8).settlePend
     Claims.listens w ∧ keptBags [] rec0.bags = [] ∧ (alFind w.ctxs 1).isSome = true ∧ (alFind w.ctxs 2).isSome = false ∧ w.paValid 0x200000 = true ∧ w.paValid (0x901 * 2 ^ 40) = false ∧
       (∀ q ∈ rec0.queues, ringCapOk q.cap = true) ∧ rec0.queues.length ≤ 16 ∧ newBags [] rec0.bags = [] ∧ w.homesReady = true) ∧
    (let r := { rec0 with bags := [(0, 64)] }
     bagParamOk 0 = true ∧ newBags [] r.bags ≠ [] ∧ ({ mst 8 with nst := [(0, 1)] } : State).settlePend.homesReady = false ∧
       Claims.listens ({ mst 8 with nst := [(0, 1)] } : State).settlePend) ∧
    ¬(List.replicate 17 (⟨0x20000, 16, 0x30000⟩ : QueueRec)).length ≤ 16 ∧
    (let p := fun v : BitVec 64 => v.toNat / 2 ^ 16 % 2 ^ 16
     p (60 * 2 ^ 16) = 60 ∧ p (59 * 2 ^ 16) = 59 ∧ p (43200 * 2 ^ 16) = 43200 ∧ p (43201 * 2 ^ 16) = 43201 ∧
       (43201 * 2 ^ 16 : BitVec 64).toNat / 2 ^ 33 = 0 ∧ (2 ^ 33 : BitVec 64).toNat / 2 ^ 33 ≠ 0) := by
  refine ⟨⟨⟨rfl, rfl, rfl⟩, rfl, rfl, rfl, rfl, rfl, ?_, ?_, rfl, rfl⟩, ⟨?_, ?_, rfl, ⟨rfl, rfl, rfl⟩⟩, ?_, ?_⟩ <;> decide

/-- A Keep that runs, and one that has halted; addresses where a record can and cannot be written; a nonce that can and cannot
be read; a file that is none, and one that is there and is no firmware. -/
theorem witness_SummaryReports :
    (let w := (mst 8).settlePend
     w.recordOk 0x200000 4096 = true ∧ w.recordOk 0x200000 3072 = true ∧ w.recordOk 0x200000 64 = true ∧ w.recordOk 0x200000 32 = true ∧
       w.recordOk (0x901 * 2 ^ 40) 4096 = false ∧ w.recordOk (0x901 * 2 ^ 40) 32 = false ∧ (∃ b, w.homeBytes (w.ownRegion 0x200000) 32 = some b) ∧
       ∃ h, w.homeBytes (w.ownRegion 0x200000) 64 = some h ∧ w.recordOk 0x200000 (recNum h 4 8) = true ∧
         ∃ b, w.homeBytes (w.ownRegion 0x200000) (recNum h 4 8) = some b ∧ firmwareOk b = false) ∧
    ({ mst 8 with poison := [⟨0x200000, 0, []⟩] } : State).settlePend.homeBytes 0x200000 32 = none ∧
    ({ mst 8 with kstate := 3 } : State).settlePend.kstate = 3 := by
  refine ⟨⟨rfl, rfl, rfl, rfl, rfl, rfl, ⟨_, rfl⟩, _, rfl, ?_, _, rfl, ?_⟩, ?_, rfl⟩ <;> decide +kernel

/-- The group has a load whose access is not performed, and one whose access is; an engine operation and a loader with remote
data still out; a launch with and without a fault record; a launch that runs, and no launch; a core with and without a team;
coupled teams there; a Keep that has a command outstanding. -/
theorem witness_Interventions :
    (let w := (outSt (mst 8) (.load .nowhere)).settlePend
     Claims.listens w ∧ ∃ r ∈ w.cur :: w.others, ∃ o ∈ r.allOps, o.id < w.nextId ∧ ∃ a ∈ o.acc, a.st ≠ .done ∧ a.st ≠ .bad) ∧
    (let w := (mst 8).settlePend
     (¬∃ r ∈ w.cur :: w.others, ∃ o ∈ r.allOps, o.id < w.nextId ∧ ∃ a ∈ o.acc, a.st ≠ .done ∧ a.st ≠ .bad) ∧
       (alFind w.tcbs 1).bind (·.xfault) = none ∧ alFind w.tcbs 1 = some tcb0 ∧ tcb0.st = .running ∧ (alFind w.tcbs 2).map (·.st) ≠ some .running ∧
       w.teamsOn 191 = [] ∧ w.teamsOn 0 = [(1, team0)] ∧ (∀ c ∈ w.cores, ∀ q ∈ c.2.eq, q.2 = []) ∧ w.streams = [] ∧ Claims.coupled w team0 ∧ team0.stop = 0 ∧ team0.cluster ∈ w.unitOf 1 ∧ team0.tcb ≠ 4096) ∧
    (let w := (eng { eop 1 [] 0 0 with remote := [(0, 0, 0)] }).settlePend
     Claims.listens w ∧ ∃ c ∈ w.cores, ∃ q ∈ c.2.eq, ∃ o ∈ q.2, o.id < w.nextId ∧ o.remote ≠ []) ∧
    (let w := ({ est [] with streams := [{ strm with writes := [9] }], writes := [{ pw with at' := 0, ord := 0 }] } : State).settlePend
     Claims.listens w ∧ ∃ y ∈ w.streams, y.id < w.nextId ∧ ∃ x ∈ y.writes, w.atHome x = false) ∧
    (let w := (waits (some .keep) fun t => { t with xfault := some ⟨0, 0, 0⟩ }).settlePend
     Claims.listens w ∧ (alFind w.tcbs 1).bind (·.xfault) ≠ none) ∧
    (({ mst 8 with pend := some (1, 5, 1), teams := [(1, { team0 with stop := 4 })] } : State).settlePend.pend ≠ none) ∧
    (({ mst 8 with kstate := 3 } : State).settlePend.kstate ≠ 1 ∧ ({ mst 8 with kstate := 3 } : State).settlePend.kstate = 3 ∧
      Claims.commandOf (.wreset 0) = some (0, .wreset)) := by
  refine ⟨⟨⟨rfl, rfl, rfl⟩, _, List.mem_cons_self, _, List.mem_cons_self, by decide, _, List.mem_cons_self, by decide, by decide⟩,
    ⟨by decide, rfl, rfl, rfl, ?_, rfl, rfl, ?_, rfl, ⟨_, rfl, rfl⟩, rfl, by decide, by decide⟩,
    ⟨⟨rfl, rfl, rfl⟩, _, List.mem_cons_self, _, List.mem_cons_self, _, List.mem_cons_self, ?_, ?_⟩,
    ⟨⟨rfl, rfl, rfl⟩, _, List.mem_cons_self, ?_, 9, ?_, ?_⟩, ⟨⟨rfl, rfl, rfl⟩, ?_⟩, ?_, ?_, rfl, rfl⟩ <;> decide

/-- Commands that wait, in a Keep that runs and in one that has halted; a command that is outstanding, a warm reset that
drains and one that may reset. -/
theorem witness_GoesOn :
    (let s := { mst 8 with cmds := [(1, .summary 0x200000), (2, .wreset)] }
     s.settlePend.pend = none ∧ s.settlePend.cmds = [(1, .summary 0x200000), (2, .wreset)] ∧ s.settlePend.kstate = 1 ∧
       ({ s with kstate := 3 } : State).settlePend.kstate ≠ 1) ∧
    (let s := { mst 8 with pend := some (1, 12, 0), kstate := 2 }
     s.settlePend.pend = some (1, 12, 0) ∧ s.settlePend.kstate = 2 ∧ s.settlePend.writes = [] ∧ ({ s with writes := [pw] } : State).settlePend.writes ≠ []) ∧
    (let s := { mst 8 with pend := some (1, 5, 1), teams := [(1, { team0 with stop := 4 })] }
     ∃ p, s.settlePend.pend = some p ∧ p.2.1 ≠ 12) := by
  refine ⟨⟨rfl, rfl, rfl, ?_⟩, ⟨rfl, rfl, rfl, ?_⟩, _, rfl, ?_⟩ <;> decide

end Sys2Proof.Tests
end

section
/-! SUPPORT. Every instruction and every step answers a next state (00, R4; 02, R36; 20, R345-R349): one lemma for each shared
operation that gives an outcome, then the instructions and the step. -/

namespace Sys2Proof.Machine

/-! ## Outcomes -/

section
variable {σ φ ρ : Type}

theorem goesOn_next (t : σ) : GoesOn (.next t : Host.Outcome σ φ ρ) := ⟨t, rfl⟩

theorem goesOn_ite {c : Prop} [Decidable c] {a b : Host.Outcome σ φ ρ} (ha : GoesOn a) (hb : GoesOn b) :
    GoesOn (if c then a else b) := by
  split
  · exact ha
  · exact hb

end

/-! ## Operations that give a word's outcome -/

section
variable (s : State)

theorem State.doFence_goesOn (c : BitVec 5) (k : BitVec 2) (q : BitVec 8) (f : BitVec 1) : GoesOn (s.doFence c k q f) := by
  refine goesOn_ite (goesOn_next _) ?_
  cases s.scope c.toNat with
  | ok r => exact goesOn_ite (goesOn_next _) (goesOn_next _)
  | trap | denied | stall => exact goesOn_next _

theorem State.finishBar_goesOn (d : BitVec 7) (o : BitVec 3) (f : Option Nat) (v : W64) : GoesOn (s.finishBar d o f v) := by
  refine goesOn_ite (goesOn_next _) ?_
  cases s.writeName s.cur.g d.toNat s.exec' (tab fun _ => v) <;> exact goesOn_next _

theorem State.matOutcome_goesOn (r : Res State) : GoesOn (s.matOutcome r) := by
  unfold State.matOutcome
  split
  · exact goesOn_next s
  · cases r with
    | ok t => exact goesOn_ite (goesOn_next _) (goesOn_next _)
    | trap | denied | stall => exact goesOn_next _

theorem State.bagWord_goesOn (f : Option Nat) (k : OpKind) (va : Option W64) (check : Res Unit) :
    GoesOn (s.bagWord f k va check) := by
  unfold State.bagWord
  split
  · exact goesOn_next s
  · refine goesOn_ite (goesOn_next _) ?_
    cases check <;> exact goesOn_next _

theorem State.command_goesOn (tag : BitVec 32) (c : Command) : GoesOn (s.command tag c) :=
  goesOn_ite (goesOn_next _) (goesOn_ite (goesOn_next _) (goesOn_next _))

/-! ## Operations that pass a word on to the rest of its checks -/

theorem State.inTeam_goesOn (f : BitVec 1) {k : Team → Host.Outcome State Fault Refusal} (h : ∀ t, GoesOn (k t)) :
    GoesOn (s.inTeam f k) := by
  refine goesOn_ite (goesOn_next _) (goesOn_ite (goesOn_next _) ?_)
  cases s.team? with
  | none => exact goesOn_next _
  | some t => exact h t

theorem State.inRing_goesOn (t : Team) (n : Nat) {k : Ring → Host.Outcome State Fault Refusal} (h : ∀ r, GoesOn (k r)) :
    GoesOn (s.inRing t n k) := by
  unfold State.inRing
  split
  · exact goesOn_next _
  · exact h _

variable {k : Host.Outcome State Fault Refusal} (h : GoesOn k)
include h

theorem State.inBars_goesOn (t : Team) (b : Nat) : GoesOn (s.inBars t b k) := goesOn_ite (goesOn_next _) h

theorem State.inTqs_goesOn (t : Team) (q : Nat) : GoesOn (s.inTqs t q k) := goesOn_ite (goesOn_next _) h

theorem State.destNext_goesOn (n : Nat) : GoesOn (s.destNext n k) := goesOn_ite (goesOn_next _) h

theorem State.mailbox_goesOn (m : BitVec 4) (f : BitVec 1) : GoesOn (s.mailbox m f k) :=
  goesOn_ite (goesOn_next _) (goesOn_ite (goesOn_next _) h)

end

/-! ## Words with outcomes of their own -/

section
variable (s : State)

theorem execBar_goesOn (d : BitVec 7) (b : BitVec 9) (o : BitVec 3) (f : BitVec 1) : GoesOn (execBar d b o f s) := by
  refine s.inTeam_goesOn f fun t =>
    goesOn_ite (goesOn_next _) (goesOn_ite (goesOn_next _) (s.inBars_goesOn ?_ t b.toNat))
  split
  · exact s.finishBar_goesOn ..
  · exact goesOn_next s
  · refine goesOn_ite (goesOn_next _) (goesOn_ite (goesOn_next _) ?_)
    dsimp only
    split
    · exact State.finishBar_goesOn ..
    · exact goesOn_next _

theorem execBarinit_goesOn (r b : BitVec 9) (f : BitVec 1) : GoesOn (execBarinit r b f s) :=
  s.inTeam_goesOn f fun t =>
    goesOn_ite (goesOn_next _) (s.inBars_goesOn (goesOn_ite (goesOn_next _) (goesOn_next _)) t b.toNat)

theorem execBarsig_goesOn (b : BitVec 9) (f : BitVec 1) : GoesOn (execBarsig b f s) :=
  s.inTeam_goesOn f fun t =>
    s.inBars_goesOn (goesOn_ite (goesOn_next _) (goesOn_ite (goesOn_next _) (goesOn_next _))) t b.toNat

theorem execBarwait_goesOn (b : BitVec 9) (f : BitVec 1) : GoesOn (execBarwait b f s) :=
  s.inTeam_goesOn f fun t =>
    s.inBars_goesOn (goesOn_ite (goesOn_next _) (goesOn_ite (goesOn_next _) (goesOn_next _))) t b.toNat

theorem execGbar_goesOn (r b : BitVec 9) (f : BitVec 1) : GoesOn (execGbar r b f s) := by
  refine s.inTeam_goesOn f fun _ => goesOn_ite (goesOn_next _) ?_
  split
  · refine goesOn_ite (goesOn_next _) ?_
    dsimp only
    split
    · exact goesOn_ite (goesOn_next _) (goesOn_next _)
    · exact goesOn_ite (goesOn_next _) (goesOn_next _)
  · exact goesOn_next _

theorem execQpush_goesOn (r : BitVec 9) (q : BitVec 6) (f : BitVec 1) : GoesOn (execQpush r q f s) :=
  s.inTeam_goesOn f fun t =>
    s.inTqs_goesOn (goesOn_ite (goesOn_next _) (goesOn_ite (goesOn_next _) (goesOn_ite (goesOn_next _) (goesOn_next _))))
      t q.toNat

theorem execQpop_goesOn (r : BitVec 9) (q : BitVec 6) (f : BitVec 1) : GoesOn (execQpop r q f s) :=
  s.inTeam_goesOn f fun t =>
    s.destNext_goesOn (s.inTqs_goesOn (goesOn_ite (goesOn_next _) (goesOn_next _)) t q.toNat) r.toNat

theorem execQtry_goesOn (r : BitVec 9) (q : BitVec 6) (f : BitVec 1) : GoesOn (execQtry r q f s) :=
  s.inTeam_goesOn f fun t =>
    s.destNext_goesOn (s.inTqs_goesOn (goesOn_ite (goesOn_next _) (goesOn_next _)) t q.toNat) r.toNat

theorem execQallow_goesOn (r : BitVec 9) (q : BitVec 6) (f : BitVec 1) : GoesOn (execQallow r q f s) :=
  s.inTeam_goesOn f fun t => s.inTqs_goesOn (goesOn_ite (goesOn_next _) (goesOn_next _)) t q.toNat

theorem execRingpub_goesOn (g : BitVec 4) (a : BitVec 9) (f : BitVec 1) : GoesOn (execRingpub g a f s) := by
  refine s.inTeam_goesOn f fun t => s.inRing_goesOn t g.toNat fun r => ?_
  split
  · exact goesOn_next _
  · exact goesOn_ite (goesOn_next _) (goesOn_next _)

theorem execRingwait_goesOn (d : BitVec 9) (g : BitVec 4) (a : BitVec 9) (f : BitVec 1) : GoesOn (execRingwait d g a f s) :=
  s.inTeam_goesOn f fun t => s.destNext_goesOn (s.inRing_goesOn t g.toNat fun _ =>
    goesOn_ite (goesOn_ite (goesOn_next _) (goesOn_next _))
      (goesOn_ite (goesOn_next _) (goesOn_ite (goesOn_next _) (goesOn_ite (goesOn_next _) (goesOn_next _))))) d.toNat

theorem execRingadv_goesOn (d : BitVec 9) (g : BitVec 4) (a : BitVec 9) (f : BitVec 1) : GoesOn (execRingadv d g a f s) :=
  s.inTeam_goesOn f fun t => s.destNext_goesOn (s.inRing_goesOn t g.toNat fun _ =>
    goesOn_ite (goesOn_next _) (goesOn_ite (goesOn_next _) (goesOn_next _))) d.toNat

theorem execMbrd_goesOn (d : BitVec 9) (m : BitVec 4) (f : BitVec 1) : GoesOn (execMbrd d m f s) := by
  refine s.destNext_goesOn (s.mailbox_goesOn ?_ m f) d.toNat
  split
  · exact goesOn_next _
  · exact goesOn_ite (goesOn_next _) (goesOn_next _)

theorem execMbwr_goesOn (d : BitVec 9) (m : BitVec 4) (f : BitVec 1) : GoesOn (execMbwr d m f s) := by
  refine s.mailbox_goesOn ?_ m f
  split
  · exact goesOn_ite (goesOn_next _) (goesOn_next _)
  · split <;> exact goesOn_next _

theorem execMbtry_goesOn (d : BitVec 9) (m : BitVec 4) (f : BitVec 1) : GoesOn (execMbtry d m f s) := by
  refine goesOn_ite (goesOn_next _) (s.destNext_goesOn (s.destNext_goesOn (s.mailbox_goesOn ?_ m f) (d.toNat + 1)) d.toNat)
  split <;> exact goesOn_next _

theorem execVpop_goesOn (d : BitVec 7) (q : BitVec 2) (f : BitVec 1) : GoesOn (execVpop d q f s) := by
  refine goesOn_ite (goesOn_next _) (goesOn_ite (goesOn_next _) (goesOn_ite (goesOn_next _) ?_))
  split
  · exact goesOn_next _
  · refine goesOn_ite (goesOn_next _) (goesOn_ite (s.runCur_goesOn _) (goesOn_ite (goesOn_next _) ?_))
    split
    · exact goesOn_next s
    · exact goesOn_ite (State.runCur_goesOn _ _) (goesOn_next _)

theorem execMatrixWordComplete_goesOn (core op mismatches : Nat) : GoesOn (execMatrixWordComplete core op mismatches s) := by
  unfold execMatrixWordComplete
  dsimp only
  split
  · exact goesOn_next s
  · exact goesOn_ite (goesOn_next _) (goesOn_ite (goesOn_next _) (goesOn_next _))

end

/-! ## The instructions -/

/-- Every instruction answers a next state.  The cases stand together by the operation that gives
their outcome; the last ones branch in their own definitions, and each branch ends in a next state. -/
theorem exec_goesOn (i : Instr) (s : State) : GoesOn (exec i s) := by
  cases i
  case sysrd | syswr | fent | fexit | fdisp | fpub | add | sub | mul | mulh | mulhu | div | divu | rem | remu | and |
      or | xor | andn | shl | shr | sar | rot | min | max | minu | maxu | slt | sltu | seq | sel | clz | ctz | popc |
      addi | andi | ori | xori | shli | shri | sari | slti | sltui | seqi | muli | movi | movhi | ldpc | xgetW8 |
      xgetW16 | xgetW32 | xgetW64 | xballot | vld | vst | vldu | vstu | vlds | vsts | vldsu | vstsu | sld | sst | sldw
      | fld | fst | fldb | flda | famo | vstb | aadd | aand | aor | axor | amin | amax | aswap | acas | redadd |
      redmin | redmax | fredadd | mset | mzero | mpar | mdrain | mdrainv | msoft | mside | macq | mrel | mrelf | mred
      | cpy | gath | scat | chain | ringsub | unsub | pull | tlook | tfill | tevict | tinval | coll | oldu | oldg |
      spawn | spawnr | rtake | launch | tcbdec | eplan | tself | fcont =>
    exact s.run_goesOn _
  case pcvrd | pcvwr | trpv | vadd | vsub | vaddss | vaddsu | vsubss | vsubsu | vmul | vmulh | vmulhu | vmad | vmin |
      vmax | vminu | vmaxu | vand | vor | vxor | vandn | vshl | vshr | vsar | vrot | vceq | vclt | vcltu | vsel | vclz
      | vpopc | vabs | vdot4 | vmov | vwiden | vnarrow | vlid | vaddi | vshli | vshri | vsari | vandi | vmovi | vceqi
      | vaddS | vsubS | vmulS | vminS | vmaxS | vandS | vmovS | vceqS | vcltS | faddF32 | fsubF32 | fmulF32 | ffmaF32
      | ffmsF32 | fminF32 | fmaxF32 | fabsF32 | fnegF32 | fceqF32 | fcltF32 | fcleF32 | faddBf16 | fmulBf16 | ffmaBf16
      | fdot2Bf16 | faddF16 | fmulF16 | ffmaF16 | fdot2F16 | faddF64 | fmulF64 | ffmaF64 | fcvtF32Bf16 | fcvtBf16F32 |
      fcvtF32F16 | fcvtF16F32 | fcvtF32E4m3 | fcvtE4m3F32 | fcvtF32E5m2 | fcvtE5m2F32 | fcvtF32I32 | fcvtI32F32 |
      fcvtI32F32z | fcvtF64F32 | fcvtF32F64 | xshfl | xswz | xrot | xbcast | xredadd | xredmin | xredmax | xfredaddF32
      | xfredmaxF32 | xscan | xfscanF32 | xzip | xunzip | xputW8 | xputW16 | xputW32 | xputW64 | srcp | srsqrt | ssqrt
      | sexp2 | slog2 | sexp | ssinpi | scospi | stanh | ssigm | sladd | slsub | slmul | sldiv | slrcp | slneg | slabs
      | slexp | sllog | slmin | slmax | slceq | slclt | slsqrt | slcvtSlF32 | slcvtF32Sl | slcvtSlF64 | slcvtF64Sl |
      slcvtSl16Sl32 | slcvtSl32Sl16 | sllvl =>
    exact s.runCur_goesOn _
  case bra | bz | bnz | bneg | bnneg | bvz | bvnz | call | callr | jmpr | ret | exit | vpark | yield | wphase =>
    exact s.runBranch_goesOn _
  case summary | ctxset | inval | resolve | preempt | routebind | clrsuspect | domain | route | fwload | attest |
      wreset | scrub | aaefence | corestat =>
    exact s.command_goesOn _ _
  case bput | bputl | bnew | bnext | bwrite | bdrain | bcount | bcounts | bgrow | bfree | bseal | biter =>
    dsimp only [exec, execBput, execBputl, execBnew, execBnext, execBwrite, execBdrain, execBcount, execBcounts, execBgrow,
      execBfree, execBseal, execBiter, State.bagScalar]
    exact s.bagWord_goesOn _ _ _ _
  case mma | mmaz =>
    exact s.matOutcome_goesOn _
  case fence | qfence =>
    exact s.doFence_goesOn _ _ _ _
  case bar => exact execBar_goesOn ..
  case barinit => exact execBarinit_goesOn ..
  case barsig => exact execBarsig_goesOn ..
  case barwait => exact execBarwait_goesOn ..
  case gbar r b f => exact execGbar_goesOn s r b f
  case qpush => exact execQpush_goesOn ..
  case qpop => exact execQpop_goesOn ..
  case qtry => exact execQtry_goesOn ..
  case qallow => exact execQallow_goesOn ..
  case ringpub => exact execRingpub_goesOn ..
  case ringwait => exact execRingwait_goesOn ..
  case ringadv => exact execRingadv_goesOn ..
  case mbrd => exact execMbrd_goesOn ..
  case mbwr => exact execMbwr_goesOn ..
  case vpop => exact execVpop_goesOn ..
  case mbtry => exact execMbtry_goesOn ..
  case matrixWordComplete => exact execMatrixWordComplete_goesOn ..
  case rpt | trap | brk | rdPacket | wrPacket | atmPacket | memoryReply | refreshComplete | schedAgingBoost |
      remoteTimeout =>
    exact goesOn_next _
  case launchDoorbell | scoreboardSquash | flitCrcError | portRetrain | retrainComplete | thermalHalt | thermalResume
      | powerLimitThrottle | bringUp | perBankRefresh | aaeLastingFault =>
    exact goesOn_ite (goesOn_next _) (goesOn_next _)
  case clauseHeader | patrolScrub =>
    exact goesOn_ite (goesOn_next _) (goesOn_ite (goesOn_next _) (goesOn_next _))
  case rfe | uncorrectableLoadTrap | load | drain | apply | atomic | publish | engineOpStart | engineOpComplete |
      subscriptionAccept | loaderPublish | storerStore | oqEntryArrive | lanternGateRow | launchAccept | piecePlace |
      pieceSplit | gangStarve | crPop | groupLeave | preemption | preemptSave | unitResume | wphaseSpill |
      storageEccError | rollback | fabricDeliver | hostAccess | firmwareSwap | placementHomeApply =>
    dsimp only [exec, execRfe, execUncorrectableLoadTrap, execLoad, execDrain, execApply, execAtomic, execPublish,
      execEngineOpStart, execEngineOpComplete, execSubscriptionAccept, execLoaderPublish, execStorerStore,
      execOqEntryArrive, execLanternGateRow, execLaunchAccept, execPiecePlace, execPieceSplit, execGangStarve,
      execCrPop, execGroupLeave, execPreemption, execPreemptSave, execUnitResume, execWphaseSpill,
      execStorageEccError, execRollback, execFabricDeliver, execHostAccess, execFirmwareSwap, execPlacementHomeApply]
    repeat' split
    all_goals exact goesOn_next _

/-! ## The step -/

section
variable (s : State)

theorem State.runWord_goesOn (cls w : Nat) : GoesOn (s.runWord cls w) := by
  unfold State.runWord
  split
  · exact goesOn_next _
  · exact goesOn_ite (goesOn_next _) (goesOn_ite (goesOn_next _) (exec_goesOn _ s))

theorem State.runClause_goesOn (c : Clause) : GoesOn (s.runClause c) := by
  refine goesOn_ite ?header (goesOn_ite ?rpt ?word)
  case header =>
    split
    · exact goesOn_next _
    · exact exec_goesOn _ s
  case rpt =>
    split
    · exact goesOn_ite (exec_goesOn _ s) (goesOn_next _)
    · exact goesOn_next _
  case word =>
    split
    · exact goesOn_next _
    · exact goesOn_next _
    · exact s.runWord_goesOn ..

theorem State.issueNext_goesOn : GoesOn s.issueNext := by
  refine goesOn_ite (goesOn_next s) (goesOn_ite (exec_goesOn _ s) ?_)
  split
  · exact goesOn_next _
  · exact goesOn_ite (goesOn_next _) (s.runClause_goesOn _)

theorem State.issue1_goesOn : GoesOn s.issue1 := by
  refine goesOn_ite s.issueNext_goesOn (goesOn_ite (goesOn_next s) ?_)
  obtain ⟨t, ht⟩ := s.issueNext_goesOn
  rw [ht]
  exact goesOn_next _

theorem State.chooseOn_goesOn (core quarter : Nat) : GoesOn (s.chooseOn core quarter) := by
  unfold State.chooseOn
  split
  · exact goesOn_next s
  · exact State.issue1_goesOn _

theorem State.chooseAae_goesOn (core : Nat) : GoesOn (s.chooseAae core) := by
  unfold State.chooseAae
  split
  · exact goesOn_next s
  · exact State.issue1_goesOn _

theorem State.takeTurn_goesOn (t : Turn) : GoesOn (s.takeTurn t) := by
  cases t with
  | choose c q => exact s.chooseOn_goesOn c q
  | aae c => exact s.chooseAae_goesOn c
  | event i => exact goesOn_ite (goesOn_next s) (exec_goesOn i s)
  | badCommand g o => exact s.command_goesOn g _
  | issue => exact s.issue1_goesOn
  | _ => exact goesOn_next _

theorem step_goesOn : GoesOn (step s) := by
  unfold step State.stepOn
  split
  · exact State.takeTurn_goesOn _ _
  · exact goesOn_ite (exec_goesOn _ _) (State.issue1_goesOn _)

end

/-- Settles O5: every arm of the dispatch ends in a next state, and so does every way a step can reach one. -/
theorem neverStops : Obligations.NeverStops := ⟨exec_goesOn, step_goesOn⟩

end Sys2Proof.Machine
end

section
/-! SUPPORT. Rounding is exact on what a format holds (09, R169-R171): a code is its sign and its magnitude, a magnitude is its
exponent field and its fraction, and a value at the format's own grid rounds to the magnitude it was decoded from. -/

namespace Sys2Proof.Machine

@[simp] theorem roundAt_zero (m : Nat) (st : Bool) : roundAt m 0 st = (m, st) := by simp [roundAt]

namespace Fmt

variable (f : Fmt)

/-- The sign bit and the bits below it, put together again. -/
theorem signed_signBit {c : Nat} (hc : c < 2 ^ f.width) :
    f.signed (c / 2 ^ (f.eb + f.fb) % 2 == 1) (c % 2 ^ (f.eb + f.fb)) = c := by
  have hsign : c / 2 ^ (f.eb + f.fb) < 2 :=
    Nat.div_lt_of_lt_mul (by rwa [← Nat.pow_succ, Nat.succ_eq_add_one, Nat.add_comm, ← Nat.add_assoc])
  have hdm := Nat.div_add_mod c (2 ^ (f.eb + f.fb))
  obtain h | h : c / 2 ^ (f.eb + f.fb) = 0 ∨ c / 2 ^ (f.eb + f.fb) = 1 :=
    Nat.le_one_iff_eq_zero_or_eq_one.mp (Nat.le_of_lt_succ hsign)
  all_goals simpa [signed, h] using hdm

/-- The bits below the sign: the exponent field above the fraction. -/
theorem magnitude_fields (c : Nat) :
    c % 2 ^ (f.eb + f.fb) = c / 2 ^ f.fb % 2 ^ f.eb * 2 ^ f.fb + c % 2 ^ f.fb := by
  rw [Nat.add_comm f.eb, Nat.pow_add, Nat.mod_mul, Nat.mul_comm, Nat.add_comm]

/-- An exponent field below the largest: the magnitude is that of a finite value. -/
theorem finite_lt_infCode {e m : Nat} (he : e < 2 ^ f.eb - 1) (hm : m < 2 ^ f.fb) : e * 2 ^ f.fb + m < f.infCode :=
  calc e * 2 ^ f.fb + m < (e + 1) * 2 ^ f.fb := by rw [Nat.succ_mul]; omega
    _ ≤ f.infCode := Nat.mul_le_mul_right _ he

theorem roundFin_zero (s : Bool) (e : Int) : f.roundFin s 0 e false = (f.signed s 0, 0) := by simp [roundFin, flagIf]

/-- A value whose last place is already the one that rounding keeps is delivered as it is, with no flag. -/
theorem roundFin_onGrid {s : Bool} {m : Nat} {e : Int} (hm : m ≠ 0)
    (hq : (if e + m.log2 - f.fb < f.qmin then f.qmin else e + m.log2 - f.fb) = e)
    (hfin : (e - f.qmin).toNat * 2 ^ f.fb + m < f.infCode) :
    f.roundFin s m e false = (f.signed s ((e - f.qmin).toNat * 2 ^ f.fb + m), 0) := by
  simp [roundFin, hm, hq, Nat.not_le.mpr hfin, flagIf]

theorem roundFin_subnormal (s : Bool) {m : Nat} (hm : m < 2 ^ f.fb) (he : 0 < 2 ^ f.eb - 1) :
    f.roundFin s m f.qmin false = (f.signed s m, 0) := by
  by_cases h0 : m = 0
  · subst h0
    exact f.roundFin_zero s _
  · have hlog : m.log2 < f.fb := (Nat.log2_lt h0).mpr hm
    have hfin := f.finite_lt_infCode he hm
    have := f.roundFin_onGrid (s := s) (e := f.qmin) h0 (if_pos (by omega)) (by simpa using hfin)
    simpa using this

theorem log2_significand {m : Nat} (hm : m < 2 ^ f.fb) : (2 ^ f.fb + m).log2 = f.fb :=
  (Nat.log2_eq_iff (by omega)).mpr ⟨by omega, by rw [Nat.pow_succ]; omega⟩

theorem roundFin_normal (s : Bool) {e m : Nat} (hm : m < 2 ^ f.fb) (h0 : e ≠ 0) (he : e < 2 ^ f.eb - 1) :
    f.roundFin s (2 ^ f.fb + m) (e - f.bias - f.fb) false = (f.signed s (e * 2 ^ f.fb + m), 0) := by
  have hplace : ((e : Int) - f.bias - f.fb - f.qmin).toNat = e - 1 := by unfold qmin; omega
  have hcode : (e - 1) * 2 ^ f.fb + (2 ^ f.fb + m) = e * 2 ^ f.fb + m := by
    rw [← Nat.add_assoc, ← Nat.succ_mul, Nat.succ_eq_add_one, Nat.sub_add_cancel (by omega)]
  have hfin := f.finite_lt_infCode he hm
  have hq : (e : Int) - f.bias - f.fb + (2 ^ f.fb + m).log2 - f.fb = e - f.bias - f.fb := by
    rw [f.log2_significand hm]; omega
  rw [f.roundFin_onGrid (by omega), hplace, hcode]
  · rw [hq, if_neg (by unfold qmin; omega)]
  · rwa [hplace, hcode]

/-- Rounding undoes decoding, in every format: an infinity, a subnormal or zero, a normal value. -/
theorem round_decode {c : Nat} (hc : c < 2 ^ f.width) (hnan : (f.decode c).isNan = false) : f.round (f.decode c) = (c, 0) := by
  have hcode := f.signed_signBit hc
  rw [f.magnitude_fields] at hcode
  have hm : c % 2 ^ f.fb < 2 ^ f.fb := Nat.mod_lt _ (Nat.two_pow_pos _)
  have he : c / 2 ^ f.fb % 2 ^ f.eb < 2 ^ f.eb := Nat.mod_lt _ (Nat.two_pow_pos _)
  unfold decode at hnan ⊢
  dsimp only at hnan ⊢
  split at hnan
  next htop =>
    split at hnan
    next hm0 =>
      rw [if_pos htop, if_pos hm0]
      rw [htop, hm0] at hcode
      exact Prod.ext hcode rfl
    next => simp [Num.isNan] at hnan
  next htop =>
    rw [if_neg htop]
    split
    next h0 =>
      rw [h0, Nat.zero_mul, Nat.zero_add] at hcode
      exact (f.roundFin_subnormal _ hm (by omega)).trans (by rw [hcode])
    next h0 => exact (f.roundFin_normal _ hm h0 (by omega)).trans (by rw [hcode])

end Fmt

/-- Settles O23: rounding undoes decoding in every format, so in the four named ones. -/
theorem roundOfDecode : Obligations.RoundOfDecode := fun f _ _ hc hnan => f.round_decode hc hnan

end Sys2Proof.Machine
end

section
/-! SUPPORT. Cross-lane words (11, R207-R211): a vector word whose sources can be read, the elements of a packed lane, the
permutations of an element row. -/

namespace Sys2Proof.Machine

/-! ## Vector words that can issue -/

theorem State.vectorOnly_execute {α : Type} {s : State} (h : s.cur.sl.kind = .execute) (r : Res α) : s.vectorOnly r = r := by
  simp [State.vectorOnly, Slice.scalar, h]

section
variable {s : State} {d : Nat} {q : List Src} {vs : List Lanes} {g : Group}

/-- A vector word with flags that can issue is done, with the value and the flags of its function. -/
theorem runCur_vwordF (h : Claims.Ready s d q vs g) (f : List Lanes → Lanes × W64) :
    ∃ t, s.runCur (s.vectorOnly (s.vwordF d q f)) = .next t ∧ Claims.Done s t d g (f vs).1 (f vs).2 0 := by
  obtain ⟨g', hg'⟩ := h.room (f vs).1
  refine ⟨_, ?_, g', hg', rfl⟩
  simp [State.vectorOnly_execute h.stream, State.vwordF, h.read, hg', State.advance]

/-- A vector word without flags is one whose function raises none. -/
theorem State.vword_eq_vwordF (f : List Lanes → Lanes) : s.vword d q f = s.vwordF d q fun vs => (f vs, 0) := by
  simp [State.vword, State.vwordF]

theorem runCur_vword (h : Claims.Ready s d q vs g) (f : List Lanes → Lanes) :
    ∃ t, s.runCur (s.vectorOnly (s.vword d q f)) = .next t ∧ Claims.Done s t d g (f vs) 0 0 := by
  rw [State.vword_eq_vwordF]
  exact runCur_vwordF h _

end

/-! ## Packed elements -/

@[simp] theorem lane_tab (f : Nat → W64) {l : Nat} (h : l < 32) : lane (tab f) l = f l := by
  simp [lane, tab, h]

theorem subEl_lt (x : W64) (e w : Nat) : subEl x e w < 2 ^ w := Nat.mod_lt _ (Nat.two_pow_pos _)

/-- The packed number of `l`'s elements: element `e` is where it was put, and the whole stays below its width. -/
theorem packed_element (w : Nat) (f : Nat → Nat) (l : List Nat) {e : Nat} (he : e < l.length) :
    l.foldr (fun e acc => f e % 2 ^ w + 2 ^ w * acc) 0 / 2 ^ (e * w) % 2 ^ w = f l[e] % 2 ^ w := by
  have hpos := Nat.two_pow_pos w
  induction l generalizing e with
  | nil => simp at he
  | cons x l ih =>
    cases e with
    | zero => simp
    | succ e =>
      rw [List.foldr_cons, Nat.succ_mul, Nat.add_comm (e * w) w, Nat.pow_add, ← Nat.div_div_eq_div_mul,
        Nat.add_mul_div_left _ _ hpos, Nat.div_eq_of_lt (Nat.mod_lt _ hpos), Nat.zero_add]
      exact ih (Nat.lt_of_succ_lt_succ he)

theorem packed_lt (w : Nat) (f : Nat → Nat) (l : List Nat) :
    l.foldr (fun e acc => f e % 2 ^ w + 2 ^ w * acc) 0 < 2 ^ (l.length * w) := by
  have hpos := Nat.two_pow_pos w
  induction l with
  | nil => simp
  | cons x l ih =>
    rw [List.foldr_cons, List.length_cons, Nat.succ_mul, Nat.pow_add, Nat.mul_comm (2 ^ (l.length * w))]
    calc _ < 2 ^ w + 2 ^ w * _ := Nat.add_lt_add_right (Nat.mod_lt _ hpos) _
      _ = 2 ^ w * (_ + 1) := by rw [Nat.mul_succ, Nat.add_comm]
      _ ≤ _ := Nat.mul_le_mul_left _ ih

theorem subEl_packEls {w n e : Nat} (f : Nat → Nat) (he : e < n) (hn : n * w ≤ 64) :
    subEl (packEls w n f) e w = f e % 2 ^ w := by
  have hlt := packed_lt w f (List.range n)
  rw [List.length_range] at hlt
  have hfit := Nat.lt_of_lt_of_le hlt (Nat.pow_le_pow_right Nat.two_pos hn)
  rw [subEl, packEls, BitVec.toNat_ofNat, Nat.mod_eq_of_lt hfit, packed_element w f _ (by simpa using he), List.getElem_range]

@[simp] theorem subEl_mapEls {w e : Nat} (f : Nat → Nat) (he : e < 64 / w) : subEl (mapEls w f) e w = f e % 2 ^ w :=
  subEl_packEls f he (Nat.div_mul_le_self 64 w)

/-! ## Element rows (R207) -/

theorem rowEl_lt (v : Lanes) (w i : Nat) : rowEl v w i < 2 ^ w := subEl_lt ..

theorem rowEl_rowOf {w k : Nat} (f : Nat → Nat) (hk : k < 32 * (64 / w)) : rowEl (rowOf w f) w k = f k % 2 ^ w := by
  have hpos : 0 < 64 / w := Nat.pos_of_mul_pos_left (Nat.zero_lt_of_lt hk)
  rw [rowEl, rowOf, lane_tab _ (Nat.div_lt_of_lt_mul (by rwa [Nat.mul_comm])), subEl_mapEls _ (Nat.mod_lt _ hpos),
    Nat.div_add_mod']

/-- The number of elements in a row, and in half of one. -/
theorem row_length (c : BitVec 2) : 32 * (64 / widthOf c) = 2048 / widthOf c := by revert c; decide
theorem half_row_length (c : BitVec 2) : 32 * (64 / widthOf c) / 2 = 1024 / widthOf c := by revert c; decide

/-! ## The permutations (R209, R211) -/

theorem State.subOk_pos {α : Type} (s : State) {e p : Nat} (r : Res α) (h : ¬p ≤ e) : s.subOk e p r = r := if_neg h

theorem State.subOk_neg {α : Type} (s : State) {e p : Nat} (r : Res α) (h : p ≤ e) :
    s.subOk e p r = .trap 0x02 s.exec' s.wordAux := if_pos h

/-- A vector word whose result is the row that `f` gives from the rows of its first two sources. -/
def State.permute (s : State) (d : Nat) (q : List Src) (w : Nat) (f : Lanes → Lanes → Nat → Nat) :
    Host.Outcome State Fault Refusal :=
  s.runCur (s.vectorOnly (s.vword d q fun vs => rowOf w (f (vs.getD 0 zeroLanes) (vs.getD 1 zeroLanes))))

/-- Every permutation is a move of elements of the table's function, at a width that a W field names. -/
theorem exec_of_perm (s : State) {i : Instr} {d : BitVec 7} {q : List Src} {w : Nat} {f : Lanes → Lanes → Nat → Nat}
    (h : Claims.perm i = some (d, q, w, f)) :
    exec i s = s.permute d.toNat q w f ∧ (∃ c, w = widthOf c) ∧ ∀ A B k, f A B k < 2 ^ w := by
  unfold Claims.perm at h
  split at h
  case h_1 d a b x y c =>
    cases h
    refine ⟨?_, ⟨c, rfl⟩, fun _ _ _ => rowEl_lt ..⟩
    show s.runCur (s.xperm2 d a b x y (widthOf c) _) = _
    rw [row_length]; rfl
  case h_2 d a k x c =>
    split at h
    case isTrue => cases h
    case isFalse hsub =>
      cases h
      exact ⟨congrArg s.runCur (s.subOk_pos _ hsub), ⟨c, rfl⟩, fun _ _ _ => rowEl_lt ..⟩
  case h_3 d a k x c =>
    cases h
    refine ⟨?_, ⟨c, rfl⟩, fun _ _ _ => rowEl_lt ..⟩
    show s.runCur (s.xperm1 d a x (widthOf c) _) = _
    rw [row_length]; rfl
  case h_4 d a k x c =>
    split at h
    case isTrue => cases h
    case isFalse hsub =>
      cases h
      exact ⟨congrArg s.runCur (s.subOk_pos _ hsub), ⟨c, rfl⟩, fun _ _ _ => rowEl_lt ..⟩
  case h_5 d a b x y c =>
    cases h
    refine ⟨rfl, ⟨c, rfl⟩, fun _ _ _ => ?_⟩
    dsimp only
    split <;> exact rowEl_lt ..
  case h_6 d a b x y c =>
    cases h
    refine ⟨?_, ⟨c, rfl⟩, fun _ _ _ => ?_⟩
    · show s.runCur (s.xperm2 d a b x y (widthOf c) _) = _
      rw [half_row_length]; rfl
    · dsimp only
      split <;> exact rowEl_lt ..
  case h_7 => cases h

/-- Settles O25: each permutation is a vector word whose result is a row of its sources' elements; a sub-element past the
width stops the two words that name one. -/
theorem permutationResults : Obligations.PermutationResults := by
  refine ⟨fun s i d q w f vs g hperm hready => ?_, fun s d a k x c hsub => ⟨?_, ?_⟩⟩
  · obtain ⟨hexec, ⟨c, rfl⟩, hlt⟩ := exec_of_perm s hperm
    obtain ⟨t, hrun, hdone⟩ := runCur_vword hready fun vs => rowOf (widthOf c) (f (vs.getD 0 zeroLanes) (vs.getD 1 zeroLanes))
    refine ⟨_, t, hexec.trans hrun, hdone, fun k hk => ?_⟩
    rw [rowEl_rowOf _ (by rwa [row_length]), Nat.mod_eq_of_lt (hlt ..)]
  · exact congrArg s.runCur (s.subOk_neg _ hsub)
  · exact congrArg s.runCur (s.subOk_neg _ hsub)

end Sys2Proof.Machine
end

section
/-! SUPPORT. Reductions and scans (11, R210): what an entry of the tree has gathered is a run of lanes, one step of the tree
puts two adjoining runs together, and so an operation that respects this gives the value of all the lanes of its run. -/

namespace Sys2Proof.Machine

/-! ## Runs of executing lanes -/

/-- The lanes of a mask among the `n` lanes from `a` on. -/
def laneRun (m : Mask) (a n : Nat) : List Nat := (List.range' a n).filter (inMask m)

theorem laneRun_append (m : Mask) (a n k : Nat) : laneRun m a n ++ laneRun m (a + n) k = laneRun m a (n + k) := by
  rw [laneRun, laneRun, laneRun, ← List.filter_append, List.range'_append_1]

theorem laneRun_all (m : Mask) : laneRun m 0 32 = lanesOf m := by rw [laneRun, lanesOf, List.range_eq_range']

theorem laneRun_one (m : Mask) (a : Nat) : laneRun m a 1 = if inMask m a then [a] else [] := by
  simp only [laneRun, List.range'_one, List.filter_cons, List.filter_nil]

/-- There is no lane past the last. -/
theorem laneRun_beyond (m : Mask) {a : Nat} (n : Nat) (h : 32 ≤ a) : laneRun m a n = [] := by
  refine List.filter_eq_nil_iff.mpr fun k hk => ?_
  rw [List.mem_range'_1] at hk
  simp [inMask, BitVec.getLsbD_of_ge m k (by omega)]

/-- The executing lanes up to `l`. -/
theorem laneRun_upTo (m : Mask) {l : Nat} (h : l < 32) : laneRun m 0 (l + 1) = (lanesOf m).filter fun k => decide (k ≤ l) := by
  have hrest : (laneRun m (0 + (l + 1)) (31 - l)).filter (fun k => decide (k ≤ l)) = [] := by
    refine List.filter_eq_nil_iff.mpr fun k hk => ?_
    have := List.mem_range'_1.mp (List.mem_filter.mp hk).1
    rw [decide_eq_true_eq]
    omega
  have hrun : (laneRun m 0 (l + 1)).filter (fun k => decide (k ≤ l)) = laneRun m 0 (l + 1) := by
    refine List.filter_eq_self.mpr fun k hk => ?_
    have := List.mem_range'_1.mp (List.mem_filter.mp hk).1
    rw [decide_eq_true_eq]
    omega
  have hsplit := laneRun_append m 0 (l + 1) (31 - l)
  rw [show l + 1 + (31 - l) = 32 by omega, laneRun_all] at hsplit
  rw [← hsplit, List.filter_append, hrest, hrun, List.append_nil]

theorem lanesOf_ne_nil {m : Mask} (h : m ≠ 0) : lanesOf m ≠ [] := fun hnil =>
  h (BitVec.eq_of_getLsbD_eq fun k hk => by
    simpa [inMask] using List.filter_eq_nil_iff.mp hnil k (List.mem_range.mpr hk))

/-! ## One step of the tree -/

/-- Flags that are never raised leave the flags as they are. -/
theorem foldl_or_zero {f : Nat → W64} (hf : ∀ k, f k = 0) (v : W64) (ks : List Nat) :
    ks.foldl (fun v k => v ||| f k) v = v := by
  induction ks with
  | nil => rfl
  | cons k ks ih => rw [List.foldl_cons, hf, show v ||| 0 = v from BitVec.or_zero, ih]

section
variable {op : Nat → Nat → Nat × W64} {pair : Nat → Option (Nat × Nat)} {t : List (Option Nat) × W64} {l : Nat}

theorem treeStep_pair {i j : Nat} (h : pair l = some (i, j)) (hl : l < 32) :
    (treeStep op pair t).1.getD l none = (combEl op (t.1.getD i none) (t.1.getD j none)).1 := by
  simp [treeStep, hl, h]

theorem treeStep_keeps (h : pair l = none) (hl : l < 32) : (treeStep op pair t).1.getD l none = t.1.getD l none := by
  simp [treeStep, hl, h]

theorem treeStep_beyond (hl : 32 ≤ l) : (treeStep op pair t).1.getD l none = none := by
  simp [treeStep, hl]

/-- An operation that raises no flag raises none in a step. -/
theorem treeStep_flags (hop : ∀ a b, (op a b).2 = 0) : (treeStep op pair t).2 = t.2 := by
  have hcomb : ∀ p q, (combEl op p q).2 = 0 := fun p q => by cases p <;> cases q <;> simp [combEl, hop]
  simp only [treeStep, List.foldl_map]
  exact foldl_or_zero (fun l => by split <;> simp only [hcomb]) ..

end

/-! ## What an entry has gathered -/

/-- An entry stands for the lanes `ks`: absent where there are none, or a value that `R` allows for them. -/
def Gathers (R : List Nat → Nat → Prop) (ks : List Nat) : Option Nat → Prop
  | none => ks = []
  | some y => R ks y

/-- Values of two lists of lanes combine to a value of both, the first before the second. -/
def Joins (op : Nat → Nat → Nat × W64) (R : List Nat → Nat → Prop) : Prop :=
  ∀ xs ys a b, R xs a → R ys b → R (xs ++ ys) (op a b).1

section
variable {op : Nat → Nat → Nat × W64} {R : List Nat → Nat → Prop}

theorem combEl_gathers (hop : Joins op R) {xs ys : List Nat} {p q : Option Nat} (hp : Gathers R xs p) (hq : Gathers R ys q) :
    Gathers R (xs ++ ys) (combEl op p q).1 := by
  cases p with
  | none => simpa [show xs = [] from hp, combEl] using hq
  | some a =>
    cases q with
    | none => simpa [show ys = [] from hq, combEl] using hp
    | some b => exact hop xs ys a b hp hq

/-- The entries before the first step: each executing lane its own value. -/
def leaves (m : Mask) (x : Nat → Nat) : List (Option Nat) :=
  (List.range 32).map fun l => if inMask m l then some (x l) else none

theorem leaves_gather {m : Mask} {x : Nat → Nat} (hx : ∀ k, R [k] (x k)) {l : Nat} (hl : l < 32) :
    Gathers R (laneRun m l 1) ((leaves m x).getD l none) := by
  rw [laneRun_one]
  by_cases h : inMask m l <;> simp [leaves, hl, h, Gathers, hx]

/-! ## The reduction -/

/-- The entries that a step of the reduction combines. -/
def reducePair (d l : Nat) : Option (Nat × Nat) := if l % (2 * d) = 0 then some (l, l + d) else none

theorem reduceEls_eq (x : List (Option Nat)) :
    reduceEls op x = [1, 2, 4, 8, 16].foldl (fun t d => treeStep op (reducePair d) t) (x, 0) := rfl

/-- Every `d`-th entry has gathered the `d` lanes from its own on. -/
def Blocks (R : List Nat → Nat → Prop) (m : Mask) (d : Nat) (t : List (Option Nat) × W64) : Prop :=
  ∀ l, l % d = 0 → Gathers R (laneRun m l d) (t.1.getD l none)

theorem leaves_blocks {m : Mask} {x : Nat → Nat} (hx : ∀ k, R [k] (x k)) : Blocks R m 1 (leaves m x, 0) := fun l _ => by
  by_cases hl : l < 32
  · exact leaves_gather hx hl
  · rw [laneRun_beyond m 1 (by omega)]
    simp [leaves, Gathers, hl]

theorem reduce_step (hop : Joins op R) {m : Mask} {d : Nat} {t : List (Option Nat) × W64} (h : Blocks R m d t) :
    Blocks R m (2 * d) (treeStep op (reducePair d) t) := fun l hd => by
  by_cases hl : l < 32
  · have hleft : l % d = 0 := Nat.mod_eq_zero_of_dvd (Nat.dvd_trans (Nat.dvd_mul_left d 2) (Nat.dvd_of_mod_eq_zero hd))
    have hright : (l + d) % d = 0 := by rw [Nat.add_mod_right, hleft]
    rw [treeStep_pair (if_pos hd) hl, Nat.two_mul, ← laneRun_append]
    exact combEl_gathers hop (h l hleft) (h (l + d) hright)
  · rw [treeStep_beyond (by omega), laneRun_beyond m _ (by omega)]
    rfl

/-- Entry 0 of the reduction has gathered all executing lanes. -/
theorem reduceEls_gathers (hop : Joins op R) {m : Mask} {x : Nat → Nat} (hx : ∀ k, R [k] (x k)) :
    Gathers R (lanesOf m) ((reduceEls op (leaves m x)).1.getD 0 none) := by
  have h := reduce_step hop <| reduce_step hop <| reduce_step hop <| reduce_step hop <| reduce_step hop <|
    leaves_blocks (m := m) hx
  rw [← laneRun_all]
  exact h 0 rfl

/-! ## The scan -/

/-- The entries that a step of the scan combines. -/
def scanPair (d l : Nat) : Option (Nat × Nat) := if d ≤ l then some (l - d, l) else none

theorem scanEls_eq (x : List (Option Nat)) :
    scanEls op x = [1, 2, 4, 8, 16].foldl (fun t d => treeStep op (scanPair d) t) (x, 0) := rfl

/-- Every entry has gathered the last `d` lanes up to its own, or all of them where there are not so many. -/
def Trails (R : List Nat → Nat → Prop) (m : Mask) (d : Nat) (t : List (Option Nat) × W64) : Prop :=
  ∀ l, l < 32 → Gathers R (laneRun m (l + 1 - d) (min (l + 1) d)) (t.1.getD l none)

theorem leaves_trails {m : Mask} {x : Nat → Nat} (hx : ∀ k, R [k] (x k)) : Trails R m 1 (leaves m x, 0) := fun l hl => by
  rw [Nat.add_sub_cancel, Nat.min_eq_right (Nat.le_add_left ..)]
  exact leaves_gather hx hl

theorem scan_step (hop : Joins op R) {m : Mask} {d : Nat} {t : List (Option Nat) × W64} (h : Trails R m d t) :
    Trails R m (2 * d) (treeStep op (scanPair d) t) := fun l hl => by
  by_cases hd : d ≤ l
  · have hstart : l + 1 - 2 * d = l - d + 1 - d := by omega
    have hnext : l + 1 - d = l - d + 1 - d + min (l - d + 1) d := by omega
    have hlen : min (l + 1) (2 * d) = min (l - d + 1) d + min (l + 1) d := by omega
    have hright := h l hl
    rw [hnext] at hright
    rw [treeStep_pair (if_pos hd) hl, hstart, hlen, ← laneRun_append]
    exact combEl_gathers hop (h (l - d) (by omega)) hright
  · have hstart : l + 1 - 2 * d = l + 1 - d := by omega
    have hlen : min (l + 1) (2 * d) = min (l + 1) d := by omega
    rw [treeStep_keeps (if_neg hd) hl, hstart, hlen]
    exact h l hl

/-- Entry `l` of the scan has gathered the executing lanes up to `l`. -/
theorem scanEls_gathers (hop : Joins op R) {m : Mask} {x : Nat → Nat} (hx : ∀ k, R [k] (x k)) {l : Nat} (hl : l < 32) :
    Gathers R ((lanesOf m).filter fun k => decide (k ≤ l)) ((scanEls op (leaves m x)).1.getD l none) := by
  have h := scan_step hop <| scan_step hop <| scan_step hop <| scan_step hop <| scan_step hop <|
    leaves_trails (m := m) hx
  have hl' := h l hl
  rwa [show l + 1 - 2 * (2 * (2 * (2 * (2 * 1)))) = 0 by omega, Nat.min_eq_left (by omega), laneRun_upTo m hl] at hl'

/-! ## The word -/

theorem reduceEls_flags (hop : ∀ a b, (op a b).2 = 0) (x : List (Option Nat)) : (reduceEls op x).2 = 0 := by
  simp [reduceEls_eq, treeStep_flags hop]

theorem scanEls_flags (hop : ∀ a b, (op a b).2 = 0) (x : List (Option Nat)) : (scanEls op x).2 = 0 := by
  simp [scanEls_eq, treeStep_flags hop]

theorem treeWord_flags (hop : ∀ a b, (op a b).2 = 0) (m : Mask) (w : Nat) (scan : Bool) (v : Lanes) :
    (treeWord m w scan op v).2 = 0 := by
  simp only [treeWord, List.foldl_map]
  refine foldl_or_zero (fun e => ?_) ..
  cases scan <;> simp [reduceEls_flags hop, scanEls_flags hop]

/-- Element `e` of a lane of the result: that of the tree over position `e`. -/
theorem treeWord_reduce (m : Mask) (v : Lanes) {w l e : Nat} (hl : l < 32) (he : e < 64 / w) :
    subEl (lane (treeWord m w false op v).1 l) e w =
      ((reduceEls op (leaves m fun k => subEl (lane v k) e w)).1.getD 0 none).getD 0 % 2 ^ w := by
  simp [treeWord, hl, he, leaves]

theorem treeWord_scan (m : Mask) (v : Lanes) {w l e : Nat} (hl : l < 32) (he : e < 64 / w) :
    subEl (lane (treeWord m w true op v).1 l) e w =
      ((scanEls op (leaves m fun k => subEl (lane v k) e w)).1.getD l none).getD 0 % 2 ^ w := by
  simp [treeWord, hl, he, leaves]

end

/-! ## Sums -/

/-- The sum modulo 2^w of the values of the lanes. -/
def SumOf (w : Nat) (x : Nat → Nat) (ks : List Nat) (y : Nat) : Prop := y = (ks.map x).sum % 2 ^ w

theorem sumOf_joins (w : Nat) (x : Nat → Nat) : Joins (fun p q => ((p + q) % 2 ^ w, 0)) (SumOf w x) := by
  rintro xs ys _ _ rfl rfl
  simp [SumOf]

theorem sumOf_leaf {w : Nat} {x : Nat → Nat} (hx : ∀ k, x k < 2 ^ w) (k : Nat) : SumOf w x [k] (x k) := by
  simp [SumOf, Nat.mod_eq_of_lt (hx k)]

/-- Where no lane takes part, the absent entry reads as the empty sum. -/
theorem sumOf_of_gathers {w : Nat} {x : Nat → Nat} {ks : List Nat} {o : Option Nat} (h : Gathers (SumOf w x) ks o) :
    SumOf w x ks (o.getD 0 % 2 ^ w) := by
  cases o with
  | none => simp [show ks = [] from h, SumOf]
  | some y => rw [show y = _ from h, Option.getD_some, Nat.mod_mod, SumOf]

theorem foldl_add_cast (x : Nat → Nat) (ks : List Nat) (n : Nat) :
    ks.foldl (fun n k => n + (x k : Int)) n = ((n + (ks.map x).sum : Nat) : Int) := by
  induction ks generalizing n with
  | nil => rfl
  | cons k ks ih => rw [List.foldl_cons, ← Int.natCast_add, ih, List.map_cons, List.sum_cons, Nat.add_assoc]

theorem sumOf_iff_foldl {w : Nat} {x : Nat → Nat} {ks : List Nat} {y : Nat} :
    SumOf w x ks y ↔ (y : Int) = ks.foldl (fun n k => n + (x k : Int)) 0 % 2 ^ w := by
  have hcast := foldl_add_cast x ks 0
  rw [Nat.zero_add] at hcast
  rw [SumOf, show (0 : Int) = (0 : Nat) from rfl, hcast]
  norm_cast

/-! ## Selections -/

/-- The value of one of the lanes, with the least key among them. -/
def LeastOf (key : Nat → Int) (x : Nat → Nat) (ks : List Nat) (y : Nat) : Prop :=
  (∃ k ∈ ks, y = x k) ∧ ∀ k ∈ ks, key y ≤ key (x k)

/-- The operation answers one of its operands, that of the lesser key. -/
def Selects (key : Nat → Int) (op : Nat → Nat → Nat) : Prop :=
  ∀ a b, (op a b = a ∧ key a ≤ key b) ∨ (op a b = b ∧ key b ≤ key a)

theorem leastOf_joins {key : Nat → Int} {op : Nat → Nat → Nat} (hop : Selects key op) (x : Nat → Nat) :
    Joins (fun p q => (op p q, 0)) (LeastOf key x) := by
  rintro xs ys a b ⟨⟨i, hi, hai⟩, ha⟩ ⟨⟨j, hj, hbj⟩, hb⟩
  dsimp only [LeastOf]
  obtain ⟨hsel, hle⟩ | ⟨hsel, hle⟩ := hop a b <;> rw [hsel]
  · exact ⟨⟨i, List.mem_append_left _ hi, hai⟩, fun k hk =>
      (List.mem_append.mp hk).elim (ha k) fun hk => Int.le_trans hle (hb k hk)⟩
  · exact ⟨⟨j, List.mem_append_right _ hj, hbj⟩, fun k hk =>
      (List.mem_append.mp hk).elim (fun hk => Int.le_trans hle (ha k hk)) (hb k)⟩

theorem leastOf_leaf (key : Nat → Int) (x : Nat → Nat) (k : Nat) : LeastOf key x [k] (x k) := by simp [LeastOf]

theorem leastOf_of_gathers {key : Nat → Int} {w : Nat} {x : Nat → Nat} (hx : ∀ k, x k < 2 ^ w) {ks : List Nat}
    {o : Option Nat} (h : Gathers (LeastOf key x) ks o) (hks : ks ≠ []) : LeastOf key x ks (o.getD 0 % 2 ^ w) := by
  cases o with
  | none => exact absurd h hks
  | some y =>
    have hleast : LeastOf key x ks y := h
    obtain ⟨⟨k, -, hk⟩, -⟩ := hleast
    rw [Option.getD_some, Nat.mod_eq_of_lt (hk ▸ hx k)]
    exact h

theorem minEl_selects (w : Nat) : Selects (sx w) (minEl w) := fun a b => by
  unfold minEl
  split
  next h => exact .inl ⟨rfl, Int.le_of_lt h⟩
  next h => exact .inr ⟨rfl, Int.not_lt.mp h⟩

/-- The greatest is the least by the opposite order. -/
theorem maxEl_selects (w : Nat) : Selects (fun y => -sx w y) (maxEl w) := fun a b => by
  unfold maxEl
  split
  next h => exact .inr ⟨rfl, Int.neg_le_neg (Int.le_of_lt h)⟩
  next h => exact .inl ⟨rfl, Int.neg_le_neg (Int.not_lt.mp h)⟩

/-! ## The words -/

theorem U_eq_subEl (v : W64) (e w : Nat) : Claims.U v e w = subEl v e w := rfl

theorem S_eq_sx (v : W64) (e w : Nat) : Claims.S v e w = sx w (subEl v e w) := by
  unfold Claims.S sx
  rw [U_eq_subEl]
  norm_cast

section
variable {s : State} {d a : BitVec 7} {x : BitVec 1} {vs : List Lanes} {g : Group}

/-- A reduction or scan that can issue is done, with the row and the flags of its tree. -/
theorem runCur_xtree (h : Claims.Ready s d.toNat [⟨a.toNat, x == 1⟩] vs g) (w : Nat) (scan : Bool)
    (op : Nat → Nat → Nat × W64) :
    ∃ t, s.runCur (s.xtree d a x w scan op) = .next t ∧ Claims.Done s t d.toNat g
      (treeWord s.exec' w scan op (vs.getD 0 zeroLanes)).1 (treeWord s.exec' w scan op (vs.getD 0 zeroLanes)).2 0 :=
  runCur_vwordF h _

/-- An integer one raises no flag. -/
theorem runCur_xtree_int (h : Claims.Ready s d.toNat [⟨a.toNat, x == 1⟩] vs g) (w : Nat) (scan : Bool)
    (op : Nat → Nat → Nat) :
    ∃ t, s.runCur (s.xtree d a x w scan fun p q => (op p q, 0)) = .next t ∧
      Claims.Done s t d.toNat g (treeWord s.exec' w scan (fun p q => (op p q, 0)) (vs.getD 0 zeroLanes)).1 0 0 := by
  simpa [treeWord_flags] using runCur_xtree h w scan fun p q => (op p q, 0)

end

/-- A selecting reduction gives every lane, at each position, the least by the key. -/
theorem treeWord_least {m : Mask} (hm : m ≠ 0) (v : Lanes) {key : Nat → Int} {op : Nat → Nat → Nat} (hop : Selects key op)
    {w l e : Nat} (hl : l < 32) (he : e < 64 / w) :
    LeastOf key (fun k => subEl (lane v k) e w) (lanesOf m)
      (subEl (lane (treeWord m w false (fun p q => (op p q, 0)) v).1 l) e w) := by
  rw [treeWord_reduce m v hl he]
  exact leastOf_of_gathers (fun _ => subEl_lt ..) (reduceEls_gathers (leastOf_joins hop _) (leastOf_leaf _ _))
    (lanesOf_ne_nil hm)

/-- The sum over all executing lanes in every lane, and over those up to it in each lane. -/
theorem treeWord_sum (m : Mask) (v : Lanes) {w l e : Nat} (hl : l < 32) (he : e < 64 / w) :
    SumOf w (fun k => subEl (lane v k) e w) (lanesOf m)
      (subEl (lane (treeWord m w false (fun p q => ((p + q) % 2 ^ w, 0)) v).1 l) e w) := by
  rw [treeWord_reduce m v hl he]
  exact sumOf_of_gathers (reduceEls_gathers (sumOf_joins _ _) (sumOf_leaf fun _ => subEl_lt ..))

theorem treeWord_scanSum (m : Mask) (v : Lanes) {w l e : Nat} (hl : l < 32) (he : e < 64 / w) :
    SumOf w (fun k => subEl (lane v k) e w) ((lanesOf m).filter fun k => decide (k ≤ l))
      (subEl (lane (treeWord m w true (fun p q => ((p + q) % 2 ^ w, 0)) v).1 l) e w) := by
  rw [treeWord_scan m v hl he]
  exact sumOf_of_gathers (scanEls_gathers (sumOf_joins _ _) (sumOf_leaf fun _ => subEl_lt ..) hl)

/-- The four integer words. -/
theorem integerReductions : Claims.IntegerReductions := by
  intro s d a x w vs g h
  refine ⟨?add, ?min, ?max, ?scan⟩
  case add =>
    obtain ⟨t, hrun, hdone⟩ := runCur_xtree_int h (widthOf w) false fun p q => (p + q) % 2 ^ widthOf w
    exact ⟨_, t, hrun, hdone, fun l e hl he => sumOf_iff_foldl.mp (treeWord_sum _ _ hl he)⟩
  case min =>
    obtain ⟨t, hrun, hdone⟩ := runCur_xtree_int h (widthOf w) false (minEl (widthOf w))
    refine ⟨_, t, hrun, hdone, fun l e hl he hm => ?_⟩
    obtain ⟨⟨k, hk, heq⟩, hle⟩ := treeWord_least hm (vs.getD 0 zeroLanes) (minEl_selects (widthOf w)) hl he
    simp only [S_eq_sx]
    exact ⟨⟨k, hk, congrArg Nat.cast heq⟩, hle⟩
  case max =>
    obtain ⟨t, hrun, hdone⟩ := runCur_xtree_int h (widthOf w) false (maxEl (widthOf w))
    refine ⟨_, t, hrun, hdone, fun l e hl he hm => ?_⟩
    obtain ⟨⟨k, hk, heq⟩, hle⟩ := treeWord_least hm (vs.getD 0 zeroLanes) (maxEl_selects (widthOf w)) hl he
    simp only [S_eq_sx]
    exact ⟨⟨k, hk, congrArg Nat.cast heq⟩, fun k hk => Int.neg_le_neg_iff.mp (hle k hk)⟩
  case scan =>
    obtain ⟨t, hrun, hdone⟩ := runCur_xtree_int h (widthOf w) true fun p q => (p + q) % 2 ^ widthOf w
    exact ⟨_, t, hrun, hdone, fun l e hl he _ => sumOf_iff_foldl.mp (treeWord_scanSum _ _ hl he)⟩

/-- The three floating-point words: their steps are one addition or selection, rounded. -/
theorem floatReductions : Claims.FloatReductions := fun _ _ _ _ _ _ h =>
  ⟨runCur_xtree h 32 false (fp32.bin addNum), runCur_xtree h 32 false (pick32 Num.max),
    runCur_xtree h 32 true (fp32.bin addNum)⟩

/-- Settles O26: an entry of the tree stands for a run of executing lanes, of which the integer words give the sum, the least or
the greatest; the floating-point words give the tree itself. -/
theorem reductions : Obligations.Reductions := ⟨integerReductions, floatReductions⟩

end Sys2Proof.Machine
end

section
/-! SUPPORT. The level-index words (12, R216-R223): flags gathered over elements and lanes, the format that W names, and each
word of the tables as one vector word of its element function. -/

namespace Sys2Proof.Machine

/-! ## Flags gathered over elements and lanes -/

/-- Flags gathered in two registers at once are those gathered in each. -/
theorem foldl_or_pair (f : Nat → W64 × W64) (ks : List Nat) (v u : W64) :
    ks.foldl (fun (t : W64 × W64) k => (t.1 ||| (f k).1, t.2 ||| (f k).2)) (v, u) =
      (ks.foldl (fun v k => v ||| (f k).1) v, ks.foldl (fun u k => u ||| (f k).2) u) := by
  induction ks generalizing v u with
  | nil => rfl
  | cons k ks ih => exact ih _ _

/-- Flags gathered onto `v` are `v` with those gathered alone. -/
theorem foldl_or_start (f : Nat → W64) (ks : List Nat) (v : W64) :
    ks.foldl (fun v k => v ||| f k) v = v ||| ks.foldl (fun v k => v ||| f k) 0 := by
  induction ks generalizing v with
  | nil => exact BitVec.or_zero.symm
  | cons k ks ih =>
    rw [List.foldl_cons, List.foldl_cons, ih, ih (0 ||| f k), show (0 : W64) ||| f k = f k from BitVec.zero_or, BitVec.or_assoc]

/-- Gathering the flags of each lane's elements first and then those of the lanes is gathering them all in turn. -/
theorem foldl_or_lanes (f : Nat → Nat → W64) (ls es : List Nat) (v : W64) :
    ls.foldl (fun v l => v ||| es.foldl (fun v e => v ||| f l e) 0) v =
      ls.foldl (fun v l => es.foldl (fun v e => v ||| f l e) v) v := by
  simp only [← foldl_or_start]

/-! ## A vector word with both flags -/

theorem packEls_lt (w n : Nat) (f : Nat → Nat) : (packEls w n f).toNat < 2 ^ (n * w) := by
  rw [packEls, BitVec.toNat_ofNat]
  exact Nat.lt_of_le_of_lt (Nat.mod_le _ _) (by simpa using packed_lt w f (List.range n))

section
variable {s : State} {q : List Src} {vs : List Lanes} {g : Group}

/-- A level-index word that can issue is done, with the lane values of its function and both flags of the lanes of EXEC. -/
theorem runCur_vsliWord {d : Nat} (h : Claims.Ready s d q vs g) (f : List Lanes → Nat → W64 × W64 × W64) :
    ∃ t, s.runCur (s.vectorOnly (s.vsliWord d q f)) = .next t ∧ Claims.Done s t d g (tab fun l => (f vs l).1)
      ((lanesOf s.exec').foldl (fun v l => v ||| (f vs l).2.1) 0)
      ((lanesOf s.exec').foldl (fun v l => v ||| (f vs l).2.2) 0) := by
  obtain ⟨g', hg'⟩ := h.room (tab fun l => (f vs l).1)
  refine ⟨_, ?_, g', hg', rfl⟩
  simp [State.vectorOnly_execute h.stream, State.vsliWord, h.read, hg', State.advance, foldl_or_pair fun l => (f vs l).2]

/-! ## The words of one format -/

/-- The formats by W: 10 is the one of 32 bits, 01 the one of 16. -/
theorem State.sliWidth_legal {α : Type} {w : BitVec 2} {t : SliFmt} (h : w = 2 ∧ t = sli32 ∨ w = 1 ∧ t = sli16)
    (k : SliFmt → Res α) : s.sliWidth w k = k t := by
  obtain ⟨rfl, rfl⟩ | ⟨rfl, rfl⟩ := h <;> rfl

theorem State.sliWidth_illegal {α : Type} {w : BitVec 2} (h : sliWidthOk w = false) (k : SliFmt → Res α) :
    s.sliWidth w k = .trap 0x02 s.exec' s.wordAux := by
  have h2 : w ≠ 2 := by rintro rfl; cases h
  have h1 : w ≠ 1 := by rintro rfl; cases h
  rw [State.sliWidth, if_neg h2, if_neg h1]

/-- The words of one format raise no floating-point flag. -/
theorem sliLane_fflg (t : SliFmt) (f : Nat → Nat × W64) : (sliLane t f).2.1 = 0 := rfl

/-- A word whose elements, in the format that W names, are `f` of those of its first two sources. -/
def State.sliWord (s : State) (d : Nat) (q : List Src) (w : BitVec 2) (f : SliFmt → Nat → Nat → Nat × W64) :
    Host.Outcome State Fault Refusal :=
  s.runCur (s.vectorOnly (s.sliWidth w fun t => s.vsliWord d q fun vs l =>
    sliLane t fun e => f t (subEl (srcLane vs 0 l) e t.w) (subEl (srcLane vs 1 l) e t.w)))

/-- slceq's element is the table's. -/
theorem allOnesIf_ceq (t : SliFmt) (p q : Nat) :
    allOnesIf t.w (t.ceq p q) = if p ≠ t.nanCode ∧ q ≠ t.nanCode ∧ p = q then 2 ^ t.w - 1 else 0 := by
  simp [allOnesIf, SliFmt.ceq, and_assoc]

/-- Every word of the table is such a word, of the table's function at each format. -/
theorem exec_of_sli (s : State) {t : SliFmt} {i : Instr} {d : BitVec 7} {q : List Src} {w : BitVec 2}
    {f : Nat → Nat → Nat × W64} (h : Claims.sli t i = some (d, q, w, f)) :
    ∃ F : SliFmt → Nat → Nat → Nat × W64, F t = f ∧ exec i s = s.sliWord d.toNat q w F := by
  unfold Claims.sli at h
  split at h
  case h_1 => cases h; exact ⟨fun t => t.flagged2 t.add, rfl, rfl⟩
  case h_2 => cases h; exact ⟨fun t => t.flagged2 fun p q => t.add p (t.neg q), rfl, rfl⟩
  case h_3 => cases h; exact ⟨fun t => t.flagged2 t.mul, rfl, rfl⟩
  case h_4 => cases h; exact ⟨fun t => t.flagged2 t.div, rfl, rfl⟩
  case h_5 => cases h; exact ⟨fun t p q => (t.min p q, 0), rfl, rfl⟩
  case h_6 => cases h; exact ⟨fun t p q => (t.max p q, 0), rfl, rfl⟩
  case h_7 => cases h; exact ⟨fun t p q => (allOnesIf t.w (t.ceq p q), 0), by simp only [allOnesIf_ceq], rfl⟩
  case h_8 => cases h; exact ⟨fun t p q => (allOnesIf t.w (t.lt p q), 0), rfl, rfl⟩
  case h_9 => cases h; exact ⟨fun t p _ => t.rcp p, rfl, rfl⟩
  case h_10 => cases h; exact ⟨fun t p _ => (t.neg p, 0), rfl, rfl⟩
  case h_11 => cases h; exact ⟨fun t p _ => (t.abs p, 0), rfl, rfl⟩
  case h_12 => cases h; exact ⟨fun t p _ => t.flagged1 t.exp p, rfl, rfl⟩
  case h_13 => cases h; exact ⟨fun t p _ => t.flagged1 t.log p, rfl, rfl⟩
  case h_14 => cases h; exact ⟨fun t p _ => t.flagged1 t.sqrt p, rfl, rfl⟩
  case h_15 => cases h; exact ⟨fun t p _ => (t.lvl p, 0), rfl, rfl⟩
  case h_16 => cases h

/-- Such a word at a W that names a format: its elements, and the level-index flags of the lanes of EXEC. -/
theorem State.sliWord_done {d : Nat} {w : BitVec 2} {t : SliFmt} (hw : w = 2 ∧ t = sli32 ∨ w = 1 ∧ t = sli16)
    (h : Claims.Ready s d q vs g) (f : SliFmt → Nat → Nat → Nat × W64) :
    let el := fun l e => f t (subEl (lane (vs.getD 0 zeroLanes) l) e t.w) (subEl (lane (vs.getD 1 zeroLanes) l) e t.w)
    ∃ r t', s.sliWord d q w f = .next t' ∧
      Claims.Done s t' d g r 0
        ((lanesOf s.exec').foldl (fun v l => (List.range (64 / t.w)).foldl (fun v e => v ||| (el l e).2) v) 0) ∧
      ∀ l e, l < 32 → e < 64 / t.w → subEl (lane r l) e t.w = (el l e).1 % 2 ^ t.w := by
  intro el
  obtain ⟨t', hrun, hdone⟩ := runCur_vsliWord h fun vs l =>
    sliLane t fun e => f t (subEl (srcLane vs 0 l) e t.w) (subEl (srcLane vs 1 l) e t.w)
  refine ⟨tab fun l => packEls t.w (64 / t.w) fun e => (el l e).1, t', ?_, ?_, fun l e hl he => ?_⟩
  · rwa [State.sliWord, State.sliWidth_legal hw]
  · rw [← foldl_or_lanes fun l e => (el l e).2]
    rwa [foldl_or_zero fun _ => sliLane_fflg t _] at hdone
  · rw [lane_tab _ hl]
    exact subEl_packEls _ he (Nat.div_mul_le_self 64 t.w)

/-- Such a word at another W. -/
theorem State.sliWord_illegal {w : BitVec 2} (hw : sliWidthOk w = false) (d : Nat) (q : List Src)
    (f : SliFmt → Nat → Nat → Nat × W64) : s.sliWord d q w f = .next (s.trap 0x02 s.exec' s.wordAux) := by
  rw [State.sliWord, State.sliWidth_illegal hw, State.vectorOnly, ite_self]
  rfl

/-! ## The conversions -/

/-- Every conversion of the table is the model's conversion of the table's widths, whose elements fit a lane. -/
theorem exec_of_sliCvt (s : State) {i : Instr} {d : BitVec 7} {q : Src} {ws wd n : Nat} {f : Nat → Nat × W64 × W64}
    (h : Claims.sliCvt i = some (d, q, ws, wd, n, f)) :
    n * wd ≤ 64 ∧ ∃ (a : BitVec 7) (x : BitVec 1), q = ⟨a.toNat, x == 1⟩ ∧ exec i s = s.runCur (s.slcvt d a x ws wd n f) := by
  unfold Claims.sliCvt at h
  split at h
  case h_7 => cases h
  all_goals
    cases h
    exact ⟨by decide, _, _, rfl, rfl⟩

/-- A conversion that can issue: its elements, zeros above them, and both flags of the lanes of EXEC. -/
theorem State.slcvt_done {d a : BitVec 7} {x : BitVec 1} {wd n : Nat} (hfit : n * wd ≤ 64)
    (h : Claims.Ready s d.toNat [⟨a.toNat, x == 1⟩] vs g) (ws : Nat) (f : Nat → Nat × W64 × W64) :
    let el := fun l e => f (subEl (lane (vs.getD 0 zeroLanes) l) e ws)
    ∃ r t', s.runCur (s.slcvt d a x ws wd n f) = .next t' ∧
      Claims.Done s t' d.toNat g r
        ((lanesOf s.exec').foldl (fun v l => (List.range n).foldl (fun v e => v ||| (el l e).2.1) v) 0)
        ((lanesOf s.exec').foldl (fun v l => (List.range n).foldl (fun v e => v ||| (el l e).2.2) v) 0) ∧
      (∀ l e, l < 32 → e < n → subEl (lane r l) e wd = (el l e).1 % 2 ^ wd) ∧
      ∀ l, l < 32 → (lane r l).toNat < 2 ^ (n * wd) := by
  intro el
  obtain ⟨t', hrun, hdone⟩ := runCur_vsliWord h _
  refine ⟨tab fun l => packEls wd n fun e => (el l e).1, t', hrun, ?_, fun l e hl he => ?_, fun l hl => ?_⟩
  · rwa [← foldl_or_lanes fun l e => (el l e).2.1, ← foldl_or_lanes fun l e => (el l e).2.2]
  · rw [lane_tab _ hl]
    exact subEl_packEls _ he hfit
  · rw [lane_tab _ hl]
    exact packEls_lt ..

end

/-- Settles O24: each word of the table is one vector word of the table's function, which traps where W names no format, and
each conversion one of the table's widths. -/
theorem sliResults : Obligations.SliResults := by
  refine ⟨fun s i t d q w f vs g hsli hw hready => ?_, fun s i d q ws wd n f vs g hcvt hready => ?_,
    fun s i t d q w f hsli hw => ?_⟩
  · obtain ⟨F, rfl, hexec⟩ := exec_of_sli s hsli
    rw [hexec]
    exact State.sliWord_done hw hready F
  · obtain ⟨hfit, a, x, rfl, hexec⟩ := exec_of_sliCvt s hcvt
    rw [hexec]
    exact State.slcvt_done hfit hready ws f
  · obtain ⟨F, -, hexec⟩ := exec_of_sli s hsli
    exact hexec.trans (State.sliWord_illegal hw _ _ F)

end Sys2Proof.Machine
end
